-- ==== Sys2Proof/Word.lean ====
section
/-! DEFINITION. Word types of the K9 and their plainest arithmetic (R5, R7). -/
namespace Sys2Proof

/-- One byte. -/
abbrev Byte := BitVec 8
/-- A syllable, header or extension word. -/
abbrev W32 := BitVec 32
/-- A scalar register or system register. -/
abbrev W64 := BitVec 64
/-- A predicate register: one bit per byte lane (R136). -/
abbrev W128 := BitVec 128
/-- A vector register (R136). -/
abbrev W1024 := BitVec 1024
/-- One 64-byte line. -/
abbrev LineData := BitVec 512

/-- Bits [hi:lo] of a number, as a number (R5). -/
def bits (x hi lo : Nat) : Nat := (x >>> lo) % 2 ^ (hi + 1 - lo)

/-- One bit of a number. -/
def bit (x i : Nat) : Bool := x.testBit i

/-- The n-bit value x read as two's complement (R7 sext). -/
def sextInt (x n : Nat) : Int :=
  if n = 0 then 0
  else if 2 ^ (n - 1) ≤ x % 2 ^ n then (x % 2 ^ n : Nat) - (2 ^ n : Nat) else (x % 2 ^ n : Nat)

/-- An integer reduced to n bits. -/
def wrapInt (z : Int) (n : Nat) : Nat := (z % (2 ^ n : Nat)).toNat

/-- R7: the n-bit value x sign-extended to 64 bits. -/
def sext64 (x n : Nat) : W64 := BitVec.ofInt 64 (sextInt x n)

/-- The bytes of a number, least significant first (R5). -/
def toBytes : Nat → Nat → List Byte
  | 0, _ => []
  | k + 1, x => BitVec.ofNat 8 x :: toBytes k (x / 256)

/-- The number whose bytes, least significant first, are given (R5). -/
def ofBytes : List Byte → Nat
  | [] => 0
  | b :: bs => b.toNat + 256 * ofBytes bs

/-- The number of one bits among the low n bits. -/
def popCount : Nat → Nat → Nat
  | 0, _ => 0
  | n + 1, x => (if x.testBit n then 1 else 0) + popCount n x

/-- Leading zeros of an n-bit number. -/
def leadZeros : Nat → Nat → Nat
  | 0, _ => 0
  | n + 1, x => if x.testBit n then 0 else 1 + leadZeros n x

/-- Trailing zeros, looking at bit i first with n bits left to see. -/
def trailZerosFrom : Nat → Nat → Nat → Nat
  | 0, _, _ => 0
  | n + 1, i, x => if x.testBit i then 0 else 1 + trailZerosFrom n (i + 1) x

/-- Trailing zeros of an n-bit number, n for zero. -/
def trailZeros (n x : Nat) : Nat := trailZerosFrom n 0 x

end Sys2Proof
end

