-- ==== Sys2Proof/Syntax.lean ====
section
/-! DEFINITION. The ONE instruction type of the K9: a constructor for every row of spec/opcode_table.json.
Syllables carry the fields of their class (R144, R145, R165, R188, R233, R253, R261); the steps of the
machine that have no encoding are plain names, and their data is an EventArg. -/
namespace Sys2Proof

/-- A vector cluster (R137). -/
inductive Cl where | west | east
deriving DecidableEq, Repr

/-- The two S slots (R142). -/
inductive SSlot where | s0 | s1
deriving DecidableEq, Repr

/-- The three V slots; V2 with its header cluster bit (R137, R142). -/
inductive VSlot where | v0 | v1 | v2w | v2e
deriving DecidableEq, Repr

/-- The two M slots (R142). -/
inductive MSlot where | m0 | m1
deriving DecidableEq, Repr

/-- gn and a 5-bit guard that may name any predicate (R138, R144). -/
structure Guard where
  neg : Bool
  p : BitVec 5
deriving DecidableEq, Repr

/-- gn and a 4-bit cluster-local guard (R137). -/
structure VGuard where
  neg : Bool
  p : BitVec 4
deriving DecidableEq, Repr

/-- op2 of an integer S syllable (R253). -/
inductive Op2 where
  | reg (b : BitVec 6)
  | imm (b : BitVec 6)
  | ext (w : W32)
deriving DecidableEq, Repr

/-- op2 of a floating-point S syllable (R253): a register or an FP32 pattern. -/
inductive FOp2 where
  | reg (b : BitVec 6)
  | ext (w : W32)
deriving DecidableEq, Repr

/-- Width codes of V, F and vector M syllables (R144); code 11 is illegal. -/
inductive VW where | w256 | w512 | w1024
deriving DecidableEq, Repr

/-- Element types of V and F syllables (R144). -/
inductive VT where | i8 | i16 | i32 | bf16 | f16 | f32 | e4m3 | e5m2
deriving DecidableEq, Repr

/-- The operand a V syllable marked imm may replace by its extension word (R211). -/
inductive VOp where
  | reg (b : BitVec 5)
  | imm (w : W32)
deriving DecidableEq, Repr

/-- The displacement of an M syllable (R188): off5 scaled, or a signed extension word. -/
inductive MOff where
  | short (o : BitVec 5)
  | ext (w : W32)
deriving DecidableEq, Repr

structure SBin where
  slot : SSlot
  g : Guard
  d : BitVec 6
  a : BitVec 6
  op2 : Op2
deriving DecidableEq, Repr
structure SUn where
  slot : SSlot
  g : Guard
  d : BitVec 6
  a : BitVec 6
deriving DecidableEq, Repr
structure SMov where
  slot : SSlot
  g : Guard
  d : BitVec 6
  op2 : Op2
deriving DecidableEq, Repr
structure SCmp where
  slot : SSlot
  g : Guard
  p : BitVec 5
  a : BitVec 6
  op2 : Op2
deriving DecidableEq, Repr
structure SPred where
  slot : SSlot
  g : Guard
  p : BitVec 5
  a : BitVec 5
  b : BitVec 5
deriving DecidableEq, Repr
structure SPget where
  slot : SSlot
  g : Guard
  d : BitVec 6
  a : BitVec 5
  h : Bool
deriving DecidableEq, Repr
structure SPset where
  slot : SSlot
  g : Guard
  p : BitVec 5
  a : BitVec 6
  b : BitVec 6
deriving DecidableEq, Repr
structure SFBin where
  slot : SSlot
  g : Guard
  d : BitVec 6
  a : BitVec 6
  op2 : FOp2
  dbl : Bool
deriving DecidableEq, Repr
structure SFUn where
  slot : SSlot
  g : Guard
  d : BitVec 6
  a : BitVec 6
  dbl : Bool
deriving DecidableEq, Repr
structure SFCmp where
  slot : SSlot
  g : Guard
  p : BitVec 5
  a : BitVec 6
  op2 : FOp2
  dbl : Bool
deriving DecidableEq, Repr
/-- FTOI and ITOF: u is the unsigned bit U (R253). -/
structure SFConv where
  slot : SSlot
  g : Guard
  d : BitVec 6
  a : BitVec 6
  u : Bool
  dbl : Bool
deriving DecidableEq, Repr
structure SMfs where
  slot : SSlot
  g : Guard
  d : BitVec 6
  x : BitVec 12
deriving DecidableEq, Repr
structure SMts where
  slot : SSlot
  g : Guard
  s : BitVec 6
  x : BitVec 12
deriving DecidableEq, Repr
structure SProbe where
  slot : SSlot
  g : Guard
  d : BitVec 6
  a : BitVec 6
  k : BitVec 2
deriving DecidableEq, Repr

structure VBin where
  slot : VSlot
  g : VGuard
  d : BitVec 5
  a : BitVec 5
  b : VOp
  w : VW
  t : VT
deriving DecidableEq, Repr
structure VUn where
  slot : VSlot
  g : VGuard
  d : BitVec 5
  a : BitVec 5
  w : VW
  t : VT
deriving DecidableEq, Repr
structure VCmp where
  slot : VSlot
  g : VGuard
  p : BitVec 4
  a : BitVec 5
  b : VOp
  w : VW
  t : VT
deriving DecidableEq, Repr
structure VTer where
  slot : VSlot
  g : VGuard
  d : BitVec 5
  a : BitVec 5
  b : BitVec 5
  w : VW
  t : VT
deriving DecidableEq, Repr
/-- VDOT4 takes type i8 only (R229). -/
structure VDot where
  slot : VSlot
  g : VGuard
  d : BitVec 5
  a : BitVec 5
  b : BitVec 5
  w : VW
deriving DecidableEq, Repr
structure VMov where
  slot : VSlot
  g : VGuard
  d : BitVec 5
  src : VOp
  w : VW
  t : VT
deriving DecidableEq, Repr
structure VBcast where
  slot : VSlot
  g : VGuard
  d : BitVec 5
  w : VW
  t : VT
  x : BitVec 6
deriving DecidableEq, Repr
structure VIota where
  slot : VSlot
  g : VGuard
  d : BitVec 5
  w : VW
  t : VT
  imm : Option W32
deriving DecidableEq, Repr
structure VSlide where
  slot : VSlot
  g : VGuard
  d : BitVec 5
  a : BitVec 5
  b : BitVec 5
  w : VW
  t : VT
  k : BitVec 8
deriving DecidableEq, Repr
structure VZip where
  slot : VSlot
  g : VGuard
  d : BitVec 5
  a : BitVec 5
  b : BitVec 5
  w : VW
  t : VT
  h : Option Bool
deriving DecidableEq, Repr
structure VExtract where
  slot : VSlot
  g : VGuard
  a : BitVec 5
  w : VW
  t : VT
  x : BitVec 6
  u : Bool
  n : BitVec 8
deriving DecidableEq, Repr
structure VCvt where
  slot : VSlot
  g : VGuard
  d : BitVec 5
  a : BitVec 5
  w : VW
  t : VT
  st : VT
  u : Bool
deriving DecidableEq, Repr
structure VCvtq where
  slot : VSlot
  g : VGuard
  d : BitVec 5
  a : BitVec 5
  b : BitVec 5
  w : VW
  t : VT
  q : BitVec 4
  bf : Bool
deriving DecidableEq, Repr

structure FUn where
  cl : Cl
  g : VGuard
  d : BitVec 5
  a : BitVec 5
  w : VW
  t : VT
deriving DecidableEq, Repr

structure MMem where
  slot : MSlot
  g : Guard
  d : BitVec 6
  base : BitVec 6
  w : BitVec 2
  off : MOff
deriving DecidableEq, Repr
structure MIdx where
  slot : MSlot
  g : Guard
  d : BitVec 6
  base : BitVec 6
  w : BitVec 2
  e : BitVec 2
  ord : BitVec 2
  sc : BitVec 3
  reg : BitVec 6
deriving DecidableEq, Repr
structure MOrd where
  slot : MSlot
  g : Guard
  d : BitVec 6
  base : BitVec 6
  w : BitVec 2
  off : BitVec 5
  ord : BitVec 2
  sc : BitVec 3
  reg : BitVec 6
deriving DecidableEq, Repr
structure MDrain where
  slot : MSlot
  g : Guard
  sc : BitVec 3
deriving DecidableEq, Repr

structure XMul where
  g : Guard
  ta : BitVec 3
  tb : BitVec 3
  acc : Bool
  budget : BitVec 4
  zero : Bool
  conv : Bool
  int : Bool
deriving DecidableEq, Repr
structure XAcc where
  g : Guard
  acc : Bool
deriving DecidableEq, Repr
/-- v is the vector register number divided by four (R145). -/
structure XRow where
  g : Guard
  v : BitVec 4
  acc : Bool
  row : BitVec 7
deriving DecidableEq, Repr
structure XTile where
  g : Guard
  t : BitVec 3
deriving DecidableEq, Repr
structure XSett where
  g : Guard
  t : BitVec 3
  s : BitVec 6
deriving DecidableEq, Repr
structure XNone where
  g : Guard
deriving DecidableEq, Repr
structure KSrc where
  g : Guard
  v : BitVec 6
deriving DecidableEq, Repr
structure KFill where
  g : Guard
  s : BitVec 6
  kb : Bool
deriving DecidableEq, Repr
structure KNone where
  g : Guard
deriving DecidableEq, Repr

structure CLs where
  g : Guard
  r : BitVec 6
  f : BitVec 4
  l : BitVec 3
deriving DecidableEq, Repr
structure CCopy where
  g : Guard
  a : BitVec 6
  b : BitVec 6
  l : BitVec 3
  ord : BitVec 2
  sc : BitVec 2
  ext : W32
deriving DecidableEq, Repr
structure CChain where
  g : Guard
  a : BitVec 6
  l : BitVec 3
  ext : W32
deriving DecidableEq, Repr
/-- p is the even register of the pair divided by two (R165). -/
structure CState where
  g : Guard
  p : BitVec 5
  b : BitVec 6
  l : BitVec 3
  ext : W32
deriving DecidableEq, Repr
structure CAb where
  g : Guard
  a : BitVec 6
  n : BitVec 4
deriving DecidableEq, Repr
structure CSem where
  g : Guard
  a : BitVec 6
  m : BitVec 8
deriving DecidableEq, Repr
structure CSemw where
  g : Guard
  a : BitVec 6
  m : BitVec 8
  take : Bool
deriving DecidableEq, Repr
structure CTwo where
  g : Guard
  a : BitVec 6
  b : BitVec 6
deriving DecidableEq, Repr
structure CPair where
  g : Guard
  d : BitVec 6
  p : BitVec 5
deriving DecidableEq, Repr
structure CRecvp where
  g : Guard
  a : BitVec 6
  b : BitVec 6
  sem : BitVec 8
  inc : BitVec 8
deriving DecidableEq, Repr
structure COne where
  g : Guard
  a : BitVec 6
deriving DecidableEq, Repr
structure CColl where
  g : Guard
  a : BitVec 6
  ord : BitVec 2
  sc : BitVec 2
  ext : W32
deriving DecidableEq, Repr
structure CArm where
  g : Guard
  a : BitVec 6
  b : BitVec 6
  ord : BitVec 2
  sc : BitVec 2
  ext : W32
deriving DecidableEq, Repr
structure CSpin where
  g : Guard
  d : BitVec 6
  b : BitVec 6
  pin : Bool
deriving DecidableEq, Repr
structure CSqry where
  g : Guard
  d : BitVec 6
  b : BitVec 6
  k : BitVec 4
deriving DecidableEq, Repr

structure BOff where
  g : Guard
  off : BitVec 19
deriving DecidableEq, Repr
structure BReg where
  g : Guard
  r : BitVec 6
deriving DecidableEq, Repr
structure BNone where
  g : Guard
deriving DecidableEq, Repr
structure BLoop where
  off : BitVec 19
deriving DecidableEq, Repr
structure BLev where
  g : Guard
  l : BitVec 3
deriving DecidableEq, Repr
structure BCode where
  g : Guard
  c : BitVec 16
deriving DecidableEq, Repr

/-- The fields of a coherence message a step of the coherence protocol receives (R49). -/
structure Coh where
  src : BitVec 10
  req : BitVec 10
  txn : BitVec 12
  ticket : Option (BitVec 16)
  line : BitVec 50
  dirty : Bool
  nocopy : Bool
  done : Bool
  fwd : Bool
  share : Bool
  unc : Bool
  /-- the 64 bytes of line data when PAYLOAD is set -/
  data : Option LineData
deriving DecidableEq, Repr

/-- An answer of a home to a probe: the page's size and permissions, or unmapped (R38). -/
inductive ProbeReply where
  | unmapped
  | mapped (size : BitVec 2) (rd wr ex : Bool)
deriving DecidableEq, Repr

/-- A continuation record: eight words w0 to w7 (R292). -/
structure Rec where
  w0 : W64
  w1 : W64
  w2 : W64
  w3 : W64
  w4 : W64
  w5 : W64
  w6 : W64
  w7 : W64
deriving DecidableEq, Repr

/-- A message between ranks (R73). -/
structure Msg where
  tag : BitVec 16
  gang : BitVec 16
  rank : BitVec 16
  payload : List Byte
deriving DecidableEq, Repr

/-- A flit's header fields and payload (R362), as they stand after the lanes' correction (R361). -/
structure Flit where
  vc : BitVec 3
  kind : BitVec 2
  seq : BitVec 12
  ack : BitVec 12
  dst : BitVec 10
  src : BitVec 10
  ttl : BitVec 4
  units : BitVec 4
  crc : W32
  payload : List Byte
deriving DecidableEq, Repr

/-- The management registers a REGISTER_WRITE names: those without a row of their own (R6). -/
inductive MgmtReg where
  | mkdat (k : BitVec 3) | mkctl | bpctlRej (e : BitVec 2) | htbase | hpctl | errwin | sqimg | sqctl
  | tqroute (chip : BitVec 9) | grarena
deriving DecidableEq, Repr

/-- The first word and attribute words of a bytecode instruction (R317); attribute n is attr at n - 1. -/
structure BcWord where
  sb : BitVec 16
  sa : BitVec 16
  dst : BitVec 16
  ord : Bool
  inplace : Bool
  acc : Bool
  attrs : List W64
deriving DecidableEq, Repr

/-- The data a step of the machine without an encoding works on: what the outside, or the engine that takes the
step, brings to it. Each such constructor of Instr says in its docstring which fields it reads. -/
structure EventArg where
  n : Nat
  m : Nat
  k : Nat
  b : Bool
  ia : BitVec 56
  line : BitVec 50
  agent : BitVec 10
  x : W64
  y : W64
  mask : BitVec 64
  data : LineData
  coh : Coh
  reply : ProbeReply
  record : Rec
  msg : Msg
  bytes : List Byte
  flit : Flit
  reg : MgmtReg
  nats : List Nat
  agents : List (BitVec 10)
  images : List (List Byte)
  /-- the public keys that images come with, in their order (R376) -/
  keys : List (Nat × Nat)
  write : Option W64
  fail : Option (Nat × Nat × Nat)
deriving DecidableEq, Repr

/-- The argument with every field zero, empty or absent. -/
def EventArg.blank : EventArg :=
  { n := 0, m := 0, k := 0, b := false, ia := 0, line := 0, agent := 0, x := 0, y := 0, mask := 0, data := 0
    coh := ⟨0, 0, 0, none, 0, false, false, false, false, false, false, none⟩
    reply := .unmapped, record := ⟨0, 0, 0, 0, 0, 0, 0, 0⟩, msg := ⟨0, 0, 0, []⟩, bytes := []
    flit := ⟨0, 0, 0, 0, 0, 0, 0, 0, 0, []⟩, reg := .mkctl
    nats := [], agents := [], images := [], keys := [], write := none, fail := none }

/-- Every instruction, operator and step of the machine, one constructor per row of the opcode table. -/
inductive Instr where
  /-- NOP (R148): An all-zero syllable of any class performs nothing and admits no extension word. -/
  | nop (slot : BitVec 4)
  /-- ADD (R255): sd := (s(sa) + op2) mod 2^64. -/
  | add (f : SBin)
  /-- SUB (R255): sd := (s(sa) - op2) mod 2^64. -/
  | sub (f : SBin)
  /-- MUL (R255): sd := low 64 bits of s(sa) x op2. -/
  | mul (f : SBin)
  /-- MULH (R255): sd := bits [127:64] of the signed product. -/
  | mulh (f : SBin)
  /-- MULHN (R255): sd := bits [127:64] of the unsigned product. -/
  | mulhn (f : SBin)
  /-- DIV (R255): Signed quotient toward zero, with the division-by-zero rules of R123. -/
  | div (f : SBin)
  /-- DIVN (R255): Unsigned quotient, all ones on division by zero. -/
  | divn (f : SBin)
  /-- REM (R255): Signed remainder with the sign of the dividend. -/
  | rem (f : SBin)
  /-- REMN (R255): Unsigned remainder; by zero gives the dividend. -/
  | remn (f : SBin)
  /-- AND (R255): sd := s(sa) and op2. -/
  | and (f : SBin)
  /-- OR (R255): sd := s(sa) or op2. -/
  | or (f : SBin)
  /-- XOR (R255): sd := s(sa) xor op2. -/
  | xor (f : SBin)
  /-- ANDN (R255): sd := s(sa) and not op2. -/
  | andn (f : SBin)
  /-- SHL (R255): Left shift by op2, zero for counts of 64 or more. -/
  | shl (f : SBin)
  /-- SHR (R255): Logical right shift by op2, zero for counts of 64 or more. -/
  | shr (f : SBin)
  /-- SRA (R255): Arithmetic right shift by min(op2, 63). -/
  | sra (f : SBin)
  /-- ROL (R255): Rotate left by op2 mod 64. -/
  | rol (f : SBin)
  /-- MIN (R255): Signed minimum. -/
  | min (f : SBin)
  /-- MAX (R255): Signed maximum. -/
  | max (f : SBin)
  /-- MINN (R255): Unsigned minimum. -/
  | minn (f : SBin)
  /-- MAXN (R255): Unsigned maximum. -/
  | maxn (f : SBin)
  /-- CLZ (R255): Leading zeros of s(sa), 64 for zero. -/
  | clz (f : SUn)
  /-- CTZ (R255): Trailing zeros of s(sa), 64 for zero. -/
  | ctz (f : SUn)
  /-- POPC (R255): Number of one bits of s(sa). -/
  | popc (f : SUn)
  /-- MOV (R255): sd := op2. -/
  | mov (f : SMov)
  /-- MOVH (R255): sd := (op2[31:0] << 32) + s(sa)[31:0]. -/
  | movh (f : SBin)
  /-- SEXT (R255): Sign-extends the low n bits of s(sa), n = op2 mod 64 with 0 as 64. -/
  | sext (f : SBin)
  /-- ZEXT (R255): Zero-extends the low n bits of s(sa). -/
  | zext (f : SBin)
  /-- SHADD1 (R255): sd := (s(sa) << 1) + op2. -/
  | shadd1 (f : SBin)
  /-- SHADD2 (R255): sd := (s(sa) << 2) + op2. -/
  | shadd2 (f : SBin)
  /-- SHADD3 (R255): sd := (s(sa) << 3) + op2. -/
  | shadd3 (f : SBin)
  /-- CMPEQ (R256): Sets all bits of p(pd) to s(sa) = op2. -/
  | cmpeq (f : SCmp)
  /-- CMPNE (R256): Sets p(pd) to s(sa) != op2. -/
  | cmpne (f : SCmp)
  /-- CMPLT (R256): Sets p(pd) to signed s(sa) < op2. -/
  | cmplt (f : SCmp)
  /-- CMPLE (R256): Sets p(pd) to signed s(sa) <= op2. -/
  | cmple (f : SCmp)
  /-- CMPLTN (R256): Sets p(pd) to unsigned s(sa) < op2. -/
  | cmpltn (f : SCmp)
  /-- CMPLEN (R256): Sets p(pd) to unsigned s(sa) <= op2. -/
  | cmplen (f : SCmp)
  /-- PAND (R257): p(pd) := p(pa) and p(pb). -/
  | pand (f : SPred)
  /-- POR (R257): p(pd) := p(pa) or p(pb). -/
  | por (f : SPred)
  /-- PXOR (R257): p(pd) := p(pa) xor p(pb). -/
  | pxor (f : SPred)
  /-- PANDN (R257): p(pd) := p(pa) and not p(pb). -/
  | pandn (f : SPred)
  /-- PGET (R257): sd := half h of p(pa). -/
  | pget (f : SPget)
  /-- PSET (R257): p(pd) := s(sb):s(sa). -/
  | pset (f : SPset)
  /-- PALL (R257): p(pd) := all ones if every bit set in p(pb) is set in p(pa), else zeros. -/
  | pall (f : SPred)
  /-- FADD (R258): Scalar float add, RNE, single or double. -/
  | fadd (f : SFBin)
  /-- FSUB (R258): Scalar float subtract. -/
  | fsub (f : SFBin)
  /-- FMUL (R258): Scalar float multiply. -/
  | fmul (f : SFBin)
  /-- FMA (R258): Fused multiply-add with s(sd) as addend, one rounding. -/
  | fma (f : SFBin)
  /-- FDIV (R258): Scalar float divide, occupying the FP divider 12 cycles. -/
  | fdiv (f : SFBin)
  /-- FSQRT (R258): Scalar float square root. -/
  | fsqrt (f : SFUn)
  /-- FMIN (R258): minimumNumber of two floats, no flag. -/
  | fmin (f : SFBin)
  /-- FMAX (R258): maximumNumber of two floats, no flag. -/
  | fmax (f : SFBin)
  /-- FCMPEQ (R258): Float equality into all bits of p(pd). -/
  | fcmpeq (f : SFCmp)
  /-- FCMPLT (R258): Float less-than into p(pd), NV on NaN. -/
  | fcmplt (f : SFCmp)
  /-- FCMPLE (R258): Float less-or-equal into p(pd), NV on NaN. -/
  | fcmple (f : SFCmp)
  /-- FCMPUN (R258): Unordered test into p(pd). -/
  | fcmpun (f : SFCmp)
  /-- FTOI (R258): Float to 64-bit integer toward zero, saturating with NV. -/
  | ftoi (f : SFConv)
  /-- ITOF (R258): 64-bit integer to float, RNE. -/
  | itof (f : SFConv)
  /-- FCVT (R258): Converts between single and double precision. -/
  | fcvt (f : SFUn)
  /-- FCLASS (R258): Writes a one-hot class of s(sa) into sd. -/
  | fclass (f : SFUn)
  /-- MFS (R259): Reads a system register by 12-bit index into sd. -/
  | mfs (f : SMfs)
  /-- MTS (R259): Writes s(sa) to a system register at commit, under the access rules. -/
  | mts (f : SMts)
  /-- PROBE (R260): Checks whether an access of kind k at a VA would pass and returns a scoreboarded status word. -/
  | probe (f : SProbe)
  /-- VADD (R213): Element-wise add. -/
  | vadd (f : VBin)
  /-- VSUB (R213): Element-wise subtract. -/
  | vsub (f : VBin)
  /-- VMUL (R213): Element-wise multiply. -/
  | vmul (f : VBin)
  /-- VFMA (R213): Element-wise a x b + d with one rounding. -/
  | vfma (f : VBin)
  /-- VFMS (R213): Element-wise d - a x b with one rounding. -/
  | vfms (f : VBin)
  /-- VMIN (R213): Element-wise signed or float minimum. -/
  | vmin (f : VBin)
  /-- VMAX (R213): Element-wise signed or float maximum. -/
  | vmax (f : VBin)
  /-- VMINN (R213): Element-wise unsigned minimum. -/
  | vminn (f : VBin)
  /-- VMAXN (R213): Element-wise unsigned maximum. -/
  | vmaxn (f : VBin)
  /-- VABS (R213): Element-wise absolute value. -/
  | vabs (f : VUn)
  /-- VNEG (R213): Element-wise negation. -/
  | vneg (f : VUn)
  /-- VMULH (R213): High half of the signed product. -/
  | vmulh (f : VBin)
  /-- VMULHN (R213): High half of the unsigned product. -/
  | vmulhn (f : VBin)
  /-- VSADD (R213): Saturating signed add. -/
  | vsadd (f : VBin)
  /-- VSSUB (R213): Saturating signed subtract. -/
  | vssub (f : VBin)
  /-- VAND (R214): Element-wise and. -/
  | vand (f : VBin)
  /-- VOR (R214): Element-wise or. -/
  | vor (f : VBin)
  /-- VXOR (R214): Element-wise xor. -/
  | vxor (f : VBin)
  /-- VANDN (R214): Element-wise a and not b. -/
  | vandn (f : VBin)
  /-- VNOT (R214): Element-wise not. -/
  | vnot (f : VUn)
  /-- VSHL (R214): Element-wise left shift. -/
  | vshl (f : VBin)
  /-- VSHR (R214): Element-wise logical right shift. -/
  | vshr (f : VBin)
  /-- VSRA (R214): Element-wise arithmetic right shift. -/
  | vsra (f : VBin)
  /-- VCLZ (R214): Element-wise leading zeros. -/
  | vclz (f : VUn)
  /-- VPOPC (R214): Element-wise population count. -/
  | vpopc (f : VUn)
  /-- VCMPEQ (R215): Element equality into a predicate of the slot's cluster. -/
  | vcmpeq (f : VCmp)
  /-- VCMPNE (R215): Element ordered inequality into a predicate. -/
  | vcmpne (f : VCmp)
  /-- VCMPLT (R215): Element signed or float less-than into a predicate. -/
  | vcmplt (f : VCmp)
  /-- VCMPLE (R215): Element signed or float less-or-equal into a predicate. -/
  | vcmple (f : VCmp)
  /-- VCMPLTN (R215): Element unsigned less-than into a predicate. -/
  | vcmpltn (f : VCmp)
  /-- VCMPLEN (R215): Element unsigned less-or-equal into a predicate. -/
  | vcmplen (f : VCmp)
  /-- VCMPUN (R215): Element unordered test into a predicate. -/
  | vcmpun (f : VCmp)
  /-- VSEL (R216): Selects a or b per element by the guard. -/
  | vsel (f : VTer)
  /-- VMOV (R216): Copies va, or an immediate, where the guard is true. -/
  | vmov (f : VMov)
  /-- VBCAST (R216): Broadcasts the low bits of a scalar register to guarded elements. -/
  | vbcast (f : VBcast)
  /-- VXMOV (R216): Copies elements of a register of the other cluster. -/
  | vxmov (f : VUn)
  /-- VPERM (R217): Permutes va by the indices in vb. -/
  | vperm (f : VTer)
  /-- VPERM2 (R217): Two-source permute from va and the old vd. -/
  | vperm2 (f : VTer)
  /-- VSLIDEUP (R217): Slides the pair up by k elements. -/
  | vslideup (f : VSlide)
  /-- VSLIDEDN (R217): Slides the pair down by k elements. -/
  | vslidedn (f : VSlide)
  /-- VZIP (R217): Interleaves halves of va and vb. -/
  | vzip (f : VZip)
  /-- VUNZIP (R217): De-interleaves even or odd elements of va and vb. -/
  | vunzip (f : VZip)
  /-- VIOTA (R216): Writes element index plus an immediate to guarded elements. -/
  | viota (f : VIota)
  /-- VCOMPRESS (R218): Packs guarded elements of va to the bottom of vd. -/
  | vcompress (f : VUn)
  /-- VEXPAND (R218): Spreads the bottom elements of va to guarded positions of vd. -/
  | vexpand (f : VUn)
  /-- VEXTRACT (R219): Moves element n of va to a scalar register. -/
  | vextract (f : VExtract)
  /-- VREDADD (R220): Exact sum of guarded elements rounded once into element 0. -/
  | vredadd (f : VUn)
  /-- VREDMAX (R220): Maximum of guarded elements into element 0. -/
  | vredmax (f : VUn)
  /-- VREDMIN (R220): Minimum of guarded elements into element 0. -/
  | vredmin (f : VUn)
  /-- VSCAN (R221): Inclusive prefix sum over guarded elements. -/
  | vscan (f : VUn)
  /-- VARGMAX (R222): Index of the largest guarded element. -/
  | vargmax (f : VUn)
  /-- VARGMIN (R222): Index of the smallest guarded element. -/
  | vargmin (f : VUn)
  /-- VCVT (R223): Converts elements from a source type to the destination type under VRM. -/
  | vcvt (f : VCvt)
  /-- VCVTQ (R225): Narrows to i8 or e4m3, splitting outliers above THR into a side list and updating QCNT. -/
  | vcvtq (f : VCvtq)
  /-- VPACK4 (R227): Packs elements into E2M1 or INT4 nibbles. -/
  | vpack4 (f : VUn)
  /-- VUNPACK4 (R227): Unpacks E2M1 or INT4 nibbles exactly. -/
  | vunpack4 (f : VUn)
  /-- VSCALE (R228): Multiplies elements by MX block scales from vb. -/
  | vscale (f : VTer)
  /-- VPLANE (R230): Transposes element bits into bit planes. -/
  | vplane (f : VUn)
  /-- VUNPLANE (R230): Transposes bit planes back into elements. -/
  | vunplane (f : VUn)
  /-- VDOT4 (R229): Adds four-way i8 dot products into 32-bit lanes. -/
  | vdot4 (f : VDot)
  /-- VEXP2 (R231): F-slot 2^x per element. -/
  | vexp2 (f : FUn)
  /-- VEXP (R231): F-slot e^x per element. -/
  | vexp (f : FUn)
  /-- VLOG2 (R231): F-slot log2 per element. -/
  | vlog2 (f : FUn)
  /-- VLN (R231): F-slot natural log per element. -/
  | vln (f : FUn)
  /-- VRCP (R231): F-slot reciprocal per element. -/
  | vrcp (f : FUn)
  /-- VRSQ (R231): F-slot reciprocal square root. -/
  | vrsq (f : FUn)
  /-- VSQRT (R231): F-slot square root. -/
  | vsqrt (f : FUn)
  /-- VTANH (R231): F-slot hyperbolic tangent. -/
  | vtanh (f : FUn)
  /-- VSIGM (R231): F-slot logistic sigmoid. -/
  | vsigm (f : FUn)
  /-- VSIN (R231): F-slot sine. -/
  | vsin (f : FUn)
  /-- VCOS (R231): F-slot cosine. -/
  | vcos (f : FUn)
  /-- VERF (R231): F-slot error function. -/
  | verf (f : FUn)
  /-- VGELU (R231): F-slot GELU. -/
  | vgelu (f : FUn)
  /-- LDS (R191): Loads n scratchpad bytes sign-extended into a scalar. -/
  | lds (f : MMem)
  /-- LDSN (R191): Loads n scratchpad bytes zero-extended into a scalar. -/
  | ldsn (f : MMem)
  /-- STS (R191): Stores n bytes of a scalar to the scratchpad. -/
  | sts (f : MMem)
  /-- LDV (R192): Loads W scratchpad bits into a vector with byte guards. -/
  | ldv (f : MMem)
  /-- STV (R192): Stores W bits of a vector to the scratchpad with byte guards. -/
  | stv (f : MMem)
  /-- LDVX (R193): Gathers scratchpad elements by an index vector. -/
  | ldvx (f : MIdx)
  /-- STVX (R193): Scatters elements to the scratchpad by an index vector. -/
  | stvx (f : MIdx)
  /-- LDVB (R192): Loads a 32-byte block and replicates it across the width. -/
  | ldvb (f : MMem)
  /-- LDVS (R193): Strided scratchpad load. -/
  | ldvs (f : MIdx)
  /-- LDG (R194): Global scalar load, sign-extended, scoreboarded. -/
  | ldg (f : MMem)
  /-- LDGN (R194): Global scalar load, zero-extended. -/
  | ldgn (f : MMem)
  /-- STG (R194): Global scalar store, relaxed. -/
  | stg (f : MMem)
  /-- LDGV (R194): Global vector load with byte guards. -/
  | ldgv (f : MMem)
  /-- STGV (R194): Global vector store with byte guards. -/
  | stgv (f : MMem)
  /-- LDA (R197): Load-acquire at a scope; later global accesses wait for its value. -/
  | lda (f : MOrd)
  /-- STL (R197): Store-release performed after earlier accesses are performed at its scope. -/
  | stl (f : MOrd)
  /-- AADD (R200): Atomic add returning the old value. -/
  | aadd (f : MOrd)
  /-- AMIN (R200): Atomic signed minimum. -/
  | amin (f : MOrd)
  /-- AMAX (R200): Atomic signed maximum. -/
  | amax (f : MOrd)
  /-- AMINN (R200): Atomic unsigned minimum. -/
  | aminn (f : MOrd)
  /-- AMAXN (R200): Atomic unsigned maximum. -/
  | amaxn (f : MOrd)
  /-- AAND (R200): Atomic and. -/
  | aand (f : MOrd)
  /-- AOR (R200): Atomic or. -/
  | aor (f : MOrd)
  /-- AXOR (R200): Atomic xor. -/
  | axor (f : MOrd)
  /-- AXCHG (R200): Atomic exchange. -/
  | axchg (f : MOrd)
  /-- ACAS (R200): Atomic compare-and-swap with an even register pair. -/
  | acas (f : MOrd)
  /-- AFADD (R201): Atomic BF16 or FP32 add rounded once. -/
  | afadd (f : MOrd)
  /-- VAOR (R203): Per-element atomic OR into global memory. -/
  | vaor (f : MIdx)
  /-- VAADD (R203): Per-element atomic add into global memory. -/
  | vaadd (f : MIdx)
  /-- DRAIN (R204): Holds issue until every earlier global access is performed at its scope. -/
  | drain (f : MDrain)
  /-- PREF (R206): Prefetches lines of a range into L1 and L2, or L2 only. -/
  | pref (f : MMem)
  /-- RESID (R206): Sets L2 replacement position or asks for hot-page promotion. -/
  | resid (f : MMem)
  /-- ICPIN (R207): Enters a code-range pin in the pin table and fills the lines. -/
  | icpin (f : MMem)
  /-- ICUNPIN (R207): Removes a matching pin entry. -/
  | icunpin (f : MMem)
  /-- DCWB (R208): Writes modified L1 lines of a range back to L2. -/
  | dcwb (f : MMem)
  /-- DCINV (R208): Writes back and invalidates L1 lines of a range. -/
  | dcinv (f : MMem)
  /-- MMA (R241): Queues a 128x128x32 bit-serial matrix product into an accumulator bank. -/
  | mma (f : XMul)
  /-- MMAS (R241): Matrix product with MX scales captured from ka and kb. -/
  | mmas (f : XMul)
  /-- MCONV (R243): Convolution-addressed matrix product that advances the tap. -/
  | mconv (f : XMul)
  /-- MZERO (R246): Zeroes an accumulator bank when it executes. -/
  | mzero (f : XAcc)
  /-- MREAD (R247): Reads an accumulator row into four vector registers after the bank is idle. -/
  | mread (f : XRow)
  /-- MWRITE (R247): Writes four vector registers into an accumulator row. -/
  | mwrite (f : XRow)
  /-- MSTORE (R248): Queues conversion of an accumulator bank into the scratchpad. -/
  | mstore (f : XTile)
  /-- MPLANE (R249): Queues conversion of a packed B tile into its bit-plane image. -/
  | mplane (f : XTile)
  /-- MSETT (R237): Sets a tile parameter register from a scalar at commit. -/
  | msett (f : XSett)
  /-- MFENCE (R250): Holds issue until the matrix unit is idle and its writes and flags are in place. -/
  | mfence (f : XNone)
  /-- KSETA (R252): Loads the A scale latch from a vector register. -/
  | kseta (f : KSrc)
  /-- KSETB (R252): Loads the B scale latch from a vector register. -/
  | ksetb (f : KSrc)
  /-- KFILL (R252): Fills one scale latch with a scalar byte. -/
  | kfill (f : KFill)
  /-- KCLR (R252): Sets both scale latches to 127. -/
  | kclr (f : KNone)
  /-- LSW (R169): Writes a layout-set field, effective for copies three bundles later. -/
  | lsw (f : CLs)
  /-- LSR (R169): Reads the layout-set field value a copy would use now. -/
  | lsr (f : CLs)
  /-- CPYIN (R170): Queues a tile copy from global memory into the scratchpad on a channel. -/
  | cpyin (f : CCopy)
  /-- CPYOUT (R170): Queues a tile copy from the scratchpad to global memory. -/
  | cpyout (f : CCopy)
  /-- CPYCH (R92): Hands a channel a chain of transfer records. -/
  | cpych (f : CChain)
  /-- CPYKV (R107): Queues a key-value gather or append through a block table. -/
  | cpykv (f : CCopy)
  /-- CPYST (R100): Queues a state copy between the scratchpad and a Grotto sequence. -/
  | cpyst (f : CState)
  /-- CPYMSG (R173): Queues a message copy into a matching posted receive buffer of another rank. -/
  | cpymsg (f : CCopy)
  /-- ABCLR (R174): Clears masked arrival bits at commit. -/
  | abclr (f : CAb)
  /-- ABWAIT (R174): Waits until all masked arrival bits are set. -/
  | abwait (f : CAb)
  /-- SEMSET (R175): Sets a semaphore at commit. -/
  | semset (f : CSem)
  /-- SEMADD (R175): Adds a signed value to a semaphore with saturation. -/
  | semadd (f : CSem)
  /-- SEMRD (R175): Reads a semaphore into a scalar. -/
  | semrd (f : CSem)
  /-- SEMWAIT (R175): Waits until a semaphore reaches a threshold, optionally taking it. -/
  | semwait (f : CSemw)
  /-- SEND (R177): Sends up to 128 scratchpad bytes to a rank's mailbox. -/
  | send (f : CTwo)
  /-- RECV (R177): Waits for and removes the oldest matching mailbox message. -/
  | recv (f : CPair)
  /-- RECVP (R177): Posts a receive buffer with a semaphore to signal. -/
  | recvp (f : CRecvp)
  /-- MBSTAT (R178): Returns the mailbox status word. -/
  | mbstat (f : COne)
  /-- COLL (R180): Posts a collective descriptor to the die's collective engine. -/
  | coll (f : CColl)
  /-- COLLARM (R181): Arms a collective to fire when a flag word becomes nonzero. -/
  | collarm (f : CArm)
  /-- BWSET (R182): Sets this core's arbitration weights (and ceilings in monitor code). -/
  | bwset (f : COne)
  /-- SOPEN (R99): Opens a Grotto sequence of a given size and returns its handle. -/
  | sopen (f : CTwo)
  /-- SCLOSE (R99): Closes a sequence, dropping its state and snapshots. -/
  | sclose (f : CTwo)
  /-- SSNAP (R99): Records the sequence state as a snapshot at a position. -/
  | ssnap (f : CTwo)
  /-- SROLL (R99): Rolls the state back to a snapshot and drops newer snapshots. -/
  | sroll (f : CTwo)
  /-- SFORK (R99): Opens a new sequence sharing a snapshot's chunks. -/
  | sfork (f : CTwo)
  /-- SDROP (R99): Drops snapshots at or below a position. -/
  | sdrop (f : CTwo)
  /-- SPIN (R99): Pins or unpins a snapshot. -/
  | spin (f : CSpin)
  /-- SQRY (R99): Reports the k-th newest snapshot. -/
  | sqry (f : CSqry)
  /-- SPAWN (R184): Pushes a rewritten task record onto the core's deque, with release. -/
  | spawn (f : COne)
  /-- TAKE (R185): Pops the newest record of the own deque into the scratchpad. -/
  | take (f : CTwo)
  /-- STEAL (R185): Removes the oldest record from a victim core's deque. -/
  | steal (f : CPair)
  /-- JOIN (R186): Saves the task as continuation of a join counter and decrements it. -/
  | join (f : COne)
  /-- DOMSET (R187): Enters or leaves a user subdomain at level 5 to 7. -/
  | domset (f : CTwo)
  /-- BR (R262): Direct branch when the guard is true, after two delay bundles. -/
  | br (f : BOff)
  /-- BRA (R262): Branch that annuls its delay bundles when not taken. -/
  | bra (f : BOff)
  /-- BRF (R262): Branch that annuls its delay bundles when taken. -/
  | brf (f : BOff)
  /-- BL (R262): Direct call writing lr. -/
  | bl (f : BOff)
  /-- JR (R262): Branch to a register target. -/
  | jr (f : BReg)
  /-- JRL (R262): Call to a register target writing lr. -/
  | jrl (f : BReg)
  /-- RET (R262): Branch to lr. -/
  | ret (f : BNone)
  /-- BLOOPW (R263): Loop-closing branch updating LPW and the west window predicates. -/
  | bloopw (f : BLoop)
  /-- BLOOPE (R263): Loop-closing branch updating LPE and the east window predicates. -/
  | bloope (f : BLoop)
  /-- BAR (R265): Arrives at a domain barrier if not yet arrived and waits for the phase. -/
  | bar (f : BLev)
  /-- BARA (R265): Arrives at a barrier without waiting. -/
  | bara (f : BLev)
  /-- BARW (R265): Arrives if needed and waits for the barrier phase. -/
  | barw (f : BLev)
  /-- YIELD (R268): Suspends the task after its delay bundles and requeues its record. -/
  | yield (f : BReg)
  /-- ENDT (R269): Ends the task after its delay bundles, with join decrement. -/
  | endt (f : BNone)
  /-- HALT (R270): Monitor-only: stops the core after its delay bundles. -/
  | halt (f : BNone)
  /-- TRAP (R271): Raises the TRAP cause precisely with a code. -/
  | trap (f : BCode)
  /-- BKPT (R271): Raises BREAKPOINT precisely with a code. -/
  | bkpt (f : BCode)
  /-- ERET (R272): Monitor-only return to task level from PCQ0-PCQ2 with replay. -/
  | eret (f : BNone)
  /-- WFE (R273): Waits for the event latch or 65,536 cycles. -/
  | wfe (f : BNone)
  /-- PRIO (R274): Lowers the task's priority. -/
  | prio (f : BReg)
  /-- BUNDLE_ISSUE (R150): A bundle issues: its header and syllables are fetched and decoded, due exposed and replayed results land, and the stream advances by R156. -/
  | bundleIssue
  /-- SCOREBOARD_ARRIVAL (R152): A scoreboarded value (global load, atomic old value, PROBE or C-slot result) arrives and releases bundles stalled on its register. Reads: k (the record's number); with b a status word of another die's controller, x. -/
  | scoreboardArrival
  /-- PENDING_END_EFFECT (R267): A pending YIELD, ENDT or HALT takes effect at the boundary after its second delay bundle. Reads: b, k, n, m, x, nats for what other cores and the monitor tell (see its meaning). -/
  | pendingEndEffect
  /-- WFE_TIMEOUT (R273): A WFE ends on its 65,536-cycle bound and clears the latch. -/
  | wfeTimeout
  /-- TIMER_EXPIRY (R340): TSTATE.TMR steps from 1 to 0 and makes TIMER pending. -/
  | timerExpiry
  /-- MC_LINE_READ (R15): The memory controller reads, decodes and decrypts a line and its tag for the home slice. Reads: line, agent, and the bits the array has lost: data, x (tag), y (check symbols). -/
  | mcLineRead
  /-- HOT_PAGE_EPOCH (R42): Every 2^EPOCH cycles every hot-page count is halved. -/
  | hotPageEpoch
  /-- MC_LINE_WRITE (R21): The controller encrypts and writes a line, repairing it on a full-line write or discarding a partial write to an uncorrectable line. Reads: line, mask, data, agent. -/
  | mcLineWrite
  /-- FAST_FILL (R21): Zeroes an address range with zero tags and valid codes at full bandwidth. Reads: n (first physical address), m (bytes), b (second tier). -/
  | fastFill
  /-- MK_LOAD (R18): MKCTL command 1 loads a key slot from MKDAT, refusing equal data and tweak keys. Reads: b (ALL), n (SLOT). -/
  | mkLoad
  /-- MK_LOAD_RANDOM (R18): MKCTL command 2 loads fresh random keys from the device DRBG. Reads: b (ALL), n (SLOT). -/
  | mkLoadRandom
  /-- MK_ZEROISE (R18): MKCTL command 3 zeroises a key slot or all slots. Reads: b (ALL), n (SLOT). -/
  | mkZeroise
  /-- MK_COMMAND_COMPLETE (R19): A key-slot command completes, BUSY clears and held accesses proceed under the new key. -/
  | mkCommandComplete
  /-- BPCTL_SELECT (R25): A BPCTL write with CMD 0 selects a park entry and changes nothing else. Reads: n (entry). -/
  | bpctlSelect
  /-- PARK_TEST_UNPARK (R26): BPCTL command 1 parks a bank, marches it and unparks it. Reads: n (entry), m (PATTERN), k (PC), x (BANK). -/
  | parkTestUnpark
  /-- PARK_TEST (R26): BPCTL command 2 parks and tests a bank and leaves it parked. Reads: n (entry), m (PATTERN), k (PC), x (BANK). -/
  | parkTest
  /-- UNPARK (R26): BPCTL command 3 copies a parked bank back, refused if failing rows are unrepaired. Reads: n (entry), m (PATTERN), k (PC), x (BANK), nats (rows repaired). -/
  | unpark
  /-- PARKING_COMPLETE (R26): The last row of a bank is copied into its park entry and the march begins. Reads: n (entry). -/
  | parkingComplete
  /-- MARCH_COMPLETE (R26): The march pattern finishes, failing rows are recorded and FAIL is set. Reads: n (entry), nats (failing rows). -/
  | marchComplete
  /-- UNPARKING_COMPLETE (R26): The last row is copied back and redirected to the bank, and BUSY clears. Reads: n (entry). -/
  | unparkingComplete
  /-- HOME_PROBE (R38): A home answers a page probe with SIZE and permissions or unmapped, setting RP for remote probers. Reads: ia, agent (the prober). -/
  | homeProbe
  /-- PROBE_ANSWER (R38): A probe answer reaches a core or channel, installing a filter entry, issuing the held bundle or raising PAGE or PROTECT. Reads: ia, reply; with b the answer to a check of a strong access, k. -/
  | probeAnswer
  /-- PAGE_TABLE_WALK (R35): A walker reads the die's page table on a buffer miss and writes RP back to the leaf. Reads: ia (its offset), b (remote). -/
  | pageTableWalk
  /-- HT_CHANGE_PAGE (R37): HTCMD command 1 changes one page's translation with filter invalidations. Reads: n (SIZE), m (IAPAGE). -/
  | htChangePage
  /-- HT_CHANGE_ALL (R37): HTCMD command 2 changes all pages' translations. -/
  | htChangeAll
  /-- FILTER_INVALIDATE (R40): A core or channel receives a filter invalidation and acknowledges it if the entry is not in use. Reads: ia, n (SIZE), b (all pages). -/
  | filterInvalidate
  /-- FILTER_ACK_WHEN_FREE (R40): A filter entry ceases to be in use and its deferred invalidation is acknowledged. -/
  | filterAckWhenFree
  /-- FILTER_INV_ACK (R37): The home receives an acknowledgement; on the last it drops the old entry and BUSY clears. -/
  | filterInvAck
  /-- MIGRATION (R41): The home migrates a page under MLOCK and rewrites FRAME and TIER. Reads: ia (its offset), b (to the second tier), n (frame). -/
  | migration
  /-- READ_SHARED (R54): The home answers a ReadShared by tag state, forwarding or sending data and updating the tag. Reads: coh. -/
  | readShared
  /-- READ_OWN (R55): The home grants the only copy, invalidating or forwarding by tag state. Reads: coh. -/
  | readOwn
  /-- UPGRADE (R55): The home upgrades an S or O holder to the only copy. Reads: coh. -/
  | upgrade
  /-- WRITE_BACK (R56): The home takes a written-back line and updates the tag or the waiting transaction. Reads: coh. -/
  | writeBack
  /-- READ_SHARED_UNC (R56): The home returns current bytes once, uncached, leaving the tag unchanged. Reads: coh. -/
  | readSharedUnc
  /-- READ_OWN_UNC (R56): The home recalls all copies and merges masked bytes into its L2. Reads: coh, mask. -/
  | readOwnUnc
  /-- READ_OWN_ATOM (R56): The home recalls all copies and performs an atomic, returning the old value. Reads: coh, n (operation), m (bytes), k (offset), x and y; with b only the check of R286. -/
  | readOwnAtom
  /-- HOME_DIE_READ (R56): A home-die cache reads a line, forwarding from a remote owner if needed. Reads: line. -/
  | homeDieRead
  /-- HOME_DIE_EXCLUSIVE (R56): A home-die cache gains exclusive access, recalling remote copies. Reads: line. -/
  | homeDieExclusive
  /-- FORWARD (R57): A holder receives a Forward, sends data to REQ and answers with InvAck. Reads: coh. -/
  | forward
  /-- INVALIDATE (R57): An agent receives an Invalidate, drops any copy and answers InvAck. Reads: coh. -/
  | invalidate
  /-- INV_ACK (R53): The home receives an InvAck and, when all are in, sends DONE and sets the tag. Reads: coh. -/
  | invAck
  /-- DATA (R53): A requester receives Data; with DONE the transaction ends and waiting accesses perform. Reads: coh. -/
  | data
  /-- ERROR (R20): A requester receives Error: retry, MEM_ERROR, channel stop or another fate by requester kind. Reads: coh, n (code); with b an uncorrectable arena read, k, n. -/
  | error
  /-- REQUEST_RESEND (R52): A refused remote request is resent with its ticket 128 cycles after refusal. Reads: line. -/
  | requestResend
  /-- TICKET_SKIP (R52): A ticket equal to SERVE not presented within 65,536 cycles is skipped and counted. Reads: n (slice). -/
  | ticketSkip
  /-- WAITING_REQUEST_SERVE (R52): A busy line frees and the next waiting request for it is served. Reads: line. -/
  | waitingRequestServe
  /-- WAY_FREE_WAIT (R62): A request waiting for an evictable way in its L2 set proceeds when one frees. Reads: line. -/
  | wayFreeWait
  /-- HOME_SLICE_EVICTION (R48): The home slice evicts a line, recalling L1 copies and writing data and tag as one full-line write. Reads: line. -/
  | homeSliceEviction
  /-- LOCAL_SLICE_READ (R57): A local slice serves a local read, hitting or sending ReadShared. Reads: line, b (uncached). -/
  | localSliceRead
  /-- LOCAL_SLICE_WRITE (R57): A local slice serves a local write, hitting or sending ReadOwn or Upgrade. Reads: line. -/
  | localSliceWrite
  /-- LOCAL_SLICE_EVICTION (R57): A local slice evicts a remote line silently or by WriteBack. Reads: line. -/
  | localSliceEviction
  /-- CODE_LINE_FILL (R65): An L2 slice fills a code line and checks its authentication tag. Reads: n (code line number). -/
  | codeLineFill
  /-- ICACHE_FILL (R64): An instruction cache fills a code line from the L2. Reads: n (code line number). -/
  | icacheFill
  /-- REGION_RELEASE (R72): A region's in-flight copy and matrix counts reach zero and its granules are released for clearing. -/
  | regionRelease
  /-- GRANULE_CLEAR_DONE (R72): A released granule finishes clearing to zero and becomes free. Reads: n (granule). -/
  | granuleClearDone
  /-- MAILBOX_DELIVERY (R75): A message arrives at a rank's core into a hardware entry, the spill area or the gang overflow. Reads: n (rank), msg. -/
  | mailboxDelivery
  /-- MESSAGE_ACCEPT (R75): A sender's waiting message is accepted once a place frees, releasing a stalled SEND. Reads: b (the receiver has no place). -/
  | messageAccept
  /-- POSTED_BUFFER_FILL (R76): A message matches a posted buffer, lands and signals its semaphore. Reads: n (source rank), m (tag), bytes. -/
  | postedBufferFill
  /-- COPY_COMMAND_START (R78): A channel starts its head command once its wait is met, checking layout and probing. Reads: n (channel); with b the answer of the other die's controller to a CPYST, k. -/
  | copyCommandStart
  /-- COPY_CHUNK_LANDED (R86): Every byte of a 512-byte chunk is written and its arrival bit is set. Reads: n (channel), m (place in its queue), k (piece); with b what the outside brings, x, bytes. -/
  | copyChunkLanded
  /-- COPY_COMMAND_COMPLETE (R87): A copy completes in issue order and signals its semaphore. Reads: n (channel). -/
  | copyCommandComplete
  /-- CHAIN_RECORD_READ (R92): A channel reads a transfer record and moves it as one copy, or ends the chain. Reads: n (channel). -/
  | chainRecordRead
  /-- STATE_CHUNK_WRITE (R100): The Grotto controller performs a CPYST chunk write, copying aside for snapshots. Reads: n (channel), m (place in its queue), k (piece). -/
  | stateChunkWrite
  /-- POSITION_PREEMPT (R105): A position-restartable task is stopped and its sequence rolled to the newest snapshot. -/
  | positionPreempt
  /-- POSITION_ROLL_DONE (R105): The roll's status arrives and the restart record is queued or the task is given up. -/
  | positionRollDone
  /-- COLL_POST_FORWARD (R180): A collective post leaves the core's post queue for the engine once its wait is met. -/
  | collPostForward
  /-- COLLECTIVE_START (R180): Every member has posted; fields are compared and data movement begins or MISMATCH ends it. Reads: n (place); with b another member's post: n (entry), agent, record, bytes, x, k. -/
  | collectiveStart
  /-- COLLECTIVE_COMPLETE (R180): The engine writes each member's w7 and applies each member's signal. Reads: n (place); with b an uncorrectable read at another member of entry n. -/
  | collectiveComplete
  /-- ARM_ENTRY (R181): An armed post takes an arm-table entry and reads its flag. -/
  | armEntry
  /-- FLAG_REREAD (R181): An Invalidate of or store to an armed flag line makes the engine re-read it and fire or re-arm. Reads: n (place in the arm table). -/
  | flagReread
  /-- SPAWN_RELEASE (R184): A spawned record becomes takeable once the spawner's earlier accesses are performed at die scope. Reads: with b n (another core of the die). -/
  | spawnRelease
  /-- MATRIX_START (R245): The matrix unit starts the next queued X instruction. -/
  | matrixStart
  /-- MATRIX_COMPLETE (R245): An X instruction completes, its flags enter FPSR and its bank stops pending. -/
  | matrixComplete
  /-- BARRIER_ARRIVAL (R264): A barrier arrival is recorded once earlier accesses and SENDs are performed at its scope. Reads: k (level); with b another member: n (domain), k, m (SID), x (COUNT), y (rank). -/
  | barrierArrival
  /-- BARRIER_PHASE_COMPLETE (R264): COUNT members have arrived; each waiting member acquires and advances its phase. Reads: n (place among the barriers with arrivals). -/
  | barrierPhaseComplete
  /-- BARRIER_TIMEOUT (R266): A barrier wait exceeds BARTIMEOUT and BARRIER_TIMEOUT is delivered. -/
  | barrierTimeout
  /-- FIFO_ARRIVAL (R295): A record enters its priority FIFO, possibly triggering pre-emption. Reads: record; with b and k = 1 a gang entry x, y, and with b alone the domain n and rank m of a member queued elsewhere. -/
  | fifoArrival
  /-- RETURN_STORE_DRAIN (R295): A record in the return store enters its FIFO once space frees. -/
  | returnStoreDrain
  /-- CORE_TAKES_RECORD (R296): A free core takes the highest-priority candidate record it can serve. Reads: with b n (another core of the die). -/
  | coreTakesRecord
  /-- AFFINITY_EXPIRY (R297): After 4,096 cycles an affine FIFO record may be taken by any core of its die. -/
  | affinityExpiry
  /-- AGING_STEP (R300): A waiting record's effective priority rises by one per INTERVAL up to CAP. -/
  | agingStep
  /-- QUANTUM_EXPIRY (R301): A task's quantum expires and it rotates out or restarts its quantum. -/
  | quantumExpiry
  /-- PARKING (R303): A task waiting longer than WAITPARK with a candidate behind it is parked. -/
  | parking
  /-- PARK_WAKE (R303): A parked task is woken and its record goes to the head of its level. -/
  | parkWake
  /-- GANG_PLACEMENT (R306): All records of a gang are queued and dispatchers reserve cores for them. Reads: n (domain), nats (ranks that other dies hold cores for). -/
  | gangPlacement
  /-- GANG_START (R306): Every gang member holds a reservation and all members start. Reads: n (domain). -/
  | gangStart
  /-- TRAP_ENTRY (R336): A cause is taken: freeze, CAUSE, trap record and entry at MENTRY. -/
  | trapEntry
  /-- CONTEXT_SAVE (R353): A pre-empted, yielding, joining or parked task's context is frozen and written out. -/
  | contextSave
  /-- IMAGE_WRITEOUT (R352): A core writes an in-core image, regions and spill to its slot and clears INCORE. Reads: x (the slot's VA). -/
  | imageWriteout
  /-- CONTEXT_RESTORE (R356): A saved context is read, engine state rebuilt and the task resumed with replay. -/
  | contextRestore
  /-- CHQ_POP (R348): MFS of CHQc removes and returns the next word of a stopped channel's queue. Reads: n (channel). -/
  | chqPop
  /-- CHQ_APPEND (R348): Three MTS writes to CHQc append one command to a stopped queue. Reads: n (channel), record (w0 to w2). -/
  | chqAppend
  /-- CHQ_RESUME (R348): An MTS with V = 0 in the e0 position clears STOP and the channel resumes. Reads: n (channel). -/
  | chqResume
  /-- SNAPN_DISCARD (R345): Writing 0 to SNAPN discards every snapshot entry. -/
  | snapnDiscard
  /-- MENTRY_WRITE (R339): The control cores write MENTRY through the management block while the core is held in reset. Reads: x. -/
  | mentryWrite
  /-- DEBUG_HALT_REQUEST (R358): The control cores halt a core for debug and set its gang's HELD bit. Reads: b (by another member of the gang). -/
  | debugHaltRequest
  /-- GANG_HELD_CLEAR (R358): The control cores clear HELD and the gang's members may return by ERET. Reads: n (domain). -/
  | gangHeldClear
  /-- SQ_START (R332): SQCTL command 1 starts the program at ENTRY. -/
  | sqStart
  /-- SQ_STOP (R331): SQCTL command 2 stops the program as R331 without a report. -/
  | sqStop
  /-- SQ_POP_REPORT (R332): SQCTL command 3 pops a report into SQREP. -/
  | sqPopReport
  /-- PROGRAM_FAULT_STOP (R331): A stopping cause reaches the sequencer, which stops the program and reports OPERATOR. -/
  | programFaultStop
  /-- VISYN_LOAD (R316): The loader checks an image, schedules kernels and writes code tags, or refuses it. Reads: bytes (the image), record (where it lies and what the control cores grant), images. -/
  | visynLoad
  /-- OPERATOR_COMPLETE (R323): An operator's notice reaches the sequencer and its scoreboard entries advance. Reads: b, n. -/
  | operatorComplete
  /-- BYTECODE_NOP (R318): The NOP operator does nothing. -/
  | bytecodeNop
  /-- END (R318): Stops decode; the program ends when issued operators complete. -/
  | endOp
  /-- DIM (R318): Sets a symbol from an element of a ready INT32 tensor. -/
  | dim
  /-- VIEW (R318): Makes a handle an alias of another at a byte offset. -/
  | view
  /-- ALLOC (R318): Gives a dynamic tensor workspace storage. -/
  | alloc
  /-- FREE (R318): Returns a handle's storage once it has no readers or writers. -/
  | free
  /-- LOOP (R318): Repeats the body to its ENDLOOP a fixed or symbolic number of times. -/
  | loop
  /-- ENDLOOP (R318): Closes the innermost LOOP. -/
  | endloop
  /-- BRZ (R318): Continues decode at an offset when a symbol is zero. -/
  | brz
  /-- BRNZ (R318): Continues decode at an offset when a symbol is nonzero. -/
  | brnz
  /-- CALL (R318): Pushes the return address and continues decode at an offset. -/
  | call
  /-- BYTECODE_RET (R318): Pops the bytecode return address. -/
  | bytecodeRet
  /-- FUSE (R318): Expands the next operators by one fused recipe where firmware has one. -/
  | fuse
  /-- SHARD (R318): Re-shards a tensor to a new mode and axis. -/
  | shard
  /-- SYNC (R318): Decode waits until every issued operator has completed. -/
  | sync
  /-- MATMUL (R320): Matrix product operator expanded into tile tasks. Reads: b (the tile work of the issued operator n), n. -/
  | matmul
  /-- BMATMUL (R319): Batched matrix product operator. Reads: b (the tile work of the issued operator n), n. -/
  | bmatmul
  /-- CONV (R319): Convolution operator. Reads: b (the tile work of the issued operator n), n. -/
  | conv
  /-- EWISE (R319): Element-wise V or F operator with broadcasting. Reads: b (the tile work of the issued operator n), n. -/
  | ewise
  /-- REDUCE (R320): Sum, maximum or minimum reduction over axes. Reads: b (the tile work of the issued operator n), n. -/
  | reduce
  /-- SOFTMAX (R320): Softmax along dimension 0. Reads: b (the tile work of the issued operator n), n. -/
  | softmax
  /-- NORM (R320): Layer or RMS normalisation. Reads: b (the tile work of the issued operator n), n. -/
  | norm
  /-- GATHER (R319): Gathers rows by INT32 indices, raising INDEX out of range. Reads: b (the tile work of the issued operator n), n. -/
  | gather
  /-- SCATTER (R319): Scatters rows by indices, optionally accumulating. Reads: b (the tile work of the issued operator n), n. -/
  | scatter
  /-- PERMUTE (R319): Permutes tensor axes. Reads: b (the tile work of the issued operator n), n. -/
  | permute
  /-- CONCAT (R319): Concatenates two tensors along an axis. Reads: b (the tile work of the issued operator n), n. -/
  | concat
  /-- CONVERT (R319): Converts a tensor's format under a rounding mode. Reads: b (the tile work of the issued operator n), n. -/
  | convert
  /-- QUANT (R319): Quantises into MX blocks or with outlier split. Reads: b (the tile work of the issued operator n), n. -/
  | quant
  /-- ATTEND (R320): Attention over paged key-value blocks. Reads: b (the tile work of the issued operator n), n. -/
  | attend
  /-- KVAPPEND (R319): Allocates blocks, writes table entries and appends key-value rows. Reads: b (the tile work of the issued operator n), n. -/
  | kvappend
  /-- SCAN (R319): Recurrent linear scan over Grotto state with periodic snapshots. Reads: b (the tile work of the issued operator n), n. -/
  | scan
  /-- STATEOP (R319): Issues one Grotto command per sequence word. Reads: b (the tile work of the issued operator n), n. -/
  | stateop
  /-- ROUTE (R319): Selects the top-k experts per token with softmax weights. Reads: b (the tile work of the issued operator n), n. -/
  | route
  /-- DISPATCH (R328): Places token rows into per-expert page lists. Reads: b (the tile work of the issued operator n), n. -/
  | dispatch
  /-- COMBINE (R329): Combines expert outputs per token in k order. Reads: b (the tile work of the issued operator n), n. -/
  | combine
  /-- COLLECTIVE (R319): Runs an R179 collective on a tensor. Reads: b, n. -/
  | collective
  /-- COPY (R319): Byte copy between equal-size tensors. Reads: b (the tile work of the issued operator n), n. -/
  | copy
  /-- KCALL (R395): Emits one record per grid point for a kernel, optionally as a gang. -/
  | kcall
  /-- LOOPR (R325): Recipe loop over an immediate or dimension count. Reads: n (the issued operator whose recipe it is). -/
  | loopr
  /-- TILE (R325): Packs loop counters into a recipe register. Reads: n (the issued operator whose recipe it is). -/
  | tile
  /-- BIND (R325): Loads a VA, attribute, immediate or dimension into a recipe register. Reads: n (the issued operator whose recipe it is). -/
  | bind
  /-- EMIT (R325): Emits one continuation record to the dispatcher. Reads: n (the issued operator whose recipe it is). -/
  | emit
  /-- WAITH (R325): Waits for a handle to be READY or for emitted tasks to end. Reads: n (the issued operator whose recipe it is). -/
  | waith
  /-- SIGH (R325): Completes the writer of an extra destination once emitted tasks end. Reads: n (the issued operator whose recipe it is). -/
  | sigh
  /-- ALLOCR (R325): Allocates a workspace temporary. Reads: n (the issued operator whose recipe it is). -/
  | allocr
  /-- FREER (R325): Frees a temporary after emitted tasks end. Reads: n (the issued operator whose recipe it is). -/
  | freer
  /-- COLLR (R325): Writes and posts a collective descriptor covered by the operator's counter. Reads: n (the issued operator whose recipe it is). -/
  | collr
  /-- ENDR (R325): Closes the innermost LOOPR or ends the recipe. Reads: n (the issued operator whose recipe it is). -/
  | endr
  /-- GROUP_TABLE_WRITE (R369): A group table entry is written, its HASH computed, deferred while a collective uses it. Reads: n (entry), x, y (w0, w1). -/
  | groupTableWrite
  /-- FLIT_SEND (R365): A port sends a data flit within the last received drain rate and keeps it for replay. Reads: flit. -/
  | flitSend
  /-- FLIT_RECEIVE (R364): A port receives a flit, checks CRC and sequence, accepts, drops or naks it. Reads: n (port), flit, b (its virtual channel is full). -/
  | flitReceive
  /-- NAK (R364): A sender receives a nak and replays, retraining after 16 naks without progress. Reads: n (port), m (expected SEQ). -/
  | nak
  /-- RETRAIN_COMPLETE (R364): A port finishes retraining and replays from the expected SEQ. Reads: n (port), m (expected SEQ), b (the lanes are not trained). -/
  | retrainComplete
  /-- RATE_FLIT (R365): A rate flit sets the sender's per-VC drain rates. Reads: n (port), flit. -/
  | rateFlit
  /-- PORT_DOWN (R368): A port goes down, discards its replay buffer and raises an error record. Reads: n (port). -/
  | portDown
  /-- HOST_BAR_ACCESS (R372): A host PCIe access to BAR0 is served, or completes with Unsupported Request outside it. Reads: n (offset), write. -/
  | hostBarAccess
  /-- ATTESTATION_QUOTE (R377): A verifier's nonce is answered with a signed quote of measurements. Reads: bytes (the nonce). -/
  | attestationQuote
  /-- COLD_RESET (R374): Power-on or cold reset runs the eight bring-up steps in order. Reads: images, keys, fail, nats (cores that are offline). -/
  | coldReset
  /-- CORE_RESET_TO_ZERO (R374): The control cores reset a core to zero and it enters the monitor at MENTRY. Reads: b (held in reset). -/
  | coreResetToZero
  /-- TENANT_TURNOVER (R381): The clean-room sequence stops, rekeys, fills, clears, re-measures and tests the packages. Reads: images, keys, nats (ports held down), fail, b (a failure that has been spared). -/
  | tenantTurnover
  /-- POWER_LIMIT (R382): Average power above a limit throttles array wake, inserts stalls or stops issue. -/
  | powerLimit
  /-- ARRAY_POWER_GATE (R382): A matrix array idle for 65,536 cycles is power-gated. Reads: b (another core's array), n. -/
  | arrayPowerGate
  /-- ARRAY_WAKE (R382): A group of waking arrays is admitted every 8,400 cycles. Reads: n (group); with b another core's array asks, k. -/
  | arrayWake
  /-- THERMAL_TRIP (R382): Cold-plate temperature above the rated limit for 1 s enters the safe state with THERMAL. -/
  | thermalTrip
  /-- REGISTER_WRITE (R6): A write to a register without a row of its own stores its writable fields under the access codes. Reads: reg, x. -/
  | registerWrite
  /-- SPILLED_MESSAGE_MOVE (R354): The background move of a saved task's spilled messages to the gang overflow or slot spill area completes, and senders held for the next task are released. -/
  | spilledMessageMove
  /-- POWER_AVERAGE_FALLS (R382): The measured power average falls back below its limit and the power controller lifts its throttling stages, so stopped or stalled issue resumes. -/
  | powerAverageFalls
deriving DecidableEq, Repr

end Sys2Proof
end

