-- ==== Sys2Proof/WellFormed.lean ====
section
/-! DEFINITION. Which instructions have an encoding: the decode-time conditions of R146, R148, R149, R154, R158,
R165, R166, R190, R210, R233 and R254 that are not a matter of the layout alone. -/
namespace Sys2Proof

/-- Integer element types (R144). -/
def VT.isInt : VT → Bool
  | .i8 | .i16 | .i32 => true
  | _ => false

/-- Element size in bytes (R209). -/
def VT.size : VT → Nat
  | .i8 | .e4m3 | .e5m2 => 1
  | .i16 | .bf16 | .f16 => 2
  | .i32 | .f32 => 4

/-- Width in bits (R144). -/
def VW.width : VW → Nat
  | .w256 => 256
  | .w512 => 512
  | .w1024 => 1024

/-- The element count N of R209. -/
def elems (w : VW) (t : VT) : Nat := w.width / (8 * t.size)

/-- R138: p0 and p16 may not be named as a destination. -/
def pdOk (p : BitVec 5) : Bool := p != 0 && p != 16

/-- R140: the listed system-register indices. -/
def sysListed (x : Nat) : Bool :=
  x ≤ 0x008 || (0x010 ≤ x && x ≤ 0x015) || x == 0x018 || x == 0x019 || (0x020 ≤ x && x ≤ 0x037)
    || (0x040 ≤ x && x ≤ 0x043) || (0x048 ≤ x && x ≤ 0x04B) || (0x050 ≤ x && x ≤ 0x054)
    || (0x060 ≤ x && x ≤ 0x064) || x == 0x068 || x == 0x069

/-- R4, R146: scope codes 5 to 7 are illegal. -/
def scOk (s : BitVec 3) : Bool := s.toNat ≤ 4

/-- R158: vector width code 11 of an M syllable is illegal. -/
def mwOk (w : BitVec 2) : Bool := w != 3

/-- An instruction is well formed when some encoding stands for it and decodes without a fault. -/
def Instr.wf : Instr → Bool
  | .nop s => s.toNat < 12
  | .cmpeq f | .cmpne f | .cmplt f | .cmple f | .cmpltn f | .cmplen f => pdOk f.p
  | .pand f | .por f | .pxor f | .pandn f | .pall f => pdOk f.p
  | .pset f => pdOk f.p
  | .fcmpeq f | .fcmplt f | .fcmple f | .fcmpun f => pdOk f.p
  | .mfs f => sysListed f.x.toNat
  | .mts f => sysListed f.x.toNat
  | .vminn f | .vmaxn f | .vmulh f | .vmulhn f | .vsadd f | .vssub f | .vshl f | .vshr f | .vsra f => f.t.isInt
  | .vclz f | .vpopc f => f.t.isInt
  | .vplane f | .vunplane f => f.t != .i32 && f.t != .f32
  | .vcmpeq f | .vcmpne f | .vcmplt f | .vcmple f => f.p != 0
  | .vcmpltn f | .vcmplen f => f.p != 0 && f.t.isInt
  | .vcmpun f => f.p != 0 && !f.t.isInt
  | .vscale f => !f.t.isInt
  | .viota f => f.t.isInt
  | .vslideup f | .vslidedn f => decide (f.k.toNat ≤ elems f.w f.t)
  | .vextract f => decide (f.n.toNat < elems f.w f.t)
  | .vcvtq f => (f.t == .i8 || f.t == .e4m3) && f.q != 0
  | .vexp2 f | .vexp f | .vlog2 f | .vln f | .vrcp f | .vrsq f | .vsqrt f | .vtanh f | .vsigm f | .vsin f
  | .vcos f | .verf f | .vgelu f => f.t == .bf16 || f.t == .f16 || f.t == .f32
  | .ldv f | .stv f | .ldvb f | .ldgv f | .stgv f => mwOk f.w
  | .pref f | .icpin f | .icunpin f | .dcwb f | .dcinv f => decide (f.w.toNat < 2)
  | .resid f => mwOk f.w
  | .ldvx f | .stvx f | .ldvs f => mwOk f.w && f.ord == 0 && f.sc == 0
  | .vaor f => mwOk f.w && scOk f.sc
  | .vaadd f => mwOk f.w && scOk f.sc && decide (2 ≤ f.e.toNat)
  | .lda f => f.ord == 1 && scOk f.sc && f.reg == 0
  | .stl f => f.ord == 2 && scOk f.sc && f.reg == 0
  | .aadd f | .amin f | .amax f | .aminn f | .amaxn f | .aand f | .aor f | .axor f | .axchg f => scOk f.sc
  | .acas f => scOk f.sc && decide (f.reg.toNat % 2 = 0)
  | .afadd f => scOk f.sc && (f.w == 1 || f.w == 2)
  | .drain f => scOk f.sc
  | .mconv f => f.conv
  | .lsw f | .lsr f => decide (f.f.toNat ≤ 11)
  | _ => true

end Sys2Proof
end

