-- ==== Sys2Proof/Decode.lean ====
section
/-! DEFINITION. Decoding of syllables, bundles and bytecode, total and rejecting by name, and after it the encoder.
R142 to R148 (bundles), R158 (illegal encodings), R165, R188, R233, R253, R261 (class layouts), R317 (bytecode). -/
namespace Sys2Proof

/-- Why a syllable is refused (R158). Every name but badWidth raises ILLEGAL_OP. -/
inductive DecodeError where
  | nopNotZero | undefinedOpcode | mustBeZero | extMissing | extNotAdmitted | badOperand | badWidth
deriving DecidableEq, Repr

/-- len bits of w from bit lo up. -/
def fld (w : W32) (lo len : Nat) : BitVec len := w.extractLsb' lo len

/-- The opcode field [31:25] (R144). -/
def opc (w : W32) : BitVec 7 := fld w 25 7

/-- gn and guard of S, M, X, C, K and B syllables (R144). -/
def guardOf (w : W32) : Guard := ⟨w.getLsbD 24, fld w 19 5⟩

/-- gn and guard of V and F syllables (R144). -/
def vguardOf (w : W32) : VGuard := ⟨w.getLsbD 24, fld w 20 4⟩

/-- The slot number of an S slot (R142). -/
def sSlotNo : SSlot → Nat | .s0 => 0 | .s1 => 1
/-- The slot number and V2CL bit of a V slot (R142). -/
def vSlotNo : VSlot → Nat × Bool | .v0 => (2, false) | .v1 => (3, false) | .v2w => (4, false) | .v2e => (4, true)
/-- The slot number of an M slot (R142). -/
def mSlotNo : MSlot → Nat | .m0 => 6 | .m1 => 7
def sIdx (s : SSlot) : BitVec 4 := BitVec.ofNat 4 (sSlotNo s)
def vIdx (s : VSlot) : BitVec 4 := BitVec.ofNat 4 (vSlotNo s).1
def mIdx (s : MSlot) : BitVec 4 := BitVec.ofNat 4 (mSlotNo s)

/-- An instruction read from its fields stands only if it is well formed (R158). -/
def accept (i : Instr) : Except DecodeError Instr := if i.wf then .ok i else .error .badOperand

/-- A field that must be zero (R149). -/
def zeroThen {α : Type} (c : Bool) (k : Except DecodeError α) : Except DecodeError α :=
  if c then k else .error .mustBeZero

/-- No extension word is admitted (R146). -/
def noExt {α : Type} (x : Option W32) (k : Except DecodeError α) : Except DecodeError α :=
  match x with
  | none => k
  | some _ => .error .extNotAdmitted

/-- An extension word is required (R146). -/
def withExt {α : Type} (x : Option W32) (k : W32 → Except DecodeError α) : Except DecodeError α :=
  match x with
  | none => .error .extMissing
  | some e => k e

/-- R148: a NOP syllable is all zero and has no extension word. -/
def decNop (slot : BitVec 4) (w : W32) (x : Option W32) : Except DecodeError Instr :=
  noExt x (if w = 0 then accept (.nop slot) else .error .nopNotZero)

/-- R253: op2 of an integer syllable. -/
def op2Of (w : W32) (x : Option W32) : Except DecodeError Op2 :=
  match x with
  | none => .ok (if w.getLsbD 0 then .imm (fld w 1 6) else .reg (fld w 1 6))
  | some e => if w.getLsbD 0 && fld w 1 6 == 0 then .ok (.ext e) else .error .mustBeZero

/-- R253: op2 of a floating-point syllable. -/
def fop2Of (w : W32) (x : Option W32) : Except DecodeError FOp2 :=
  match x with
  | none => .ok (.reg (fld w 1 6))
  | some e => if fld w 1 6 == 0 then .ok (.ext e) else .error .mustBeZero

def decSbin (mk : SBin → Instr) (slot : SSlot) (w : W32) (x : Option W32) : Except DecodeError Instr :=
  (op2Of w x).bind fun o => accept (mk ⟨slot, guardOf w, fld w 13 6, fld w 7 6, o⟩)
def decSun (mk : SUn → Instr) (slot : SSlot) (w : W32) (x : Option W32) : Except DecodeError Instr :=
  noExt x (zeroThen (fld w 0 7 == 0) (accept (mk ⟨slot, guardOf w, fld w 13 6, fld w 7 6⟩)))
def decSmov (mk : SMov → Instr) (slot : SSlot) (w : W32) (x : Option W32) : Except DecodeError Instr :=
  zeroThen (fld w 7 6 == 0) ((op2Of w x).bind fun o => accept (mk ⟨slot, guardOf w, fld w 13 6, o⟩))
def decScmp (mk : SCmp → Instr) (slot : SSlot) (w : W32) (x : Option W32) : Except DecodeError Instr :=
  zeroThen (fld w 18 1 == 0)
    ((op2Of w x).bind fun o => accept (mk ⟨slot, guardOf w, fld w 13 5, fld w 7 6, o⟩))
def decSpred (mk : SPred → Instr) (slot : SSlot) (w : W32) (x : Option W32) : Except DecodeError Instr :=
  noExt x (zeroThen (fld w 18 1 == 0 && fld w 12 1 == 0 && fld w 6 1 == 0 && fld w 0 1 == 0)
    (accept (mk ⟨slot, guardOf w, fld w 13 5, fld w 7 5, fld w 1 5⟩)))
def decSpget (mk : SPget → Instr) (slot : SSlot) (w : W32) (x : Option W32) : Except DecodeError Instr :=
  noExt x (zeroThen (fld w 12 1 == 0 && fld w 2 5 == 0 && fld w 0 1 == 1)
    (accept (mk ⟨slot, guardOf w, fld w 13 6, fld w 7 5, w.getLsbD 1⟩)))
def decSpset (mk : SPset → Instr) (slot : SSlot) (w : W32) (x : Option W32) : Except DecodeError Instr :=
  noExt x (zeroThen (fld w 18 1 == 0 && fld w 0 1 == 0)
    (accept (mk ⟨slot, guardOf w, fld w 13 5, fld w 7 6, fld w 1 6⟩)))
def decSfbin (mk : SFBin → Instr) (slot : SSlot) (w : W32) (x : Option W32) : Except DecodeError Instr :=
  (fop2Of w x).bind fun o => accept (mk ⟨slot, guardOf w, fld w 13 6, fld w 7 6, o, w.getLsbD 0⟩)
def decSfun (mk : SFUn → Instr) (slot : SSlot) (w : W32) (x : Option W32) : Except DecodeError Instr :=
  noExt x (zeroThen (fld w 1 6 == 0) (accept (mk ⟨slot, guardOf w, fld w 13 6, fld w 7 6, w.getLsbD 0⟩)))
def decSfcmp (mk : SFCmp → Instr) (slot : SSlot) (w : W32) (x : Option W32) : Except DecodeError Instr :=
  zeroThen (fld w 18 1 == 0)
    ((fop2Of w x).bind fun o => accept (mk ⟨slot, guardOf w, fld w 13 5, fld w 7 6, o, w.getLsbD 0⟩))
def decSfconv (mk : SFConv → Instr) (slot : SSlot) (w : W32) (x : Option W32) : Except DecodeError Instr :=
  noExt x (zeroThen (fld w 2 5 == 0)
    (accept (mk ⟨slot, guardOf w, fld w 13 6, fld w 7 6, w.getLsbD 1, w.getLsbD 0⟩)))
def decSmfs (mk : SMfs → Instr) (slot : SSlot) (w : W32) (x : Option W32) : Except DecodeError Instr :=
  noExt x (zeroThen (fld w 0 1 == 0) (accept (mk ⟨slot, guardOf w, fld w 13 6, fld w 1 12⟩)))
def decSmts (mk : SMts → Instr) (slot : SSlot) (w : W32) (x : Option W32) : Except DecodeError Instr :=
  noExt x (zeroThen (fld w 0 1 == 0) (accept (mk ⟨slot, guardOf w, fld w 13 6, fld w 1 12⟩)))
def decSprobe (mk : SProbe → Instr) (slot : SSlot) (w : W32) (x : Option W32) : Except DecodeError Instr :=
  noExt x (zeroThen (fld w 3 4 == 0 && fld w 0 1 == 1)
    (accept (mk ⟨slot, guardOf w, fld w 13 6, fld w 7 6, fld w 1 2⟩)))

/-- The V and F width code [4:3] (R144). -/
def vwOf (w : W32) : Except DecodeError VW :=
  match (fld w 3 2).toNat with
  | 0 => .ok .w256
  | 1 => .ok .w512
  | 2 => .ok .w1024
  | _ => .error .badWidth

/-- The V and F type codes (R144). -/
def vtOf (n : BitVec 3) : VT :=
  match n.toNat with
  | 0 => .i8
  | 1 => .i16
  | 2 => .i32
  | 3 => .bf16
  | 4 => .f16
  | 5 => .f32
  | 6 => .e4m3
  | _ => .e5m2

/-- R211: vb, or the extension word in its place with vb zero. -/
def vopOf (r : BitVec 5) (x : Option W32) : Except DecodeError VOp :=
  match x with
  | none => .ok (.reg r)
  | some e => if r == 0 then .ok (.imm e) else .error .mustBeZero

def decVbin (mk : VBin → Instr) (slot : VSlot) (w : W32) (x : Option W32) : Except DecodeError Instr :=
  (vwOf w).bind fun vw => (vopOf (fld w 5 5) x).bind fun o =>
    accept (mk ⟨slot, vguardOf w, fld w 15 5, fld w 10 5, o, vw, vtOf (fld w 0 3)⟩)
def decVun (mk : VUn → Instr) (slot : VSlot) (w : W32) (x : Option W32) : Except DecodeError Instr :=
  noExt x ((vwOf w).bind fun vw => zeroThen (fld w 5 5 == 0)
    (accept (mk ⟨slot, vguardOf w, fld w 15 5, fld w 10 5, vw, vtOf (fld w 0 3)⟩)))
def decVcmp (mk : VCmp → Instr) (slot : VSlot) (w : W32) (x : Option W32) : Except DecodeError Instr :=
  (vwOf w).bind fun vw => zeroThen (fld w 19 1 == 0) ((vopOf (fld w 5 5) x).bind fun o =>
    accept (mk ⟨slot, vguardOf w, fld w 15 4, fld w 10 5, o, vw, vtOf (fld w 0 3)⟩))
def decVter (mk : VTer → Instr) (slot : VSlot) (w : W32) (x : Option W32) : Except DecodeError Instr :=
  noExt x ((vwOf w).bind fun vw =>
    accept (mk ⟨slot, vguardOf w, fld w 15 5, fld w 10 5, fld w 5 5, vw, vtOf (fld w 0 3)⟩))
def decVdot (mk : VDot → Instr) (slot : VSlot) (w : W32) (x : Option W32) : Except DecodeError Instr :=
  noExt x ((vwOf w).bind fun vw => zeroThen (fld w 0 3 == 0)
    (accept (mk ⟨slot, vguardOf w, fld w 15 5, fld w 10 5, fld w 5 5, vw⟩)))
def decVmov (mk : VMov → Instr) (slot : VSlot) (w : W32) (x : Option W32) : Except DecodeError Instr :=
  (vwOf w).bind fun vw => zeroThen (fld w 5 5 == 0) ((vopOf (fld w 10 5) x).bind fun o =>
    accept (mk ⟨slot, vguardOf w, fld w 15 5, o, vw, vtOf (fld w 0 3)⟩))
def decVbcast (mk : VBcast → Instr) (slot : VSlot) (w : W32) (x : Option W32) : Except DecodeError Instr :=
  withExt x fun e => (vwOf w).bind fun vw => zeroThen (fld w 5 10 == 0 && fld e 6 26 == 0)
    (accept (mk ⟨slot, vguardOf w, fld w 15 5, vw, vtOf (fld w 0 3), fld e 0 6⟩))
def decViota (mk : VIota → Instr) (slot : VSlot) (w : W32) (x : Option W32) : Except DecodeError Instr :=
  (vwOf w).bind fun vw => zeroThen (fld w 5 10 == 0)
    (accept (mk ⟨slot, vguardOf w, fld w 15 5, vw, vtOf (fld w 0 3), x⟩))
def decVslide (mk : VSlide → Instr) (slot : VSlot) (w : W32) (x : Option W32) : Except DecodeError Instr :=
  withExt x fun e => (vwOf w).bind fun vw => zeroThen (fld e 8 24 == 0)
    (accept (mk ⟨slot, vguardOf w, fld w 15 5, fld w 10 5, fld w 5 5, vw, vtOf (fld w 0 3), fld e 0 8⟩))
def decVzip (mk : VZip → Instr) (slot : VSlot) (w : W32) (x : Option W32) : Except DecodeError Instr :=
  (vwOf w).bind fun vw =>
    match x with
    | none => accept (mk ⟨slot, vguardOf w, fld w 15 5, fld w 10 5, fld w 5 5, vw, vtOf (fld w 0 3), none⟩)
    | some e => zeroThen (fld e 1 31 == 0)
        (accept (mk ⟨slot, vguardOf w, fld w 15 5, fld w 10 5, fld w 5 5, vw, vtOf (fld w 0 3), some (e.getLsbD 0)⟩))
def decVextract (mk : VExtract → Instr) (slot : VSlot) (w : W32) (x : Option W32) : Except DecodeError Instr :=
  withExt x fun e => (vwOf w).bind fun vw =>
    zeroThen (fld w 15 5 == 0 && fld w 5 5 == 0 && fld e 7 1 == 0 && fld e 16 16 == 0)
    (accept (mk ⟨slot, vguardOf w, fld w 10 5, vw, vtOf (fld w 0 3), fld e 0 6, e.getLsbD 6, fld e 8 8⟩))
def decVcvt (mk : VCvt → Instr) (slot : VSlot) (w : W32) (x : Option W32) : Except DecodeError Instr :=
  withExt x fun e => (vwOf w).bind fun vw =>
    zeroThen (fld w 5 5 == 0 && fld e 3 1 == 0 && fld e 5 27 == 0)
    (accept (mk ⟨slot, vguardOf w, fld w 15 5, fld w 10 5, vw, vtOf (fld w 0 3), vtOf (fld e 0 3), e.getLsbD 4⟩))
def decVcvtq (mk : VCvtq → Instr) (slot : VSlot) (w : W32) (x : Option W32) : Except DecodeError Instr :=
  withExt x fun e => (vwOf w).bind fun vw => zeroThen (fld e 5 27 == 0)
    (accept (mk ⟨slot, vguardOf w, fld w 15 5, fld w 10 5, fld w 5 5, vw, vtOf (fld w 0 3), fld e 0 4, e.getLsbD 4⟩))
def decFun (mk : FUn → Instr) (cl : Cl) (w : W32) (x : Option W32) : Except DecodeError Instr :=
  noExt x ((vwOf w).bind fun vw => zeroThen (fld w 5 5 == 0)
    (accept (mk ⟨cl, vguardOf w, fld w 15 5, fld w 10 5, vw, vtOf (fld w 0 3)⟩)))

/-- R188: off5, or an offset extension word with off5 zero. -/
def moffOf (w : W32) (x : Option W32) : Except DecodeError MOff :=
  match x with
  | none => .ok (.short (fld w 0 5))
  | some e => if fld w 0 5 == 0 then .ok (.ext e) else .error .mustBeZero

def decMmem (mk : MMem → Instr) (slot : MSlot) (w : W32) (x : Option W32) : Except DecodeError Instr :=
  (moffOf w x).bind fun o => accept (mk ⟨slot, guardOf w, fld w 13 6, fld w 7 6, fld w 5 2, o⟩)
def decMidx (mk : MIdx → Instr) (slot : MSlot) (w : W32) (x : Option W32) : Except DecodeError Instr :=
  withExt x fun e => zeroThen (fld w 2 3 == 0 && fld e 11 21 == 0)
    (accept (mk ⟨slot, guardOf w, fld w 13 6, fld w 7 6, fld w 5 2, fld w 0 2, fld e 9 2, fld e 6 3, fld e 0 6⟩))
def decMord (mk : MOrd → Instr) (slot : MSlot) (w : W32) (x : Option W32) : Except DecodeError Instr :=
  withExt x fun e => zeroThen (fld e 11 21 == 0)
    (accept (mk ⟨slot, guardOf w, fld w 13 6, fld w 7 6, fld w 5 2, fld w 0 5, fld e 9 2, fld e 6 3, fld e 0 6⟩))
def decMdrain (mk : MDrain → Instr) (slot : MSlot) (w : W32) (x : Option W32) : Except DecodeError Instr :=
  withExt x fun e => zeroThen (fld w 0 19 == 0 && fld e 9 23 == 0 && fld e 0 6 == 0)
    (accept (mk ⟨slot, guardOf w, fld e 6 3⟩))

def decXmul (mk : XMul → Instr) (w : W32) (x : Option W32) : Except DecodeError Instr :=
  noExt x (zeroThen (fld w 0 4 == 0 && fld w 5 1 == 0)
    (accept (mk ⟨guardOf w, fld w 16 3, fld w 13 3, w.getLsbD 12, fld w 8 4, w.getLsbD 7, w.getLsbD 6, w.getLsbD 4⟩)))
def decXacc (mk : XAcc → Instr) (w : W32) (x : Option W32) : Except DecodeError Instr :=
  noExt x (zeroThen (fld w 13 6 == 0 && fld w 0 12 == 0) (accept (mk ⟨guardOf w, w.getLsbD 12⟩)))
def decXrow (mk : XRow → Instr) (w : W32) (x : Option W32) : Except DecodeError Instr :=
  noExt x (zeroThen (fld w 13 2 == 0 && fld w 0 5 == 0)
    (accept (mk ⟨guardOf w, fld w 15 4, w.getLsbD 12, fld w 5 7⟩)))
def decXtile (mk : XTile → Instr) (w : W32) (x : Option W32) : Except DecodeError Instr :=
  noExt x (zeroThen (fld w 0 16 == 0) (accept (mk ⟨guardOf w, fld w 16 3⟩)))
def decXsett (mk : XSett → Instr) (w : W32) (x : Option W32) : Except DecodeError Instr :=
  noExt x (zeroThen (fld w 13 3 == 0 && fld w 0 7 == 0) (accept (mk ⟨guardOf w, fld w 16 3, fld w 7 6⟩)))
def decXnone (mk : XNone → Instr) (w : W32) (x : Option W32) : Except DecodeError Instr :=
  noExt x (zeroThen (fld w 0 19 == 0) (accept (mk ⟨guardOf w⟩)))
def decKsrc (mk : KSrc → Instr) (w : W32) (x : Option W32) : Except DecodeError Instr :=
  noExt x (zeroThen (fld w 0 13 == 0) (accept (mk ⟨guardOf w, fld w 13 6⟩)))
def decKfill (mk : KFill → Instr) (w : W32) (x : Option W32) : Except DecodeError Instr :=
  noExt x (zeroThen (fld w 0 12 == 0) (accept (mk ⟨guardOf w, fld w 13 6, w.getLsbD 12⟩)))
def decKnone (mk : KNone → Instr) (w : W32) (x : Option W32) : Except DecodeError Instr :=
  noExt x (zeroThen (fld w 0 19 == 0) (accept (mk ⟨guardOf w⟩)))

def decCls (mk : CLs → Instr) (w : W32) (x : Option W32) : Except DecodeError Instr :=
  noExt x (zeroThen (fld w 11 2 == 0 && fld w 0 4 == 0)
    (accept (mk ⟨guardOf w, fld w 13 6, fld w 7 4, fld w 4 3⟩)))
def decCcopy (mk : CCopy → Instr) (w : W32) (x : Option W32) : Except DecodeError Instr :=
  withExt x fun e => accept (mk ⟨guardOf w, fld w 13 6, fld w 7 6, fld w 4 3, fld w 2 2, fld w 0 2, e⟩)
def decCchain (mk : CChain → Instr) (w : W32) (x : Option W32) : Except DecodeError Instr :=
  withExt x fun e => zeroThen (fld w 7 6 == 0 && fld w 0 4 == 0)
    (accept (mk ⟨guardOf w, fld w 13 6, fld w 4 3, e⟩))
def decCstate (mk : CState → Instr) (w : W32) (x : Option W32) : Except DecodeError Instr :=
  withExt x fun e => zeroThen (fld w 13 1 == 0 && fld w 0 4 == 0)
    (accept (mk ⟨guardOf w, fld w 14 5, fld w 7 6, fld w 4 3, e⟩))
def decCab (mk : CAb → Instr) (w : W32) (x : Option W32) : Except DecodeError Instr :=
  noExt x (zeroThen (fld w 11 2 == 0 && fld w 0 7 == 0) (accept (mk ⟨guardOf w, fld w 13 6, fld w 7 4⟩)))
def decCsem (mk : CSem → Instr) (w : W32) (x : Option W32) : Except DecodeError Instr :=
  withExt x fun e => zeroThen (fld w 0 13 == 0 && fld e 8 24 == 0)
    (accept (mk ⟨guardOf w, fld w 13 6, fld e 0 8⟩))
def decCsemw (mk : CSemw → Instr) (w : W32) (x : Option W32) : Except DecodeError Instr :=
  withExt x fun e => zeroThen (fld w 0 13 == 0 && fld e 9 23 == 0)
    (accept (mk ⟨guardOf w, fld w 13 6, fld e 0 8, e.getLsbD 8⟩))
def decCtwo (mk : CTwo → Instr) (w : W32) (x : Option W32) : Except DecodeError Instr :=
  noExt x (zeroThen (fld w 0 7 == 0) (accept (mk ⟨guardOf w, fld w 13 6, fld w 7 6⟩)))
def decCpair (mk : CPair → Instr) (w : W32) (x : Option W32) : Except DecodeError Instr :=
  noExt x (zeroThen (fld w 0 8 == 0) (accept (mk ⟨guardOf w, fld w 13 6, fld w 8 5⟩)))
def decCrecvp (mk : CRecvp → Instr) (w : W32) (x : Option W32) : Except DecodeError Instr :=
  withExt x fun e => zeroThen (fld w 0 7 == 0 && fld e 0 16 == 0)
    (accept (mk ⟨guardOf w, fld w 13 6, fld w 7 6, fld e 16 8, fld e 24 8⟩))
def decCone (mk : COne → Instr) (w : W32) (x : Option W32) : Except DecodeError Instr :=
  noExt x (zeroThen (fld w 0 13 == 0) (accept (mk ⟨guardOf w, fld w 13 6⟩)))
def decCcoll (mk : CColl → Instr) (w : W32) (x : Option W32) : Except DecodeError Instr :=
  withExt x fun e => zeroThen (fld w 4 9 == 0)
    (accept (mk ⟨guardOf w, fld w 13 6, fld w 2 2, fld w 0 2, e⟩))
def decCarm (mk : CArm → Instr) (w : W32) (x : Option W32) : Except DecodeError Instr :=
  withExt x fun e => zeroThen (fld w 4 3 == 0)
    (accept (mk ⟨guardOf w, fld w 13 6, fld w 7 6, fld w 2 2, fld w 0 2, e⟩))
def decCspin (mk : CSpin → Instr) (w : W32) (x : Option W32) : Except DecodeError Instr :=
  withExt x fun e => zeroThen (fld w 0 7 == 0 && fld e 1 31 == 0)
    (accept (mk ⟨guardOf w, fld w 13 6, fld w 7 6, e.getLsbD 0⟩))
def decCsqry (mk : CSqry → Instr) (w : W32) (x : Option W32) : Except DecodeError Instr :=
  withExt x fun e => zeroThen (fld w 0 7 == 0 && fld e 4 28 == 0)
    (accept (mk ⟨guardOf w, fld w 13 6, fld w 7 6, fld e 0 4⟩))

def decBoff (mk : BOff → Instr) (w : W32) (x : Option W32) : Except DecodeError Instr :=
  noExt x (accept (mk ⟨guardOf w, fld w 0 19⟩))
def decBreg (mk : BReg → Instr) (w : W32) (x : Option W32) : Except DecodeError Instr :=
  noExt x (zeroThen (fld w 0 13 == 0) (accept (mk ⟨guardOf w, fld w 13 6⟩)))
def decBnone (mk : BNone → Instr) (w : W32) (x : Option W32) : Except DecodeError Instr :=
  noExt x (zeroThen (fld w 0 19 == 0) (accept (mk ⟨guardOf w⟩)))
/-- R261: BLOOPW and BLOOPE require guard p0 with gn 0. -/
def decBloop (mk : BLoop → Instr) (w : W32) (x : Option W32) : Except DecodeError Instr :=
  noExt x (zeroThen (fld w 19 6 == 0) (accept (mk ⟨fld w 0 19⟩)))
def decBlev (mk : BLev → Instr) (w : W32) (x : Option W32) : Except DecodeError Instr :=
  noExt x (zeroThen (fld w 0 16 == 0) (accept (mk ⟨guardOf w, fld w 16 3⟩)))
def decBcode (mk : BCode → Instr) (w : W32) (x : Option W32) : Except DecodeError Instr :=
  noExt x (zeroThen (fld w 16 3 == 0) (accept (mk ⟨guardOf w, fld w 0 16⟩)))

/-- R148: the S-class opcode map (S0 or S1); every other value is refused. -/
def decodeS (slot : SSlot) (w : W32) (x : Option W32) : Except DecodeError Instr :=
  match (opc w).toNat with
  | 0 => decNop (sIdx slot) w x
  | 0x01 => decSbin .add slot w x
  | 0x02 => decSbin .sub slot w x
  | 0x03 => decSbin .mul slot w x
  | 0x04 => decSbin .mulh slot w x
  | 0x05 => decSbin .mulhn slot w x
  | 0x06 => decSbin .div slot w x
  | 0x07 => decSbin .divn slot w x
  | 0x08 => decSbin .rem slot w x
  | 0x09 => decSbin .remn slot w x
  | 0x0A => decSbin .and slot w x
  | 0x0B => decSbin .or slot w x
  | 0x0C => decSbin .xor slot w x
  | 0x0D => decSbin .andn slot w x
  | 0x0E => decSbin .shl slot w x
  | 0x0F => decSbin .shr slot w x
  | 0x10 => decSbin .sra slot w x
  | 0x11 => decSbin .rol slot w x
  | 0x12 => decSbin .min slot w x
  | 0x13 => decSbin .max slot w x
  | 0x14 => decSbin .minn slot w x
  | 0x15 => decSbin .maxn slot w x
  | 0x16 => decSun .clz slot w x
  | 0x17 => decSun .ctz slot w x
  | 0x18 => decSun .popc slot w x
  | 0x19 => decSmov .mov slot w x
  | 0x1A => decSbin .movh slot w x
  | 0x1B => decSbin .sext slot w x
  | 0x1C => decSbin .zext slot w x
  | 0x1D => decSbin .shadd1 slot w x
  | 0x1E => decSbin .shadd2 slot w x
  | 0x1F => decSbin .shadd3 slot w x
  | 0x20 => decScmp .cmpeq slot w x
  | 0x21 => decScmp .cmpne slot w x
  | 0x22 => decScmp .cmplt slot w x
  | 0x23 => decScmp .cmple slot w x
  | 0x24 => decScmp .cmpltn slot w x
  | 0x25 => decScmp .cmplen slot w x
  | 0x26 => decSpred .pand slot w x
  | 0x27 => decSpred .por slot w x
  | 0x28 => decSpred .pxor slot w x
  | 0x29 => decSpred .pandn slot w x
  | 0x2A => decSpget .pget slot w x
  | 0x2B => decSpset .pset slot w x
  | 0x2C => decSpred .pall slot w x
  | 0x30 => decSfbin .fadd slot w x
  | 0x31 => decSfbin .fsub slot w x
  | 0x32 => decSfbin .fmul slot w x
  | 0x33 => decSfbin .fma slot w x
  | 0x34 => decSfbin .fdiv slot w x
  | 0x35 => decSfun .fsqrt slot w x
  | 0x36 => decSfbin .fmin slot w x
  | 0x37 => decSfbin .fmax slot w x
  | 0x38 => decSfcmp .fcmpeq slot w x
  | 0x39 => decSfcmp .fcmplt slot w x
  | 0x3A => decSfcmp .fcmple slot w x
  | 0x3B => decSfcmp .fcmpun slot w x
  | 0x3C => decSfconv .ftoi slot w x
  | 0x3D => decSfconv .itof slot w x
  | 0x3E => decSfun .fcvt slot w x
  | 0x3F => decSfun .fclass slot w x
  | 0x40 => decSmfs .mfs slot w x
  | 0x41 => decSmts .mts slot w x
  | 0x42 => decSprobe .probe slot w x
  | _ => .error .undefinedOpcode

/-- R148: the V-class opcode map (V0, V1 or V2); every other value is refused. -/
def decodeV (slot : VSlot) (w : W32) (x : Option W32) : Except DecodeError Instr :=
  match (opc w).toNat with
  | 0 => decNop (vIdx slot) w x
  | 0x01 => decVbin .vadd slot w x
  | 0x02 => decVbin .vsub slot w x
  | 0x03 => decVbin .vmul slot w x
  | 0x04 => decVbin .vfma slot w x
  | 0x05 => decVbin .vfms slot w x
  | 0x06 => decVbin .vmin slot w x
  | 0x07 => decVbin .vmax slot w x
  | 0x08 => decVbin .vminn slot w x
  | 0x09 => decVbin .vmaxn slot w x
  | 0x0A => decVun .vabs slot w x
  | 0x0B => decVun .vneg slot w x
  | 0x0C => decVbin .vmulh slot w x
  | 0x0D => decVbin .vmulhn slot w x
  | 0x0E => decVbin .vsadd slot w x
  | 0x0F => decVbin .vssub slot w x
  | 0x10 => decVbin .vand slot w x
  | 0x11 => decVbin .vor slot w x
  | 0x12 => decVbin .vxor slot w x
  | 0x13 => decVbin .vandn slot w x
  | 0x14 => decVun .vnot slot w x
  | 0x15 => decVbin .vshl slot w x
  | 0x16 => decVbin .vshr slot w x
  | 0x17 => decVbin .vsra slot w x
  | 0x18 => decVun .vclz slot w x
  | 0x19 => decVun .vpopc slot w x
  | 0x1A => decVcmp .vcmpeq slot w x
  | 0x1B => decVcmp .vcmpne slot w x
  | 0x1C => decVcmp .vcmplt slot w x
  | 0x1D => decVcmp .vcmple slot w x
  | 0x1E => decVcmp .vcmpltn slot w x
  | 0x1F => decVcmp .vcmplen slot w x
  | 0x20 => decVcmp .vcmpun slot w x
  | 0x21 => decVter .vsel slot w x
  | 0x22 => decVmov .vmov slot w x
  | 0x23 => decVbcast .vbcast slot w x
  | 0x24 => decVun .vxmov slot w x
  | 0x25 => decVter .vperm slot w x
  | 0x26 => decVter .vperm2 slot w x
  | 0x27 => decVslide .vslideup slot w x
  | 0x28 => decVslide .vslidedn slot w x
  | 0x29 => decVzip .vzip slot w x
  | 0x2A => decVzip .vunzip slot w x
  | 0x2B => decViota .viota slot w x
  | 0x2C => decVun .vcompress slot w x
  | 0x2D => decVun .vexpand slot w x
  | 0x2E => decVextract .vextract slot w x
  | 0x30 => decVun .vredadd slot w x
  | 0x31 => decVun .vredmax slot w x
  | 0x32 => decVun .vredmin slot w x
  | 0x33 => decVun .vscan slot w x
  | 0x34 => decVun .vargmax slot w x
  | 0x35 => decVun .vargmin slot w x
  | 0x38 => decVcvt .vcvt slot w x
  | 0x39 => decVcvtq .vcvtq slot w x
  | 0x3A => decVun .vpack4 slot w x
  | 0x3B => decVun .vunpack4 slot w x
  | 0x3C => decVter .vscale slot w x
  | 0x3E => decVun .vplane slot w x
  | 0x3F => decVun .vunplane slot w x
  | 0x40 => decVdot .vdot4 slot w x
  | _ => .error .undefinedOpcode

/-- R148: the F-class opcode map (F); every other value is refused. -/
def decodeF (cl : Cl) (w : W32) (x : Option W32) : Except DecodeError Instr :=
  match (opc w).toNat with
  | 0 => decNop 5 w x
  | 0x01 => decFun .vexp2 cl w x
  | 0x02 => decFun .vexp cl w x
  | 0x03 => decFun .vlog2 cl w x
  | 0x04 => decFun .vln cl w x
  | 0x05 => decFun .vrcp cl w x
  | 0x06 => decFun .vrsq cl w x
  | 0x07 => decFun .vsqrt cl w x
  | 0x08 => decFun .vtanh cl w x
  | 0x09 => decFun .vsigm cl w x
  | 0x0A => decFun .vsin cl w x
  | 0x0B => decFun .vcos cl w x
  | 0x0C => decFun .verf cl w x
  | 0x0D => decFun .vgelu cl w x
  | _ => .error .undefinedOpcode

/-- R148: the M-class opcode map (M0 or M1); every other value is refused. -/
def decodeM (slot : MSlot) (w : W32) (x : Option W32) : Except DecodeError Instr :=
  match (opc w).toNat with
  | 0 => decNop (mIdx slot) w x
  | 0x01 => decMmem .lds slot w x
  | 0x02 => decMmem .ldsn slot w x
  | 0x03 => decMmem .sts slot w x
  | 0x04 => decMmem .ldv slot w x
  | 0x05 => decMmem .stv slot w x
  | 0x06 => decMidx .ldvx slot w x
  | 0x07 => decMidx .stvx slot w x
  | 0x08 => decMmem .ldvb slot w x
  | 0x09 => decMidx .ldvs slot w x
  | 0x10 => decMmem .ldg slot w x
  | 0x11 => decMmem .ldgn slot w x
  | 0x12 => decMmem .stg slot w x
  | 0x13 => decMmem .ldgv slot w x
  | 0x14 => decMmem .stgv slot w x
  | 0x15 => decMord .lda slot w x
  | 0x16 => decMord .stl slot w x
  | 0x20 => decMord .aadd slot w x
  | 0x21 => decMord .amin slot w x
  | 0x22 => decMord .amax slot w x
  | 0x23 => decMord .aminn slot w x
  | 0x24 => decMord .amaxn slot w x
  | 0x25 => decMord .aand slot w x
  | 0x26 => decMord .aor slot w x
  | 0x27 => decMord .axor slot w x
  | 0x28 => decMord .axchg slot w x
  | 0x29 => decMord .acas slot w x
  | 0x2A => decMord .afadd slot w x
  | 0x2C => decMidx .vaor slot w x
  | 0x2D => decMidx .vaadd slot w x
  | 0x30 => decMdrain .drain slot w x
  | 0x34 => decMmem .pref slot w x
  | 0x35 => decMmem .resid slot w x
  | 0x36 => decMmem .icpin slot w x
  | 0x37 => decMmem .icunpin slot w x
  | 0x38 => decMmem .dcwb slot w x
  | 0x39 => decMmem .dcinv slot w x
  | _ => .error .undefinedOpcode

/-- R148: the X-class opcode map (X); every other value is refused. -/
def decodeX (w : W32) (x : Option W32) : Except DecodeError Instr :=
  match (opc w).toNat with
  | 0 => decNop 8 w x
  | 0x01 => decXmul .mma w x
  | 0x02 => decXmul .mmas w x
  | 0x03 => decXmul .mconv w x
  | 0x04 => decXacc .mzero w x
  | 0x05 => decXrow .mread w x
  | 0x06 => decXrow .mwrite w x
  | 0x07 => decXtile .mstore w x
  | 0x08 => decXtile .mplane w x
  | 0x09 => decXsett .msett w x
  | 0x0A => decXnone .mfence w x
  | _ => .error .undefinedOpcode

/-- R148: the C-class opcode map (C); every other value is refused. -/
def decodeC (w : W32) (x : Option W32) : Except DecodeError Instr :=
  match (opc w).toNat with
  | 0 => decNop 9 w x
  | 0x01 => decCls .lsw w x
  | 0x02 => decCls .lsr w x
  | 0x04 => decCcopy .cpyin w x
  | 0x05 => decCcopy .cpyout w x
  | 0x06 => decCchain .cpych w x
  | 0x07 => decCcopy .cpykv w x
  | 0x08 => decCstate .cpyst w x
  | 0x09 => decCcopy .cpymsg w x
  | 0x10 => decCab .abclr w x
  | 0x11 => decCab .abwait w x
  | 0x12 => decCsem .semset w x
  | 0x13 => decCsem .semadd w x
  | 0x14 => decCsem .semrd w x
  | 0x15 => decCsemw .semwait w x
  | 0x18 => decCtwo .send w x
  | 0x19 => decCpair .recv w x
  | 0x1A => decCrecvp .recvp w x
  | 0x1B => decCone .mbstat w x
  | 0x20 => decCcoll .coll w x
  | 0x21 => decCarm .collarm w x
  | 0x22 => decCone .bwset w x
  | 0x28 => decCtwo .sopen w x
  | 0x29 => decCtwo .sclose w x
  | 0x2A => decCtwo .ssnap w x
  | 0x2B => decCtwo .sroll w x
  | 0x2C => decCtwo .sfork w x
  | 0x2D => decCtwo .sdrop w x
  | 0x2E => decCspin .spin w x
  | 0x2F => decCsqry .sqry w x
  | 0x30 => decCone .spawn w x
  | 0x31 => decCtwo .take w x
  | 0x32 => decCpair .steal w x
  | 0x33 => decCone .join w x
  | 0x38 => decCtwo .domset w x
  | _ => .error .undefinedOpcode

/-- R148: the K-class opcode map (K); every other value is refused. -/
def decodeK (w : W32) (x : Option W32) : Except DecodeError Instr :=
  match (opc w).toNat with
  | 0 => decNop 10 w x
  | 0x01 => decKsrc .kseta w x
  | 0x02 => decKsrc .ksetb w x
  | 0x03 => decKfill .kfill w x
  | 0x04 => decKnone .kclr w x
  | _ => .error .undefinedOpcode

/-- R148: the B-class opcode map (B); every other value is refused. -/
def decodeB (w : W32) (x : Option W32) : Except DecodeError Instr :=
  match (opc w).toNat with
  | 0 => decNop 11 w x
  | 0x01 => decBoff .br w x
  | 0x02 => decBoff .bra w x
  | 0x03 => decBoff .brf w x
  | 0x04 => decBoff .bl w x
  | 0x05 => decBreg .jr w x
  | 0x06 => decBreg .jrl w x
  | 0x07 => decBnone .ret w x
  | 0x08 => decBloop .bloopw w x
  | 0x09 => decBloop .bloope w x
  | 0x10 => decBlev .bar w x
  | 0x11 => decBlev .bara w x
  | 0x12 => decBlev .barw w x
  | 0x14 => decBreg .yield w x
  | 0x15 => decBnone .endt w x
  | 0x16 => decBnone .halt w x
  | 0x18 => decBcode .trap w x
  | 0x19 => decBcode .bkpt w x
  | 0x1A => decBnone .eret w x
  | 0x1B => decBnone .wfe w x
  | 0x1C => decBreg .prio w x
  | _ => .error .undefinedOpcode

/-- The decoder of one slot, by its PRESENT bit number and the header's cluster bits (R137, R142). -/
def decodeSlot (slot : Nat) (v2cl fcl : Bool) (w : W32) (x : Option W32) : Except DecodeError Instr :=
  match slot with
  | 0 => decodeS .s0 w x
  | 1 => decodeS .s1 w x
  | 2 => decodeV .v0 w x
  | 3 => decodeV .v1 w x
  | 4 => decodeV (if v2cl then .v2e else .v2w) w x
  | 5 => decodeF (if fcl then .east else .west) w x
  | 6 => decodeM .m0 w x
  | 7 => decodeM .m1 w x
  | 8 => decodeX w x
  | 9 => decodeC w x
  | 10 => decodeK w x
  | _ => decodeB w x

/-- The bundle header's fields (R142). -/
structure Header where
  top : Bool
  fcl : Bool
  v2cl : Bool
  count : BitVec 5
  ext : BitVec 12
  present : BitVec 12
deriving DecidableEq, Repr

def Header.ofWord (w : W32) : Header :=
  ⟨w.getLsbD 31, w.getLsbD 30, w.getLsbD 29, fld w 24 5, fld w 12 12, fld w 0 12⟩

/-- R142, R158: the header conditions. -/
def Header.ok (h : Header) : Bool :=
  !h.top && h.count.toNat == 1 + popCount 12 h.present.toNat + popCount 12 h.ext.toNat
    && h.ext &&& ~~~h.present == 0
    && (!h.v2cl || h.present.getLsbD 4) && (!h.fcl || h.present.getLsbD 5)

/-- A syllable as it stands in a bundle: its slot, its word and its extension word (R143). -/
structure RawSyl where
  slot : Nat
  word : W32
  ext : Option W32
deriving DecidableEq, Repr

/-- R143: the words after the header, dealt to the present slots in slot order. -/
def splitSyls (h : Header) : List Nat → List W32 → List RawSyl
  | [], _ => []
  | k :: ks, ws =>
    if h.present.getLsbD k then
      match ws with
      | [] => []
      | w :: rest =>
        if h.ext.getLsbD k then
          match rest with
          | [] => [⟨k, w, none⟩]
          | e :: rest' => ⟨k, w, some e⟩ :: splitSyls h ks rest'
        else ⟨k, w, none⟩ :: splitSyls h ks rest
    else splitSyls h ks ws

/-- R158: whether a raw syllable's opcode is a vector M opcode. -/
def vectorM (op : Nat) : Bool :=
  (4 ≤ op && op ≤ 9) || op == 0x13 || op == 0x14 || op == 0x2C || op == 0x2D

/-- R158: width code 11 in a V or F syllable other than a NOP, or in a vector M syllable. -/
def badWidthCode (r : RawSyl) : Bool :=
  let op := (opc r.word).toNat
  if 2 ≤ r.slot && r.slot ≤ 5 then op != 0 && fld r.word 3 2 == 3
  else if r.slot == 6 || r.slot == 7 then vectorM op && fld r.word 5 2 == 3
  else false

/-- R154: the width a V0, V1 or V2 syllable counts; NOP syllables count nothing. -/
def vWidthOf (r : RawSyl) : Nat :=
  if 2 ≤ r.slot && r.slot ≤ 4 && (opc r.word).toNat != 0 then 256 * 2 ^ (fld r.word 3 2).toNat else 0

/-- R153: integer-divider and FP-divider opcodes of the S class. -/
def usesDivider (r : RawSyl) : Bool := 6 ≤ (opc r.word).toNat && (opc r.word).toNat ≤ 9
def usesFpDivider (r : RawSyl) : Bool := (opc r.word).toNat == 0x34 || (opc r.word).toNat == 0x35

/-- R153, R154, R158: the ILLEGAL_BUNDLE conditions beyond the header. -/
def bundleShapeOk (rs : List RawSyl) : Bool :=
  let ss := rs.filter (fun r => r.slot ≤ 1)
  rs.all (fun r => !badWidthCode r)
    && (rs.map vWidthOf).sum ≤ 2048
    && (ss.filter usesDivider).length ≤ 1 && (ss.filter usesFpDivider).length ≤ 1

/-- What decoding a bundle's words gives (R158): an illegal bundle, the slots that are illegal operations, or the
syllables in slot order. -/
inductive BundleDecode where
  | illegalBundle
  | illegalOp (slots : BitVec 12)
  | ok (syls : List Instr)
deriving DecidableEq, Repr

/-- The decoded syllables, or the mask of the slots that refuse. -/
def decodeAll (h : Header) : List RawSyl → Except (BitVec 12) (List Instr)
  | [] => .ok []
  | r :: rs =>
    match decodeSlot r.slot h.v2cl h.fcl r.word r.ext, decodeAll h rs with
    | .ok i, .ok is => .ok (i :: is)
    | .ok _, .error m => .error m
    | .error _, .ok _ => .error (BitVec.ofNat 12 (2 ^ r.slot))
    | .error _, .error m => .error (BitVec.ofNat 12 (2 ^ r.slot) ||| m)

/-- R142 to R148, R158: the decoder of a whole bundle, given its header word and the words after it. -/
def decodeBundle (hw : W32) (ws : List W32) : BundleDecode :=
  let h := Header.ofWord hw
  if !h.ok then .illegalBundle
  else
    let rs := splitSyls h (List.range 12) ws
    if !bundleShapeOk rs then .illegalBundle
    else
      match decodeAll h rs with
      | .ok is => .ok is
      | .error m => .illegalOp m

/-- The first decoder of a list that takes the word. -/
def firstOk : List (Except DecodeError Instr) → Option Instr
  | [] => none
  | .ok i :: _ => some i
  | .error _ :: rest => firstOk rest

/-- One class's reading of a bare syllable word: without an extension word, or, where one is required, with zero. -/
def tryBare (d : Option W32 → Except DecodeError Instr) : List (Except DecodeError Instr) := [d none, d (some 0)]

/-- The classes' readings of a bare word in class order; the same opcode value belongs to several classes (R148),
and only the slot tells them apart. -/
def bareReadings (w : W32) : List (Except DecodeError Instr) :=
  tryBare (decodeS .s0 w) ++ tryBare (decodeV .v0 w) ++ tryBare (decodeF .west w) ++ tryBare (decodeM .m0 w)
    ++ tryBare (decodeX w) ++ tryBare (decodeC w) ++ tryBare (decodeK w) ++ tryBare (decodeB w)

/-- The instruction this decoder reads from a bare syllable word (the opcode table gives no slot): the first class,
in the order S, V, F, M, X, C, K, B, whose decoder takes it. -/
def decodeTableWord (nbits w : Nat) : Option Instr :=
  if nbits = 32 then firstOk (bareReadings (BitVec.ofNat 32 w)) else none

/-- R317: the fields of a bytecode instruction's first word. -/
def BcWord.ofWords (w : W64) (attrs : List W64) : BcWord :=
  ⟨w.extractLsb' 48 16, w.extractLsb' 32 16, w.extractLsb' 16 16, w.getLsbD 14, w.getLsbD 13, w.getLsbD 12, attrs⟩

/-- R318, R319: the operator of an opcode and its fixed word count. -/
def bcOperator (op : Nat) : Option (Nat × Instr) :=
  match op with
  | 0x00 => some (1, .bytecodeNop)
  | 0x01 => some (1, .endOp)
  | 0x02 => some (2, .dim)
  | 0x03 => some (2, .view)
  | 0x04 => some (1, .alloc)
  | 0x05 => some (1, .free)
  | 0x06 => some (2, .loop)
  | 0x07 => some (1, .endloop)
  | 0x08 => some (2, .brz)
  | 0x09 => some (2, .brnz)
  | 0x0A => some (2, .call)
  | 0x0B => some (1, .bytecodeRet)
  | 0x0C => some (2, .fuse)
  | 0x0D => some (2, .shard)
  | 0x0E => some (1, .sync)
  | 0x20 => some (2, .matmul)
  | 0x21 => some (2, .bmatmul)
  | 0x22 => some (3, .conv)
  | 0x23 => some (2, .ewise)
  | 0x24 => some (2, .reduce)
  | 0x25 => some (1, .softmax)
  | 0x26 => some (3, .norm)
  | 0x27 => some (2, .gather)
  | 0x28 => some (2, .scatter)
  | 0x29 => some (2, .permute)
  | 0x2A => some (2, .concat)
  | 0x2B => some (2, .convert)
  | 0x2C => some (3, .quant)
  | 0x2D => some (4, .attend)
  | 0x2E => some (3, .kvappend)
  | 0x2F => some (3, .scan)
  | 0x30 => some (2, .stateop)
  | 0x31 => some (2, .route)
  | 0x32 => some (3, .dispatch)
  | 0x33 => some (2, .combine)
  | 0x34 => some (2, .collective)
  | 0x35 => some (1, .copy)
  | 0x36 => some (4, .kcall)
  | _ => none

/-- R317: one bytecode instruction and the words after it; a customer opcode, an undefined opcode, a wrong word
count, a reserved bit or a missing word is refused. -/
def decodeBytecode : List W64 → Option (Instr × BcWord × List W64)
  | [] => none
  | w :: rest =>
    match bcOperator (w.extractLsb' 0 8).toNat with
    | none => none
    | some (n, mk) =>
      if (w.extractLsb' 8 4).toNat = n ∧ w.getLsbD 15 = false ∧ n - 1 ≤ rest.length then
        some (mk, BcWord.ofWords w (rest.take (n - 1)), rest.drop (n - 1))
      else none

/-- R325: the recipe word's operation. -/
def decodeRecipe (w : W64) : Option Instr :=
  match (w.extractLsb' 60 4).toNat with
  | 0 => some .loopr
  | 1 => some .tile
  | 2 => some .bind
  | 3 => some .emit
  | 4 => some .waith
  | 5 => some .sigh
  | 6 => some .allocr
  | 7 => some .freer
  | 8 => some .collr
  | 9 => some .endr
  | _ => none

/-- A guard's seven bits with the opcode before them: gn in [24], guard in [23:19] (R144). -/
def encHead (op : Nat) (g : Guard) : BitVec 13 :=
  (BitVec.ofNat 7 op ++ BitVec.ofBool g.neg ++ g.p : BitVec (7 + 1 + 5))
def encVHead (op : Nat) (g : VGuard) : BitVec 12 :=
  (BitVec.ofNat 7 op ++ BitVec.ofBool g.neg ++ g.p : BitVec (7 + 1 + 4))

/-- S syllable (R144). -/
def wordS (op : Nat) (g : Guard) (d a b : BitVec 6) (i : Bool) : W32 :=
  (encHead op g ++ d ++ a ++ b ++ BitVec.ofBool i : BitVec (13 + 6 + 6 + 6 + 1))
/-- V or F syllable (R144). -/
def wordV (op : Nat) (g : VGuard) (d a b : BitVec 5) (w : BitVec 2) (t : BitVec 3) : W32 :=
  (encVHead op g ++ d ++ a ++ b ++ w ++ t : BitVec (12 + 5 + 5 + 5 + 2 + 3))
/-- M syllable (R144). -/
def wordM (op : Nat) (g : Guard) (d b : BitVec 6) (w : BitVec 2) (o : BitVec 5) : W32 :=
  (encHead op g ++ d ++ b ++ w ++ o : BitVec (13 + 6 + 6 + 2 + 5))
/-- C syllable (R144). -/
def wordC (op : Nat) (g : Guard) (a b : BitVec 6) (l : BitVec 3) (o s : BitVec 2) : W32 :=
  (encHead op g ++ a ++ b ++ l ++ o ++ s : BitVec (13 + 6 + 6 + 3 + 2 + 2))
/-- X, K or B syllable: 19 bits after the guard (R144). -/
def wordB (op : Nat) (g : Guard) (low : BitVec 19) : W32 := (encHead op g ++ low : BitVec (13 + 19))

/-- The field [6:1], the bit [0] and the extension word of op2 (R253). -/
def Op2.fields : Op2 → BitVec 6 × Bool × Option W32
  | .reg b => (b, false, none)
  | .imm b => (b, true, none)
  | .ext e => (0, true, some e)
def FOp2.fields : FOp2 → BitVec 6 × Option W32
  | .reg b => (b, none)
  | .ext e => (0, some e)
def VOp.fields : VOp → BitVec 5 × Option W32
  | .reg b => (b, none)
  | .imm e => (0, some e)
def MOff.fields : MOff → BitVec 5 × Option W32
  | .short o => (o, none)
  | .ext e => (0, some e)
def VW.code : VW → BitVec 2
  | .w256 => 0
  | .w512 => 1
  | .w1024 => 2
def VT.code : VT → BitVec 3
  | .i8 => 0
  | .i16 => 1
  | .i32 => 2
  | .bf16 => 3
  | .f16 => 4
  | .f32 => 5
  | .e4m3 => 6
  | .e5m2 => 7

/-- A predicate number in a 6-bit field whose top bit is zero (R253). -/
def pfield (p : BitVec 5) : BitVec 6 := (0#1 ++ p : BitVec (1 + 5))

def encSbin (op : Nat) (f : SBin) : W32 × Option W32 :=
  (wordS op f.g f.d f.a f.op2.fields.1 f.op2.fields.2.1, f.op2.fields.2.2)
def encSun (op : Nat) (f : SUn) : W32 × Option W32 := (wordS op f.g f.d f.a 0 false, none)
def encSmov (op : Nat) (f : SMov) : W32 × Option W32 :=
  (wordS op f.g f.d 0 f.op2.fields.1 f.op2.fields.2.1, f.op2.fields.2.2)
def encScmp (op : Nat) (f : SCmp) : W32 × Option W32 :=
  (wordS op f.g (pfield f.p) f.a f.op2.fields.1 f.op2.fields.2.1, f.op2.fields.2.2)
def encSpred (op : Nat) (f : SPred) : W32 × Option W32 :=
  (wordS op f.g (pfield f.p) (pfield f.a) (pfield f.b) false, none)
def encSpget (op : Nat) (f : SPget) : W32 × Option W32 :=
  (wordS op f.g f.d (pfield f.a) (0#5 ++ BitVec.ofBool f.h : BitVec (5 + 1)) true, none)
def encSpset (op : Nat) (f : SPset) : W32 × Option W32 := (wordS op f.g (pfield f.p) f.a f.b false, none)
def encSfbin (op : Nat) (f : SFBin) : W32 × Option W32 :=
  (wordS op f.g f.d f.a f.op2.fields.1 f.dbl, f.op2.fields.2)
def encSfun (op : Nat) (f : SFUn) : W32 × Option W32 := (wordS op f.g f.d f.a 0 f.dbl, none)
def encSfcmp (op : Nat) (f : SFCmp) : W32 × Option W32 :=
  (wordS op f.g (pfield f.p) f.a f.op2.fields.1 f.dbl, f.op2.fields.2)
def encSfconv (op : Nat) (f : SFConv) : W32 × Option W32 :=
  (wordS op f.g f.d f.a (0#5 ++ BitVec.ofBool f.u : BitVec (5 + 1)) f.dbl, none)
/-- MFS and MTS: the index occupies bits [12:1] (R253). -/
def wordX12 (op : Nat) (g : Guard) (d : BitVec 6) (x : BitVec 12) : W32 :=
  (encHead op g ++ d ++ x ++ 0#1 : BitVec (13 + 6 + 12 + 1))
def encSmfs (op : Nat) (f : SMfs) : W32 × Option W32 := (wordX12 op f.g f.d f.x, none)
def encSmts (op : Nat) (f : SMts) : W32 × Option W32 := (wordX12 op f.g f.s f.x, none)
def encSprobe (op : Nat) (f : SProbe) : W32 × Option W32 :=
  (wordS op f.g f.d f.a (0#4 ++ f.k : BitVec (4 + 2)) true, none)

def encVbin (op : Nat) (f : VBin) : W32 × Option W32 :=
  (wordV op f.g f.d f.a f.b.fields.1 f.w.code f.t.code, f.b.fields.2)
def encVun (op : Nat) (f : VUn) : W32 × Option W32 := (wordV op f.g f.d f.a 0 f.w.code f.t.code, none)
def encVcmp (op : Nat) (f : VCmp) : W32 × Option W32 :=
  (wordV op f.g (0#1 ++ f.p : BitVec (1 + 4)) f.a f.b.fields.1 f.w.code f.t.code, f.b.fields.2)
def encVter (op : Nat) (f : VTer) : W32 × Option W32 := (wordV op f.g f.d f.a f.b f.w.code f.t.code, none)
def encVdot (op : Nat) (f : VDot) : W32 × Option W32 := (wordV op f.g f.d f.a f.b f.w.code 0, none)
def encVmov (op : Nat) (f : VMov) : W32 × Option W32 :=
  (wordV op f.g f.d f.src.fields.1 0 f.w.code f.t.code, f.src.fields.2)
def encVbcast (op : Nat) (f : VBcast) : W32 × Option W32 :=
  (wordV op f.g f.d 0 0 f.w.code f.t.code, some (0#26 ++ f.x : BitVec (26 + 6)))
def encViota (op : Nat) (f : VIota) : W32 × Option W32 := (wordV op f.g f.d 0 0 f.w.code f.t.code, f.imm)
def encVslide (op : Nat) (f : VSlide) : W32 × Option W32 :=
  (wordV op f.g f.d f.a f.b f.w.code f.t.code, some (0#24 ++ f.k : BitVec (24 + 8)))
def encVzip (op : Nat) (f : VZip) : W32 × Option W32 :=
  (wordV op f.g f.d f.a f.b f.w.code f.t.code, f.h.map fun h => (0#31 ++ BitVec.ofBool h : BitVec (31 + 1)))
def encVextract (op : Nat) (f : VExtract) : W32 × Option W32 :=
  (wordV op f.g 0 f.a 0 f.w.code f.t.code,
    some (0#16 ++ f.n ++ 0#1 ++ BitVec.ofBool f.u ++ f.x : BitVec (16 + 8 + 1 + 1 + 6)))
def encVcvt (op : Nat) (f : VCvt) : W32 × Option W32 :=
  (wordV op f.g f.d f.a 0 f.w.code f.t.code,
    some (0#27 ++ BitVec.ofBool f.u ++ 0#1 ++ f.st.code : BitVec (27 + 1 + 1 + 3)))
def encVcvtq (op : Nat) (f : VCvtq) : W32 × Option W32 :=
  (wordV op f.g f.d f.a f.b f.w.code f.t.code, some (0#27 ++ BitVec.ofBool f.bf ++ f.q : BitVec (27 + 1 + 4)))
def encFun (op : Nat) (f : FUn) : W32 × Option W32 := (wordV op f.g f.d f.a 0 f.w.code f.t.code, none)

/-- The ordering extension word (R146). -/
def extOrd (ord : BitVec 2) (sc : BitVec 3) (reg : BitVec 6) : W32 := (0#21 ++ ord ++ sc ++ reg : BitVec (21 + 2 + 3 + 6))
def encMmem (op : Nat) (f : MMem) : W32 × Option W32 :=
  (wordM op f.g f.d f.base f.w f.off.fields.1, f.off.fields.2)
def encMidx (op : Nat) (f : MIdx) : W32 × Option W32 :=
  (wordM op f.g f.d f.base f.w (0#3 ++ f.e : BitVec (3 + 2)), some (extOrd f.ord f.sc f.reg))
def encMord (op : Nat) (f : MOrd) : W32 × Option W32 :=
  (wordM op f.g f.d f.base f.w f.off, some (extOrd f.ord f.sc f.reg))
def encMdrain (op : Nat) (f : MDrain) : W32 × Option W32 := (wordB op f.g 0, some (extOrd 0 f.sc 0))

def encXmul (op : Nat) (f : XMul) : W32 × Option W32 :=
  (wordB op f.g (f.ta ++ f.tb ++ BitVec.ofBool f.acc ++ f.budget ++ BitVec.ofBool f.zero ++ BitVec.ofBool f.conv ++ 0#1
    ++ BitVec.ofBool f.int ++ 0#4 : BitVec (3 + 3 + 1 + 4 + 1 + 1 + 1 + 1 + 4)), none)
def encXacc (op : Nat) (f : XAcc) : W32 × Option W32 :=
  (wordB op f.g (0#6 ++ BitVec.ofBool f.acc ++ 0#12 : BitVec (6 + 1 + 12)), none)
def encXrow (op : Nat) (f : XRow) : W32 × Option W32 :=
  (wordB op f.g (f.v ++ 0#2 ++ BitVec.ofBool f.acc ++ f.row ++ 0#5 : BitVec (4 + 2 + 1 + 7 + 5)), none)
def encXtile (op : Nat) (f : XTile) : W32 × Option W32 := (wordB op f.g (f.t ++ 0#16 : BitVec (3 + 16)), none)
def encXsett (op : Nat) (f : XSett) : W32 × Option W32 :=
  (wordB op f.g (f.t ++ 0#3 ++ f.s ++ 0#7 : BitVec (3 + 3 + 6 + 7)), none)
def encXnone (op : Nat) (f : XNone) : W32 × Option W32 := (wordB op f.g 0, none)
def encKsrc (op : Nat) (f : KSrc) : W32 × Option W32 := (wordB op f.g (f.v ++ 0#13 : BitVec (6 + 13)), none)
def encKfill (op : Nat) (f : KFill) : W32 × Option W32 :=
  (wordB op f.g (f.s ++ BitVec.ofBool f.kb ++ 0#12 : BitVec (6 + 1 + 12)), none)
def encKnone (op : Nat) (f : KNone) : W32 × Option W32 := (wordB op f.g 0, none)

def encCls (op : Nat) (f : CLs) : W32 × Option W32 :=
  (wordC op f.g f.r (0#2 ++ f.f : BitVec (2 + 4)) f.l 0 0, none)
def encCcopy (op : Nat) (f : CCopy) : W32 × Option W32 := (wordC op f.g f.a f.b f.l f.ord f.sc, some f.ext)
def encCchain (op : Nat) (f : CChain) : W32 × Option W32 := (wordC op f.g f.a 0 f.l 0 0, some f.ext)
def encCstate (op : Nat) (f : CState) : W32 × Option W32 :=
  (wordC op f.g (f.p ++ 0#1 : BitVec (5 + 1)) f.b f.l 0 0, some f.ext)
def encCab (op : Nat) (f : CAb) : W32 × Option W32 := (wordC op f.g f.a (0#2 ++ f.n : BitVec (2 + 4)) 0 0 0, none)
def encCsem (op : Nat) (f : CSem) : W32 × Option W32 :=
  (wordC op f.g f.a 0 0 0 0, some (0#24 ++ f.m : BitVec (24 + 8)))
def encCsemw (op : Nat) (f : CSemw) : W32 × Option W32 :=
  (wordC op f.g f.a 0 0 0 0, some (0#23 ++ BitVec.ofBool f.take ++ f.m : BitVec (23 + 1 + 8)))
def encCtwo (op : Nat) (f : CTwo) : W32 × Option W32 := (wordC op f.g f.a f.b 0 0 0, none)
def encCpair (op : Nat) (f : CPair) : W32 × Option W32 :=
  (wordC op f.g f.d (f.p ++ 0#1 : BitVec (5 + 1)) 0 0 0, none)
def encCrecvp (op : Nat) (f : CRecvp) : W32 × Option W32 :=
  (wordC op f.g f.a f.b 0 0 0, some (f.inc ++ f.sem ++ 0#16 : BitVec (8 + 8 + 16)))
def encCone (op : Nat) (f : COne) : W32 × Option W32 := (wordC op f.g f.a 0 0 0 0, none)
def encCcoll (op : Nat) (f : CColl) : W32 × Option W32 := (wordC op f.g f.a 0 0 f.ord f.sc, some f.ext)
def encCarm (op : Nat) (f : CArm) : W32 × Option W32 := (wordC op f.g f.a f.b 0 f.ord f.sc, some f.ext)
def encCspin (op : Nat) (f : CSpin) : W32 × Option W32 :=
  (wordC op f.g f.d f.b 0 0 0, some (0#31 ++ BitVec.ofBool f.pin : BitVec (31 + 1)))
def encCsqry (op : Nat) (f : CSqry) : W32 × Option W32 :=
  (wordC op f.g f.d f.b 0 0 0, some (0#28 ++ f.k : BitVec (28 + 4)))

def encBoff (op : Nat) (f : BOff) : W32 × Option W32 := (wordB op f.g f.off, none)
def encBreg (op : Nat) (f : BReg) : W32 × Option W32 := (wordB op f.g (f.r ++ 0#13 : BitVec (6 + 13)), none)
def encBnone (op : Nat) (f : BNone) : W32 × Option W32 := (wordB op f.g 0, none)
def encBloop (op : Nat) (f : BLoop) : W32 × Option W32 := (wordB op ⟨false, 0⟩ f.off, none)
def encBlev (op : Nat) (f : BLev) : W32 × Option W32 := (wordB op f.g (f.l ++ 0#16 : BitVec (3 + 16)), none)
def encBcode (op : Nat) (f : BCode) : W32 × Option W32 := (wordB op f.g (0#3 ++ f.c : BitVec (3 + 16)), none)

/-- The syllable word and extension word of an instruction that has an encoding (R144 to R148, R165, R188, R233, R253, R261). -/
def encode : Instr → Option (W32 × Option W32)
  | .nop _ => some (0, none)
  | .add f => some (encSbin 0x01 f)
  | .sub f => some (encSbin 0x02 f)
  | .mul f => some (encSbin 0x03 f)
  | .mulh f => some (encSbin 0x04 f)
  | .mulhn f => some (encSbin 0x05 f)
  | .div f => some (encSbin 0x06 f)
  | .divn f => some (encSbin 0x07 f)
  | .rem f => some (encSbin 0x08 f)
  | .remn f => some (encSbin 0x09 f)
  | .and f => some (encSbin 0x0A f)
  | .or f => some (encSbin 0x0B f)
  | .xor f => some (encSbin 0x0C f)
  | .andn f => some (encSbin 0x0D f)
  | .shl f => some (encSbin 0x0E f)
  | .shr f => some (encSbin 0x0F f)
  | .sra f => some (encSbin 0x10 f)
  | .rol f => some (encSbin 0x11 f)
  | .min f => some (encSbin 0x12 f)
  | .max f => some (encSbin 0x13 f)
  | .minn f => some (encSbin 0x14 f)
  | .maxn f => some (encSbin 0x15 f)
  | .clz f => some (encSun 0x16 f)
  | .ctz f => some (encSun 0x17 f)
  | .popc f => some (encSun 0x18 f)
  | .mov f => some (encSmov 0x19 f)
  | .movh f => some (encSbin 0x1A f)
  | .sext f => some (encSbin 0x1B f)
  | .zext f => some (encSbin 0x1C f)
  | .shadd1 f => some (encSbin 0x1D f)
  | .shadd2 f => some (encSbin 0x1E f)
  | .shadd3 f => some (encSbin 0x1F f)
  | .cmpeq f => some (encScmp 0x20 f)
  | .cmpne f => some (encScmp 0x21 f)
  | .cmplt f => some (encScmp 0x22 f)
  | .cmple f => some (encScmp 0x23 f)
  | .cmpltn f => some (encScmp 0x24 f)
  | .cmplen f => some (encScmp 0x25 f)
  | .pand f => some (encSpred 0x26 f)
  | .por f => some (encSpred 0x27 f)
  | .pxor f => some (encSpred 0x28 f)
  | .pandn f => some (encSpred 0x29 f)
  | .pget f => some (encSpget 0x2A f)
  | .pset f => some (encSpset 0x2B f)
  | .pall f => some (encSpred 0x2C f)
  | .fadd f => some (encSfbin 0x30 f)
  | .fsub f => some (encSfbin 0x31 f)
  | .fmul f => some (encSfbin 0x32 f)
  | .fma f => some (encSfbin 0x33 f)
  | .fdiv f => some (encSfbin 0x34 f)
  | .fsqrt f => some (encSfun 0x35 f)
  | .fmin f => some (encSfbin 0x36 f)
  | .fmax f => some (encSfbin 0x37 f)
  | .fcmpeq f => some (encSfcmp 0x38 f)
  | .fcmplt f => some (encSfcmp 0x39 f)
  | .fcmple f => some (encSfcmp 0x3A f)
  | .fcmpun f => some (encSfcmp 0x3B f)
  | .ftoi f => some (encSfconv 0x3C f)
  | .itof f => some (encSfconv 0x3D f)
  | .fcvt f => some (encSfun 0x3E f)
  | .fclass f => some (encSfun 0x3F f)
  | .mfs f => some (encSmfs 0x40 f)
  | .mts f => some (encSmts 0x41 f)
  | .probe f => some (encSprobe 0x42 f)
  | .vadd f => some (encVbin 0x01 f)
  | .vsub f => some (encVbin 0x02 f)
  | .vmul f => some (encVbin 0x03 f)
  | .vfma f => some (encVbin 0x04 f)
  | .vfms f => some (encVbin 0x05 f)
  | .vmin f => some (encVbin 0x06 f)
  | .vmax f => some (encVbin 0x07 f)
  | .vminn f => some (encVbin 0x08 f)
  | .vmaxn f => some (encVbin 0x09 f)
  | .vabs f => some (encVun 0x0A f)
  | .vneg f => some (encVun 0x0B f)
  | .vmulh f => some (encVbin 0x0C f)
  | .vmulhn f => some (encVbin 0x0D f)
  | .vsadd f => some (encVbin 0x0E f)
  | .vssub f => some (encVbin 0x0F f)
  | .vand f => some (encVbin 0x10 f)
  | .vor f => some (encVbin 0x11 f)
  | .vxor f => some (encVbin 0x12 f)
  | .vandn f => some (encVbin 0x13 f)
  | .vnot f => some (encVun 0x14 f)
  | .vshl f => some (encVbin 0x15 f)
  | .vshr f => some (encVbin 0x16 f)
  | .vsra f => some (encVbin 0x17 f)
  | .vclz f => some (encVun 0x18 f)
  | .vpopc f => some (encVun 0x19 f)
  | .vcmpeq f => some (encVcmp 0x1A f)
  | .vcmpne f => some (encVcmp 0x1B f)
  | .vcmplt f => some (encVcmp 0x1C f)
  | .vcmple f => some (encVcmp 0x1D f)
  | .vcmpltn f => some (encVcmp 0x1E f)
  | .vcmplen f => some (encVcmp 0x1F f)
  | .vcmpun f => some (encVcmp 0x20 f)
  | .vsel f => some (encVter 0x21 f)
  | .vmov f => some (encVmov 0x22 f)
  | .vbcast f => some (encVbcast 0x23 f)
  | .vxmov f => some (encVun 0x24 f)
  | .vperm f => some (encVter 0x25 f)
  | .vperm2 f => some (encVter 0x26 f)
  | .vslideup f => some (encVslide 0x27 f)
  | .vslidedn f => some (encVslide 0x28 f)
  | .vzip f => some (encVzip 0x29 f)
  | .vunzip f => some (encVzip 0x2A f)
  | .viota f => some (encViota 0x2B f)
  | .vcompress f => some (encVun 0x2C f)
  | .vexpand f => some (encVun 0x2D f)
  | .vextract f => some (encVextract 0x2E f)
  | .vredadd f => some (encVun 0x30 f)
  | .vredmax f => some (encVun 0x31 f)
  | .vredmin f => some (encVun 0x32 f)
  | .vscan f => some (encVun 0x33 f)
  | .vargmax f => some (encVun 0x34 f)
  | .vargmin f => some (encVun 0x35 f)
  | .vcvt f => some (encVcvt 0x38 f)
  | .vcvtq f => some (encVcvtq 0x39 f)
  | .vpack4 f => some (encVun 0x3A f)
  | .vunpack4 f => some (encVun 0x3B f)
  | .vscale f => some (encVter 0x3C f)
  | .vplane f => some (encVun 0x3E f)
  | .vunplane f => some (encVun 0x3F f)
  | .vdot4 f => some (encVdot 0x40 f)
  | .vexp2 f => some (encFun 0x01 f)
  | .vexp f => some (encFun 0x02 f)
  | .vlog2 f => some (encFun 0x03 f)
  | .vln f => some (encFun 0x04 f)
  | .vrcp f => some (encFun 0x05 f)
  | .vrsq f => some (encFun 0x06 f)
  | .vsqrt f => some (encFun 0x07 f)
  | .vtanh f => some (encFun 0x08 f)
  | .vsigm f => some (encFun 0x09 f)
  | .vsin f => some (encFun 0x0A f)
  | .vcos f => some (encFun 0x0B f)
  | .verf f => some (encFun 0x0C f)
  | .vgelu f => some (encFun 0x0D f)
  | .lds f => some (encMmem 0x01 f)
  | .ldsn f => some (encMmem 0x02 f)
  | .sts f => some (encMmem 0x03 f)
  | .ldv f => some (encMmem 0x04 f)
  | .stv f => some (encMmem 0x05 f)
  | .ldvx f => some (encMidx 0x06 f)
  | .stvx f => some (encMidx 0x07 f)
  | .ldvb f => some (encMmem 0x08 f)
  | .ldvs f => some (encMidx 0x09 f)
  | .ldg f => some (encMmem 0x10 f)
  | .ldgn f => some (encMmem 0x11 f)
  | .stg f => some (encMmem 0x12 f)
  | .ldgv f => some (encMmem 0x13 f)
  | .stgv f => some (encMmem 0x14 f)
  | .lda f => some (encMord 0x15 f)
  | .stl f => some (encMord 0x16 f)
  | .aadd f => some (encMord 0x20 f)
  | .amin f => some (encMord 0x21 f)
  | .amax f => some (encMord 0x22 f)
  | .aminn f => some (encMord 0x23 f)
  | .amaxn f => some (encMord 0x24 f)
  | .aand f => some (encMord 0x25 f)
  | .aor f => some (encMord 0x26 f)
  | .axor f => some (encMord 0x27 f)
  | .axchg f => some (encMord 0x28 f)
  | .acas f => some (encMord 0x29 f)
  | .afadd f => some (encMord 0x2A f)
  | .vaor f => some (encMidx 0x2C f)
  | .vaadd f => some (encMidx 0x2D f)
  | .drain f => some (encMdrain 0x30 f)
  | .pref f => some (encMmem 0x34 f)
  | .resid f => some (encMmem 0x35 f)
  | .icpin f => some (encMmem 0x36 f)
  | .icunpin f => some (encMmem 0x37 f)
  | .dcwb f => some (encMmem 0x38 f)
  | .dcinv f => some (encMmem 0x39 f)
  | .mma f => some (encXmul 0x01 f)
  | .mmas f => some (encXmul 0x02 f)
  | .mconv f => some (encXmul 0x03 f)
  | .mzero f => some (encXacc 0x04 f)
  | .mread f => some (encXrow 0x05 f)
  | .mwrite f => some (encXrow 0x06 f)
  | .mstore f => some (encXtile 0x07 f)
  | .mplane f => some (encXtile 0x08 f)
  | .msett f => some (encXsett 0x09 f)
  | .mfence f => some (encXnone 0x0A f)
  | .lsw f => some (encCls 0x01 f)
  | .lsr f => some (encCls 0x02 f)
  | .cpyin f => some (encCcopy 0x04 f)
  | .cpyout f => some (encCcopy 0x05 f)
  | .cpych f => some (encCchain 0x06 f)
  | .cpykv f => some (encCcopy 0x07 f)
  | .cpyst f => some (encCstate 0x08 f)
  | .cpymsg f => some (encCcopy 0x09 f)
  | .abclr f => some (encCab 0x10 f)
  | .abwait f => some (encCab 0x11 f)
  | .semset f => some (encCsem 0x12 f)
  | .semadd f => some (encCsem 0x13 f)
  | .semrd f => some (encCsem 0x14 f)
  | .semwait f => some (encCsemw 0x15 f)
  | .send f => some (encCtwo 0x18 f)
  | .recv f => some (encCpair 0x19 f)
  | .recvp f => some (encCrecvp 0x1A f)
  | .mbstat f => some (encCone 0x1B f)
  | .coll f => some (encCcoll 0x20 f)
  | .collarm f => some (encCarm 0x21 f)
  | .bwset f => some (encCone 0x22 f)
  | .sopen f => some (encCtwo 0x28 f)
  | .sclose f => some (encCtwo 0x29 f)
  | .ssnap f => some (encCtwo 0x2A f)
  | .sroll f => some (encCtwo 0x2B f)
  | .sfork f => some (encCtwo 0x2C f)
  | .sdrop f => some (encCtwo 0x2D f)
  | .spin f => some (encCspin 0x2E f)
  | .sqry f => some (encCsqry 0x2F f)
  | .spawn f => some (encCone 0x30 f)
  | .take f => some (encCtwo 0x31 f)
  | .steal f => some (encCpair 0x32 f)
  | .join f => some (encCone 0x33 f)
  | .domset f => some (encCtwo 0x38 f)
  | .kseta f => some (encKsrc 0x01 f)
  | .ksetb f => some (encKsrc 0x02 f)
  | .kfill f => some (encKfill 0x03 f)
  | .kclr f => some (encKnone 0x04 f)
  | .br f => some (encBoff 0x01 f)
  | .bra f => some (encBoff 0x02 f)
  | .brf f => some (encBoff 0x03 f)
  | .bl f => some (encBoff 0x04 f)
  | .jr f => some (encBreg 0x05 f)
  | .jrl f => some (encBreg 0x06 f)
  | .ret f => some (encBnone 0x07 f)
  | .bloopw f => some (encBloop 0x08 f)
  | .bloope f => some (encBloop 0x09 f)
  | .bar f => some (encBlev 0x10 f)
  | .bara f => some (encBlev 0x11 f)
  | .barw f => some (encBlev 0x12 f)
  | .yield f => some (encBreg 0x14 f)
  | .endt f => some (encBnone 0x15 f)
  | .halt f => some (encBnone 0x16 f)
  | .trap f => some (encBcode 0x18 f)
  | .bkpt f => some (encBcode 0x19 f)
  | .eret f => some (encBnone 0x1A f)
  | .wfe f => some (encBnone 0x1B f)
  | .prio f => some (encBreg 0x1C f)
  | _ => none

/-- The slot an instruction's syllable stands in, by its PRESENT bit number (R142), with the FCL or V2CL header bits it needs. -/
def slotOf : Instr → Option (Nat × Bool)
  | .nop s => some (s.toNat, false)
  | .add f => some (sSlotNo f.slot, false)
  | .sub f => some (sSlotNo f.slot, false)
  | .mul f => some (sSlotNo f.slot, false)
  | .mulh f => some (sSlotNo f.slot, false)
  | .mulhn f => some (sSlotNo f.slot, false)
  | .div f => some (sSlotNo f.slot, false)
  | .divn f => some (sSlotNo f.slot, false)
  | .rem f => some (sSlotNo f.slot, false)
  | .remn f => some (sSlotNo f.slot, false)
  | .and f => some (sSlotNo f.slot, false)
  | .or f => some (sSlotNo f.slot, false)
  | .xor f => some (sSlotNo f.slot, false)
  | .andn f => some (sSlotNo f.slot, false)
  | .shl f => some (sSlotNo f.slot, false)
  | .shr f => some (sSlotNo f.slot, false)
  | .sra f => some (sSlotNo f.slot, false)
  | .rol f => some (sSlotNo f.slot, false)
  | .min f => some (sSlotNo f.slot, false)
  | .max f => some (sSlotNo f.slot, false)
  | .minn f => some (sSlotNo f.slot, false)
  | .maxn f => some (sSlotNo f.slot, false)
  | .clz f => some (sSlotNo f.slot, false)
  | .ctz f => some (sSlotNo f.slot, false)
  | .popc f => some (sSlotNo f.slot, false)
  | .mov f => some (sSlotNo f.slot, false)
  | .movh f => some (sSlotNo f.slot, false)
  | .sext f => some (sSlotNo f.slot, false)
  | .zext f => some (sSlotNo f.slot, false)
  | .shadd1 f => some (sSlotNo f.slot, false)
  | .shadd2 f => some (sSlotNo f.slot, false)
  | .shadd3 f => some (sSlotNo f.slot, false)
  | .cmpeq f => some (sSlotNo f.slot, false)
  | .cmpne f => some (sSlotNo f.slot, false)
  | .cmplt f => some (sSlotNo f.slot, false)
  | .cmple f => some (sSlotNo f.slot, false)
  | .cmpltn f => some (sSlotNo f.slot, false)
  | .cmplen f => some (sSlotNo f.slot, false)
  | .pand f => some (sSlotNo f.slot, false)
  | .por f => some (sSlotNo f.slot, false)
  | .pxor f => some (sSlotNo f.slot, false)
  | .pandn f => some (sSlotNo f.slot, false)
  | .pget f => some (sSlotNo f.slot, false)
  | .pset f => some (sSlotNo f.slot, false)
  | .pall f => some (sSlotNo f.slot, false)
  | .fadd f => some (sSlotNo f.slot, false)
  | .fsub f => some (sSlotNo f.slot, false)
  | .fmul f => some (sSlotNo f.slot, false)
  | .fma f => some (sSlotNo f.slot, false)
  | .fdiv f => some (sSlotNo f.slot, false)
  | .fsqrt f => some (sSlotNo f.slot, false)
  | .fmin f => some (sSlotNo f.slot, false)
  | .fmax f => some (sSlotNo f.slot, false)
  | .fcmpeq f => some (sSlotNo f.slot, false)
  | .fcmplt f => some (sSlotNo f.slot, false)
  | .fcmple f => some (sSlotNo f.slot, false)
  | .fcmpun f => some (sSlotNo f.slot, false)
  | .ftoi f => some (sSlotNo f.slot, false)
  | .itof f => some (sSlotNo f.slot, false)
  | .fcvt f => some (sSlotNo f.slot, false)
  | .fclass f => some (sSlotNo f.slot, false)
  | .mfs f => some (sSlotNo f.slot, false)
  | .mts f => some (sSlotNo f.slot, false)
  | .probe f => some (sSlotNo f.slot, false)
  | .vadd f => some (vSlotNo f.slot)
  | .vsub f => some (vSlotNo f.slot)
  | .vmul f => some (vSlotNo f.slot)
  | .vfma f => some (vSlotNo f.slot)
  | .vfms f => some (vSlotNo f.slot)
  | .vmin f => some (vSlotNo f.slot)
  | .vmax f => some (vSlotNo f.slot)
  | .vminn f => some (vSlotNo f.slot)
  | .vmaxn f => some (vSlotNo f.slot)
  | .vabs f => some (vSlotNo f.slot)
  | .vneg f => some (vSlotNo f.slot)
  | .vmulh f => some (vSlotNo f.slot)
  | .vmulhn f => some (vSlotNo f.slot)
  | .vsadd f => some (vSlotNo f.slot)
  | .vssub f => some (vSlotNo f.slot)
  | .vand f => some (vSlotNo f.slot)
  | .vor f => some (vSlotNo f.slot)
  | .vxor f => some (vSlotNo f.slot)
  | .vandn f => some (vSlotNo f.slot)
  | .vnot f => some (vSlotNo f.slot)
  | .vshl f => some (vSlotNo f.slot)
  | .vshr f => some (vSlotNo f.slot)
  | .vsra f => some (vSlotNo f.slot)
  | .vclz f => some (vSlotNo f.slot)
  | .vpopc f => some (vSlotNo f.slot)
  | .vcmpeq f => some (vSlotNo f.slot)
  | .vcmpne f => some (vSlotNo f.slot)
  | .vcmplt f => some (vSlotNo f.slot)
  | .vcmple f => some (vSlotNo f.slot)
  | .vcmpltn f => some (vSlotNo f.slot)
  | .vcmplen f => some (vSlotNo f.slot)
  | .vcmpun f => some (vSlotNo f.slot)
  | .vsel f => some (vSlotNo f.slot)
  | .vmov f => some (vSlotNo f.slot)
  | .vbcast f => some (vSlotNo f.slot)
  | .vxmov f => some (vSlotNo f.slot)
  | .vperm f => some (vSlotNo f.slot)
  | .vperm2 f => some (vSlotNo f.slot)
  | .vslideup f => some (vSlotNo f.slot)
  | .vslidedn f => some (vSlotNo f.slot)
  | .vzip f => some (vSlotNo f.slot)
  | .vunzip f => some (vSlotNo f.slot)
  | .viota f => some (vSlotNo f.slot)
  | .vcompress f => some (vSlotNo f.slot)
  | .vexpand f => some (vSlotNo f.slot)
  | .vextract f => some (vSlotNo f.slot)
  | .vredadd f => some (vSlotNo f.slot)
  | .vredmax f => some (vSlotNo f.slot)
  | .vredmin f => some (vSlotNo f.slot)
  | .vscan f => some (vSlotNo f.slot)
  | .vargmax f => some (vSlotNo f.slot)
  | .vargmin f => some (vSlotNo f.slot)
  | .vcvt f => some (vSlotNo f.slot)
  | .vcvtq f => some (vSlotNo f.slot)
  | .vpack4 f => some (vSlotNo f.slot)
  | .vunpack4 f => some (vSlotNo f.slot)
  | .vscale f => some (vSlotNo f.slot)
  | .vplane f => some (vSlotNo f.slot)
  | .vunplane f => some (vSlotNo f.slot)
  | .vdot4 f => some (vSlotNo f.slot)
  | .vexp2 f => some (5, decide (f.cl = .east))
  | .vexp f => some (5, decide (f.cl = .east))
  | .vlog2 f => some (5, decide (f.cl = .east))
  | .vln f => some (5, decide (f.cl = .east))
  | .vrcp f => some (5, decide (f.cl = .east))
  | .vrsq f => some (5, decide (f.cl = .east))
  | .vsqrt f => some (5, decide (f.cl = .east))
  | .vtanh f => some (5, decide (f.cl = .east))
  | .vsigm f => some (5, decide (f.cl = .east))
  | .vsin f => some (5, decide (f.cl = .east))
  | .vcos f => some (5, decide (f.cl = .east))
  | .verf f => some (5, decide (f.cl = .east))
  | .vgelu f => some (5, decide (f.cl = .east))
  | .lds f => some (mSlotNo f.slot, false)
  | .ldsn f => some (mSlotNo f.slot, false)
  | .sts f => some (mSlotNo f.slot, false)
  | .ldv f => some (mSlotNo f.slot, false)
  | .stv f => some (mSlotNo f.slot, false)
  | .ldvx f => some (mSlotNo f.slot, false)
  | .stvx f => some (mSlotNo f.slot, false)
  | .ldvb f => some (mSlotNo f.slot, false)
  | .ldvs f => some (mSlotNo f.slot, false)
  | .ldg f => some (mSlotNo f.slot, false)
  | .ldgn f => some (mSlotNo f.slot, false)
  | .stg f => some (mSlotNo f.slot, false)
  | .ldgv f => some (mSlotNo f.slot, false)
  | .stgv f => some (mSlotNo f.slot, false)
  | .lda f => some (mSlotNo f.slot, false)
  | .stl f => some (mSlotNo f.slot, false)
  | .aadd f => some (mSlotNo f.slot, false)
  | .amin f => some (mSlotNo f.slot, false)
  | .amax f => some (mSlotNo f.slot, false)
  | .aminn f => some (mSlotNo f.slot, false)
  | .amaxn f => some (mSlotNo f.slot, false)
  | .aand f => some (mSlotNo f.slot, false)
  | .aor f => some (mSlotNo f.slot, false)
  | .axor f => some (mSlotNo f.slot, false)
  | .axchg f => some (mSlotNo f.slot, false)
  | .acas f => some (mSlotNo f.slot, false)
  | .afadd f => some (mSlotNo f.slot, false)
  | .vaor f => some (mSlotNo f.slot, false)
  | .vaadd f => some (mSlotNo f.slot, false)
  | .drain f => some (mSlotNo f.slot, false)
  | .pref f => some (mSlotNo f.slot, false)
  | .resid f => some (mSlotNo f.slot, false)
  | .icpin f => some (mSlotNo f.slot, false)
  | .icunpin f => some (mSlotNo f.slot, false)
  | .dcwb f => some (mSlotNo f.slot, false)
  | .dcinv f => some (mSlotNo f.slot, false)
  | .mma _ => some (8, false)
  | .mmas _ => some (8, false)
  | .mconv _ => some (8, false)
  | .mzero _ => some (8, false)
  | .mread _ => some (8, false)
  | .mwrite _ => some (8, false)
  | .mstore _ => some (8, false)
  | .mplane _ => some (8, false)
  | .msett _ => some (8, false)
  | .mfence _ => some (8, false)
  | .lsw _ => some (9, false)
  | .lsr _ => some (9, false)
  | .cpyin _ => some (9, false)
  | .cpyout _ => some (9, false)
  | .cpych _ => some (9, false)
  | .cpykv _ => some (9, false)
  | .cpyst _ => some (9, false)
  | .cpymsg _ => some (9, false)
  | .abclr _ => some (9, false)
  | .abwait _ => some (9, false)
  | .semset _ => some (9, false)
  | .semadd _ => some (9, false)
  | .semrd _ => some (9, false)
  | .semwait _ => some (9, false)
  | .send _ => some (9, false)
  | .recv _ => some (9, false)
  | .recvp _ => some (9, false)
  | .mbstat _ => some (9, false)
  | .coll _ => some (9, false)
  | .collarm _ => some (9, false)
  | .bwset _ => some (9, false)
  | .sopen _ => some (9, false)
  | .sclose _ => some (9, false)
  | .ssnap _ => some (9, false)
  | .sroll _ => some (9, false)
  | .sfork _ => some (9, false)
  | .sdrop _ => some (9, false)
  | .spin _ => some (9, false)
  | .sqry _ => some (9, false)
  | .spawn _ => some (9, false)
  | .take _ => some (9, false)
  | .steal _ => some (9, false)
  | .join _ => some (9, false)
  | .domset _ => some (9, false)
  | .kseta _ => some (10, false)
  | .ksetb _ => some (10, false)
  | .kfill _ => some (10, false)
  | .kclr _ => some (10, false)
  | .br _ => some (11, false)
  | .bra _ => some (11, false)
  | .brf _ => some (11, false)
  | .bl _ => some (11, false)
  | .jr _ => some (11, false)
  | .jrl _ => some (11, false)
  | .ret _ => some (11, false)
  | .bloopw _ => some (11, false)
  | .bloope _ => some (11, false)
  | .bar _ => some (11, false)
  | .bara _ => some (11, false)
  | .barw _ => some (11, false)
  | .yield _ => some (11, false)
  | .endt _ => some (11, false)
  | .halt _ => some (11, false)
  | .trap _ => some (11, false)
  | .bkpt _ => some (11, false)
  | .eret _ => some (11, false)
  | .wfe _ => some (11, false)
  | .prio _ => some (11, false)
  | _ => none
/-- The words of a bundle that holds one syllable: its header, its word and its extension word (R142, R143). -/
def encodeSolo (i : Instr) : Option (List W32) :=
  match encode i, slotOf i with
  | some (w, x), some (slot, cl) =>
    let present := 2 ^ slot
    let extBit := if x.isSome then 2 ^ (12 + slot) else 0
    let count := if x.isSome then 3 else 2
    let clBit := if cl then (if slot = 5 then 2 ^ 30 else 2 ^ 29) else 0
    some (BitVec.ofNat 32 (clBit + count * 2 ^ 24 + extBit + present) :: w :: x.toList)
  | _, _ => none

end Sys2Proof
end

