-- ==== Sys2Proof/Machine/Crypto.lean ====
section
/-! DEFINITION. The ciphers, hashes and codes the spec names: AES-256 with its XTS and GMAC modes (R17, R65), SHA-384
(R376), the Reed-Solomon code of a DRAM line (R15, R16), and ECDSA on P-384 (R1, R376, R377). -/
namespace Sys2Proof.Machine

/-! ## AES-256 (FIPS 197) -/

/-- The AES substitution box, entry i in bits [8i+7:8i]. -/
def sboxTable : Nat :=
  0x16bb54b00f2d99416842e6bf0d89a18cdf2855cee9871e9b948ed9691198f8e19e1dc186b95735610ef6034866b53e708a8bbd4b1f74dde8c6b4a61c2e2578ba08ae7a65eaf4566ca94ed58d6d37c8e779e4959162acd3c25c2406490a3a32e0db0b5ede14b8ee4688902a22dc4f816073195d643d7ea7c41744975fec130ccdd2f3ff1021dab6bcf5389d928f40a351a89f3c507f02f94585334d43fbaaefd0cf584c4a39becb6a5bb1fc20ed00d153842fe329b3d63b52a05a6e1b1a2c830975b227ebe28012079a059618c323c7041531d871f1e5a534ccf73f362693fdb7c072a49cafa2d4adf04759fa7dc982ca76abd7fe2b670130c56f6bf27b777c63
/-- The inverse substitution box. -/
def invSboxTable : Nat :=
  0x7d0c2155631469e126d677ba7e042b17619953833cbbebc8b0f52aae4d3be0a0ef9cc9939f7ae52d0d4ab519a97f51605fec8027591012b131c7078833a8dd1ff45acd78fec0db9a2079d2c64b3e56fc1bbe18aa0e62b76f89c5291d711af1476edf751ce837f9e28535ade72274ac9673e6b4f0cecff297eadc674f4111913a6b8a130103bdafc1020f3fca8f1e2cd00645b3b80558e4f70ad3bc8c00abd890849d8da75746155edab9edfd5048706c92b6655dcc5ca4d41698688664f6f87225d18b6d49a25b76b224d92866a12e084ec3fa420b954cee3d23c2a632947b54cbe9dec444438e3487ff2f9b8239e37cfbd7f3819ea340bf38a53630d56a0952

def sbox (x : Nat) : Nat := sboxTable >>> (8 * (x % 256)) % 256
def invSbox (x : Nat) : Nat := invSboxTable >>> (8 * (x % 256)) % 256

/-- Doubling in the AES field. -/
def xtime (x : Nat) : Nat := if x < 128 then 2 * x else (2 * x) ^^^ 0x11B
/-- Product in the AES field, by the bits of the first factor. -/
def gmul8 : Nat → Nat → Nat → Nat
  | 0, _, _ => 0
  | k + 1, a, b => (if a % 2 = 1 then b else 0) ^^^ gmul8 k (a / 2) (xtime b)

/-- One word of the AES-256 key schedule from the eight words before it, newest first; i is its index. -/
def keyWord (i : Nat) (prev : List Nat) (rcon : Nat) : Nat :=
  let t := prev.getD 0 0
  let sub := fun x => sbox (x >>> 24) <<< 24 ||| sbox (x >>> 16 % 256) <<< 16 ||| sbox (x >>> 8 % 256) <<< 8 ||| sbox (x % 256)
  let t' :=
    if i % 8 = 0 then sub ((t <<< 8) % 2 ^ 32 ||| t >>> 24) ^^^ (rcon <<< 24)
    else if i % 8 = 4 then sub t
    else t
  prev.getD 7 0 ^^^ t'

/-- The key schedule, words newest first. -/
def keySchedule : Nat → Nat → Nat → List Nat → List Nat
  | 0, _, _, ws => ws
  | k + 1, i, rcon, ws => keySchedule k (i + 1) (if i % 8 = 0 then xtime rcon else rcon) (keyWord i ws rcon :: ws)

/-- The sixty words of a 32-byte key's schedule, oldest first. -/
def roundKeys (key : List Byte) : List Nat :=
  let w := fun i => ((key.getD (4 * i) 0).toNat <<< 24) + ((key.getD (4 * i + 1) 0).toNat <<< 16)
    + ((key.getD (4 * i + 2) 0).toNat <<< 8) + (key.getD (4 * i + 3) 0).toNat
  (keySchedule 52 8 1 ((List.range 8).map w).reverse).reverse

/-- The sixteen bytes of round key r. -/
def roundKey (ws : List Nat) (r : Nat) : List Nat :=
  ((List.range 4).map fun c => let w := ws.getD (4 * r + c) 0
    [w >>> 24, w >>> 16 % 256, w >>> 8 % 256, w % 256]).flatten

def xorList (a b : List Nat) : List Nat := List.zipWith (· ^^^ ·) a b

/-- ShiftRows on a block of sixteen bytes, column by column; back for the inverse. -/
def shiftRows (b : List Nat) (back : Bool) : List Nat :=
  (List.range 16).map fun i => b.getD ((i + (if back then 12 else 4) * (i % 4)) % 16) 0

/-- MixColumns with the coefficients of the first row. -/
def mixColumns (co : List Nat) (b : List Nat) : List Nat :=
  (List.range 16).map fun i =>
    (List.range 4).foldl (fun acc k => acc ^^^ gmul8 8 (co.getD ((k + 4 - i % 4) % 4) 0) (b.getD (4 * (i / 4) + k) 0)) 0

def aesRounds (ws : List Nat) : Nat → Nat → List Nat → List Nat
  | 0, _, b => b
  | k + 1, r, b =>
    let s := shiftRows (b.map sbox) false
    let m := if k = 0 then s else mixColumns [2, 3, 1, 1] s
    aesRounds ws k (r + 1) (xorList m (roundKey ws r))

/-- AES-256 encryption of a block of sixteen bytes under a 32-byte key. -/
def aesEncrypt (key : List Byte) (b : List Nat) : List Nat :=
  let ws := roundKeys key
  aesRounds ws 14 1 (xorList b (roundKey ws 0))

def aesInvRounds (ws : List Nat) : Nat → List Nat → List Nat
  | 0, b => b
  | k + 1, b =>
    let s := xorList ((shiftRows b true).map invSbox) (roundKey ws k)
    aesInvRounds ws k (if k = 0 then s else mixColumns [14, 11, 13, 9] s)

/-- AES-256 decryption. -/
def aesDecrypt (key : List Byte) (b : List Nat) : List Nat :=
  let ws := roundKeys key
  aesInvRounds ws 14 (xorList b (roundKey ws 14))

/-! ## GMAC (R65) -/

/-- A block as a big-endian number. -/
def blockNum (b : List Nat) : Nat := b.foldl (fun acc x => acc * 256 + x) 0

/-- Product in the GCM field of x by the remaining k bits of y, most significant first. -/
def ghashMul (y : Nat) : Nat → Nat → Nat → Nat
  | 0, _, z => z
  | k + 1, v, z =>
    let z' := if y.testBit k then z ^^^ v else z
    let v' := if v % 2 = 1 then (v >>> 1) ^^^ (0xE1 <<< 120) else v >>> 1
    ghashMul y k v' z'

/-- GHASH over blocks. -/
def ghash (h : Nat) (blocks : List Nat) : Nat := blocks.foldl (fun acc b => ghashMul (acc ^^^ b) 128 h 0) 0

/-- The blocks of sixteen bytes of a list whose length is a multiple of sixteen, with fuel. -/
def blocksOf : Nat → List Byte → List (List Nat)
  | 0, _ => []
  | k + 1, bs => if bs.isEmpty then [] else (bs.take 16).map (·.toNat) :: blocksOf k (bs.drop 16)

/-- AES-256-GMAC of whole blocks under a 96-bit iv: sixteen bytes as a big-endian number. -/
def gmac (key : List Byte) (iv : List Byte) (aad : List Byte) : Nat :=
  let h := blockNum (aesEncrypt key (List.replicate 16 0))
  let s := ghash h ((blocksOf aad.length aad).map blockNum ++ [(8 * aad.length) <<< 64])
  s ^^^ blockNum (aesEncrypt key (iv.map (·.toNat) ++ [0, 0, 0, 1]))

/-! ## XTS (R17) -/

/-- The product of an XTS tweak by alpha: sixteen bytes as a little-endian number. -/
def xtsDouble (t : Nat) : Nat := if t.testBit 127 then ((2 * t) % 2 ^ 128) ^^^ 0x87 else 2 * t

def blockLE (b : List Nat) : Nat := b.foldr (fun x acc => x + 256 * acc) 0
def blockOfLE (n : Nat) : List Nat := (List.range 16).map fun i => n >>> (8 * i) % 256

/-- The blocks of a data unit under successive tweaks. -/
def xtsBlocks (f : List Nat → List Nat) : Nat → List (List Nat) → List Nat
  | _, [] => []
  | t, b :: bs => xorList (f (xorList b (blockOfLE t))) (blockOfLE t) ++ xtsBlocks f (xtsDouble t) bs

/-- R17: one 64-byte line under a data key and a tweak key; the tweak is the line's number IA[55:6]. -/
def xtsLine (decrypt : Bool) (dataKey tweakKey : List Byte) (tweak : Nat) (line : LineData) : LineData :=
  let t := blockLE (aesEncrypt tweakKey (blockOfLE tweak))
  let f := if decrypt then aesDecrypt dataKey else aesEncrypt dataKey
  BitVec.ofNat 512 ((xtsBlocks f t (blocksOf 5 (toBytes 64 line.toNat))).foldr (fun x acc => x + 256 * acc) 0)

/-! ## The line codes (R15, R23) -/

/-- Product in GF(2^8) with x^8 + x^4 + x^3 + x^2 + 1, by the bits of the first factor. -/
def gfMulN : Nat → Nat → Nat → Nat
  | 0, _, _ => 0
  | k + 1, a, b => (if a % 2 = 1 then b else 0) ^^^ gfMulN k (a / 2) (if b < 128 then 2 * b else (2 * b) ^^^ 0x11D)
def gfMul (a b : Nat) : Nat := gfMulN 8 a b
def gfPow (a : Nat) : Nat → Nat
  | 0 => 1
  | k + 1 => gfMul a (gfPow a k)
def gfInv (a : Nat) : Nat := gfPow a 254

/-- The generator with roots alpha^0 to alpha^(n-1), coefficients from the highest degree down, the leading 1 left out. -/
def rsGen : Nat → List Nat
  | 0 => []
  | n + 1 =>
    let g := rsGen n
    let r := gfPow 2 n
    List.zipWith (fun x y => x ^^^ gfMul r y) (g ++ [0]) (1 :: g)

/-- The check symbols of a message, by division. R15 gives the roots and the order of the symbols and not which end of that order is the
coefficient of the highest degree: symbol 0 (DESIGN CHOICE, log entry 105). -/
def rsCheck (n : Nat) (msg : List Nat) : List Nat :=
  let g := rsGen n
  msg.foldl (fun r m => let fb := m ^^^ r.headD 0; List.zipWith (fun x y => x ^^^ gfMul fb y) (r.drop 1 ++ [0]) g)
    (List.replicate n 0)

/-- Syndrome j. -/
def rsSyndrome (w : List Nat) (j : Nat) : Nat := let a := gfPow 2 j; w.foldl (fun acc c => gfMul acc a ^^^ c) 0
def rsOk (n : Nat) (w : List Nat) : Bool := (List.range n).all fun j => rsSyndrome w j == 0

/-- The locator of symbol i of a word of len symbols. -/
def rsLoc (len i : Nat) : Nat := gfPow 2 (len - 1 - i)
def xorAt (w : List Nat) (i e : Nat) : List Nat := w.set i (w.getD i 0 ^^^ e)

/-- One symbol corrected, where one explains every syndrome. -/
def rsFix1 (n : Nat) (w : List Nat) : Option (List Nat) :=
  let s0 := rsSyndrome w 0
  if s0 = 0 then none
  else
    let x := gfMul (rsSyndrome w 1) (gfInv s0)
    match (List.range w.length).find? fun i => rsLoc w.length i == x with
    | none => none
    | some i => let w' := xorAt w i s0; if rsOk n w' then some w' else none

/-- Two symbols corrected, where two explain every syndrome. -/
def rsFix2 (n : Nat) (w : List Nat) : Option (List Nat) :=
  let s := fun j => rsSyndrome w j
  let det := gfMul (s 0) (s 2) ^^^ gfMul (s 1) (s 1)
  if det = 0 then none
  else
    let di := gfInv det
    let a := gfMul (gfMul (s 0) (s 3) ^^^ gfMul (s 1) (s 2)) di
    let b := gfMul (gfMul (s 1) (s 3) ^^^ gfMul (s 2) (s 2)) di
    match (List.range w.length).filter fun i =>
      let x := rsLoc w.length i; gfMul x x ^^^ gfMul a x ^^^ b == 0 with
    | [i, j] =>
      let xi := rsLoc w.length i
      let xj := rsLoc w.length j
      let ej := gfMul (s 1 ^^^ gfMul (s 0) xi) (gfInv (xi ^^^ xj))
      let w' := xorAt (xorAt w j ej) i (s 0 ^^^ ej)
      if rsOk n w' then some w' else none
    | _ => none

/-- R15, R23: a word of n check symbols as it reads: with whether it was corrected, or none where it is uncorrectable. Six
check symbols correct two symbols, three correct one. -/
def rsDecode (n : Nat) (w : List Nat) : Option (List Nat × Bool) :=
  if rsOk n w then some (w, false)
  else
    match rsFix1 n w with
    | some w' => some (w', true)
    | none => if n = 6 then (rsFix2 n w).map fun w' => (w', true) else none

/-! ## SHA-384 (R376) -/

/-- Round constants of SHA-512, part. -/
def sha512k0 : List W64 :=
  [0x428A2F98D728AE22, 0x7137449123EF65CD, 0xB5C0FBCFEC4D3B2F, 0xE9B5DBA58189DBBC, 0x3956C25BF348B538,
   0x59F111F1B605D019, 0x923F82A4AF194F9B, 0xAB1C5ED5DA6D8118, 0xD807AA98A3030242, 0x12835B0145706FBE,
   0x243185BE4EE4B28C, 0x550C7DC3D5FFB4E2, 0x72BE5D74F27B896F, 0x80DEB1FE3B1696B1, 0x9BDC06A725C71235,
   0xC19BF174CF692694, 0xE49B69C19EF14AD2, 0xEFBE4786384F25E3, 0x0FC19DC68B8CD5B5, 0x240CA1CC77AC9C65]
/-- Round constants of SHA-512, part. -/
def sha512k1 : List W64 :=
  [0x2DE92C6F592B0275, 0x4A7484AA6EA6E483, 0x5CB0A9DCBD41FBD4, 0x76F988DA831153B5, 0x983E5152EE66DFAB,
   0xA831C66D2DB43210, 0xB00327C898FB213F, 0xBF597FC7BEEF0EE4, 0xC6E00BF33DA88FC2, 0xD5A79147930AA725,
   0x06CA6351E003826F, 0x142929670A0E6E70, 0x27B70A8546D22FFC, 0x2E1B21385C26C926, 0x4D2C6DFC5AC42AED,
   0x53380D139D95B3DF, 0x650A73548BAF63DE, 0x766A0ABB3C77B2A8, 0x81C2C92E47EDAEE6, 0x92722C851482353B]
/-- Round constants of SHA-512, part. -/
def sha512k2 : List W64 :=
  [0xA2BFE8A14CF10364, 0xA81A664BBC423001, 0xC24B8B70D0F89791, 0xC76C51A30654BE30, 0xD192E819D6EF5218,
   0xD69906245565A910, 0xF40E35855771202A, 0x106AA07032BBD1B8, 0x19A4C116B8D2D0C8, 0x1E376C085141AB53,
   0x2748774CDF8EEB99, 0x34B0BCB5E19B48A8, 0x391C0CB3C5C95A63, 0x4ED8AA4AE3418ACB, 0x5B9CCA4F7763E373,
   0x682E6FF3D6B2B8A3, 0x748F82EE5DEFB2FC, 0x78A5636F43172F60, 0x84C87814A1F0AB72, 0x8CC702081A6439EC]
/-- Round constants of SHA-512, part. -/
def sha512k3 : List W64 :=
  [0x90BEFFFA23631E28, 0xA4506CEBDE82BDE9, 0xBEF9A3F7B2C67915, 0xC67178F2E372532B, 0xCA273ECEEA26619C,
   0xD186B8C721C0C207, 0xEADA7DD6CDE0EB1E, 0xF57D4F7FEE6ED178, 0x06F067AA72176FBA, 0x0A637DC5A2C898A6,
   0x113F9804BEF90DAE, 0x1B710B35131C471B, 0x28DB77F523047D84, 0x32CAAB7B40C72493, 0x3C9EBE0A15C9BEBC,
   0x431D67C49C100D4C, 0x4CC5D4BECB3E42B6, 0x597F299CFC657E2A, 0x5FCB6FAB3AD6FAEC, 0x6C44198C4A475817]

/-- The round constants of SHA-512 (FIPS 180-4). -/
def sha512k : List W64 := sha512k0 ++ sha512k1 ++ sha512k2 ++ sha512k3

/-- The initial hash of SHA-384. -/
def sha384init : List W64 :=
  [0xCBBB9D5DC1059ED8, 0x629A292A367CD507, 0x9159015A3070DD17, 0x152FECD8F70E5939,
   0x67332667FFC00B31, 0x8EB44A8768581511, 0xDB0C2E0D64F98FA7, 0x47B5481DBEFA4FA4]

/-- The next word of the message schedule from the sixteen before it, oldest first. -/
def shaNext (w : List W64) : W64 :=
  let s0 := fun x : W64 => x.rotateRight 1 ^^^ x.rotateRight 8 ^^^ (x >>> 7)
  let s1 := fun x : W64 => x.rotateRight 19 ^^^ x.rotateRight 61 ^^^ (x >>> 6)
  s1 (w.getD 14 0) + w.getD 9 0 + s0 (w.getD 1 0) + w.getD 0 0

/-- One round on the eight working words. -/
def shaRound (st : List W64) (k w : W64) : List W64 :=
  let g := fun i => st.getD i 0
  let e := g 4
  let a := g 0
  let t1 := g 7 + (e.rotateRight 14 ^^^ e.rotateRight 18 ^^^ e.rotateRight 41) + ((e &&& g 5) ^^^ (~~~e &&& g 6)) + k + w
  let t2 := (a.rotateRight 28 ^^^ a.rotateRight 34 ^^^ a.rotateRight 39) + ((a &&& g 1) ^^^ (a &&& g 2) ^^^ (g 1 &&& g 2))
  [t1 + t2, a, g 1, g 2, g 3 + t1, e, g 5, g 6]

/-- The rounds of a block with a sliding schedule. -/
def shaRounds : List W64 → List W64 → List W64 → List W64
  | [], _, st => st
  | k :: ks, w, st => shaRounds ks (w.drop 1 ++ [shaNext w]) (shaRound st k (w.headD 0))

/-- The big-endian words of bytes, with fuel. -/
def wordsBE : Nat → List Byte → List W64
  | 0, _ => []
  | k + 1, bs => if bs.isEmpty then [] else
    BitVec.ofNat 64 ((bs.take 8).foldl (fun acc b => acc * 256 + b.toNat) 0) :: wordsBE k (bs.drop 8)

/-- The blocks of sixteen words, with fuel. -/
def shaBlocks : Nat → List W64 → List W64 → List W64
  | 0, _, st => st
  | k + 1, ws, st =>
    if ws.isEmpty then st
    else shaBlocks k (ws.drop 16) (List.zipWith (· + ·) st (shaRounds sha512k (ws.take 16) st))

/-- SHA-384 of bytes; the digest's first byte is its most significant. -/
def sha384 (m : List Byte) : BitVec 384 :=
  let pad := (128 - (m.length + 17) % 128) % 128
  let bytes := m ++ [0x80] ++ List.replicate (pad + 8) 0 ++ (toBytes 8 (8 * m.length)).reverse
  let st := shaBlocks bytes.length (wordsBE bytes.length bytes) sha384init
  BitVec.ofNat 384 ((st.take 6).foldl (fun acc w => acc * 2 ^ 64 + w.toNat) 0)

/-! ## HMAC and HKDF with SHA-384 (R377; RFC 2104, RFC 5869) -/

/-- The bytes of a digest, most significant first. -/
def digestBytes (d : BitVec 384) : List Byte := (toBytes 48 d.toNat).reverse
/-- HMAC-SHA-384 under a key of at most 128 bytes. -/
def hmac384 (key msg : List Byte) : List Byte :=
  let k := key ++ List.replicate (128 - key.length) 0
  digestBytes (sha384 (k.map (· ^^^ 0x5C) ++ digestBytes (sha384 (k.map (· ^^^ 0x36) ++ msg))))
/-- HKDF-SHA-384: the first 48 bytes for a secret, a salt and a label. -/
def hkdf384 (salt secret label : List Byte) : List Byte := hmac384 (hmac384 salt secret) (label ++ [1])

/-! ## ECDSA on P-384 (R1, R376, R377; FIPS 186-4) -/

def p384p : Nat := 2 ^ 384 - 2 ^ 128 - 2 ^ 96 + 2 ^ 32 - 1
def p384n : Nat := 0xffffffffffffffffffffffffffffffffffffffffffffffffc7634d81f4372ddf581a0db248b0a77aecec196accc52973
def p384b : Nat := 0xb3312fa7e23ee7e4988e056be3f82d19181d9c6efe8141120314088f5013875ac656398d8a2ed19d2a85c8edd3ec2aef
/-- A point of the curve; none is the point at infinity. -/
abbrev EcPoint := Option (Nat × Nat)
def p384g : EcPoint := some (0xaa87ca22be8b05378eb1c71ef320ad746e1d3b628ba79b9859f741e082542a385502f25dbf55296c3a545e3872760ab7,
  0x3617de4a96262c6f5d9e98bf9292dc29f8f41dbd289a147ce9da3113b5f0b8c00a60b1ce1d7e819d7a431d7c90ea0e5f)

/-- x to the power e modulo m, over k bits of e. -/
def powMod : Nat → Nat → Nat → Nat → Nat
  | 0, _, _, _ => 1
  | k + 1, x, e, m => let r := powMod k (x * x % m) (e / 2) m; if e % 2 = 1 then x * r % m else r
/-- The inverse modulo a prime of 384 bits. -/
def invMod (x m : Nat) : Nat := powMod 384 (x % m) (m - 2) m
def ecAdd (a b : EcPoint) : EcPoint :=
  match a, b with
  | none, q => q
  | q, none => q
  | some (x1, y1), some (x2, y2) =>
    let p := p384p
    if x1 = x2 ∧ (y1 + y2) % p = 0 then none
    else
      let l := if x1 = x2 then (3 * x1 * x1 + (p - 3)) * invMod (2 * y1) p % p
        else ((y2 + p - y1) * invMod (x2 + p - x1) p) % p
      let x3 := (l * l + 2 * p - x1 - x2) % p
      some (x3, (l * (x1 + p - x3) + p - y1) % p)
/-- A point with a common denominator: x over z squared, y over z cubed; z is 0 at infinity. -/
abbrev EcFraction := Nat × Nat × Nat
def ecSub (a b : Nat) : Nat := (a + p384p - b % p384p) % p384p
def ecDouble : EcFraction → EcFraction
  | (x, y, z) =>
    let yy := y * y % p384p
    let s := 4 * x * yy % p384p
    let m := 3 * (x + z * z) * ecSub x (z * z) % p384p
    let x3 := ecSub (m * m) (2 * s)
    (x3, ecSub (m * ecSub s x3) (8 * yy * yy), 2 * y * z % p384p)
def ecPlus : EcFraction → EcFraction → EcFraction
  | (x1, y1, z1), (x2, y2, z2) =>
    if z1 = 0 then (x2, y2, z2)
    else if z2 = 0 then (x1, y1, z1)
    else
      let u := x1 * z2 * z2 % p384p
      let v := y1 * z2 * z2 * z2 % p384p
      let h := ecSub (x2 * z1 * z1) u
      let r := ecSub (y2 * z1 * z1 * z1) v
      if h = 0 then (if r = 0 then ecDouble (x1, y1, z1) else (1, 1, 0))
      else
        let hh := h * h % p384p
        let x3 := ecSub (r * r) (h * hh + 2 * u * hh)
        (x3, ecSub (r * ecSub (u * hh) x3) (v * hh * h), h * z1 * z2 % p384p)
/-- e times a point, over k bits of e. -/
def ecTimes : Nat → EcFraction → Nat → EcFraction
  | 0, _, _ => (1, 1, 0)
  | k + 1, q, e => let r := ecTimes k (ecDouble q) (e / 2); if e % 2 = 1 then ecPlus q r else r
def ecMul (k : Nat) (q : EcPoint) (e : Nat) : EcPoint :=
  match ecTimes k (match q with | none => (1, 1, 0) | some (x, y) => (x, y, 1)) e with
  | (x, y, z) => if z = 0 then none else let i := invMod z p384p; some (x * i * i % p384p, y * i * i * i % p384p)
def onCurve (q : Nat × Nat) : Bool :=
  decide (q.1 < p384p) && decide (q.2 < p384p) && q.2 * q.2 % p384p == (q.1 * q.1 * q.1 + (p384p - 3) * q.1 + p384b) % p384p

/-- A signature of 96 bytes, r and s most significant first. -/
def sigParts (sig : List Byte) : Nat × Nat := (blockNum ((sig.take 48).map (·.toNat)), blockNum ((sig.drop 48).map (·.toNat)))
/-- R376: a signature over a digest verifies under a public key. -/
def ecdsaVerify (key : Nat × Nat) (digest : BitVec 384) (sig : List Byte) : Bool :=
  let (r, s) := sigParts sig
  let n := p384n
  sig.length == 96 && onCurve key && decide (1 ≤ r ∧ r < n ∧ 1 ≤ s ∧ s < n) &&
    (let w := invMod s n
     match ecAdd (ecMul 384 p384g (digest.toNat * w % n)) (ecMul 384 (some key) (r * w % n)) with
     | none => false
     | some q => q.1 % n == r)
/-- R377: the signature of a digest under a private key, with the random number k of this signature. -/
def ecdsaSign (d k : Nat) (digest : BitVec 384) : List Byte :=
  let n := p384n
  match ecMul 384 p384g (k % n) with
  | none => List.replicate 96 0
  | some q =>
    let r := q.1 % n
    (toBytes 48 r).reverse ++ (toBytes 48 (invMod k n * (digest.toNat + r * d) % n)).reverse

end Sys2Proof.Machine
end

