-- ==== Sys2Proof/Config.lean ====
section
/-! DEFINITION. What the spec leaves to each part or to chance: constants without a body, so that no proof can
see their values. Each is named in the assumption log. -/
namespace Sys2Proof.Config

/-- R405: which of the enabled steps of the engines comes next, drawn anew at every step of the machine. -/
opaque pick : Nat → Nat

/-- R18: the random bits of MKCTL command 2, by draw. -/
opaque drbg : Nat → BitVec 512

/-- R25, R27: the banks (pseudo-channel, bank) that hold the park area, which the control cores choose. -/
opaque parkArea : BitVec 9 → BitVec 4 → Bool

/-- R25, R26: the bank (pseudo-channel times 16 plus bank) that a row of a park entry lies in (log entry 49). -/
opaque parkBank : Nat → Nat → Nat

/-- R35: the key slot of the firmware's page-table pages (log entry 5). -/
opaque firmwareKey : BitVec 9

/-- R376: whether a vendor-signed certificate names a key for a customer monitor on this module; the SHA-384 digest of the vendor root key
in the fuses of this part (log entry 34). -/
opaque certified : Nat × Nat → Bool
opaque vendorHash : BitVec 384

/-- R377: the 256-bit fuse secret, the salt of its HKDF, the private key that comes of the derived bytes, and the random number of each
signature, by draw (log entry 34). -/
opaque fuseSecret : BitVec 256
opaque hkdfSalt : List Byte
opaque keyScalar : List Byte → Nat
opaque sigNonce : Nat → Nat

/-- A value the spec leaves open, drawn by the step counter (log entry 7). -/
opaque freeWord : Nat → BitVec 64

/-- R156: the length of a bundle whose header word cannot be read, by its address (log entry 7). -/
opaque lengthAt : BitVec 64 → BitVec 64

/-- R352: where on its die the monitor keeps its context slots (log entry 15). -/
opaque slotBase : BitVec 9

/-- R314: the 96-bit GMAC iv of kernel tags, which the spec does not give (log entry 18). -/
opaque kernelIv : BitVec 96

/-- R323, R325: where in its workspace the sequencer looks for room first (log entry 19). -/
opaque wsFirst : Nat

/-- R313, R239: which image of a B tensor of several images holds a tile: images across, images down, tile across, tile down
(log entry 20). -/
opaque imageOrder : Nat → Nat → Nat → Nat → Nat

/-- An element whose value the spec does not state: the operator with its operands, the element (log entry 21). -/
opaque freeElem : List Nat → Nat → Nat

/-- R9, R117: what a stochastic rounding of a built-in operator draws on, which the firmware's kernels settle: by the operator's bytecode
address and the element, the TASKID, the address of the bundle header, the counter and the lane (log entry 21). -/
opaque operDraw : Nat → Nat → BitVec 64 × BitVec 64 × Nat × Nat

/-- R320: where the key-value blocks of ATTEND hold what it reads (log entry 21): of a query (its shape and coordinates) the entry of the
sequence-word tensor, the column of the block table and the query's position; how many key positions a sequence has, by its word; of a key
or a value (position, element) the byte offset in its block; and the format of each. -/
opaque attnQuery : List Nat → List Nat → Nat × Nat × Nat
opaque attnKeys : BitVec 64 → Nat
opaque attnPlace : Bool → List Nat → Nat → Nat → Nat
opaque attnFmt : Bool → Nat → Nat

/-- R114: the E8M0 scale that an FP32 value becomes (log entry 21). -/
opaque scaleOf : Nat → BitVec 8

/-- R114, R128: the E8M0 scale of a block of 32 elements of a product whose operands are MX scaled, whose place the spec does not give: the
operator with its operands, whether it is of B, the row or column, the block; and the scale that QUANT gives a block, by its elements
(log entry 21). -/
opaque mxScale : List Nat → Bool → Nat → Nat → Nat
opaque mxScaleFor : List Nat → Nat

/-- R328: the rows per page of a pool that no DISPATCH has written, by its dimensions (log entry 25). -/
opaque pageRows : List Nat → Nat

/-- R319: the padding value of CONV, by layout index (log entry 21). -/
opaque convPad : BitVec 8 → Nat

/-- R305: the overflow slots and their VA in a gang entry that the sequencer writes (log entry 22). -/
opaque gangOverflow : BitVec 16
opaque gangOverflowVa : BitVec 64

/-- R328: the order in which the rows of a DISPATCH reach the lists, and the pages of its pool, which depend on timing: a key of each, by
the step (log entry 25). -/
opaque rowOrder : Nat → Nat → Nat
opaque pageOrder : Nat → Nat → Nat

/-- R365: the drain rate that a port asks for, by the step and the virtual channel (log entry 97). -/
opaque drainRate : Nat → Nat → BitVec 16

/-- R316: whether the control cores grant a program its memory (log entry 23). -/
opaque granted : List Byte → Bool

end Sys2Proof.Config
end

