-- ==== Sys2Proof/Machine/State.lean ====
section
/-! DEFINITION. The state of the machine as plain data: one core with its engines, its die, and what of the package
and the outside reaches them (R2, R136, R140, and the register maps of every chapter). -/
namespace Sys2Proof.Machine

/-- A sparse byte store: address and byte, addresses strictly rising, no listed byte zero; an unlisted byte reads as
zero (R72 for the scratchpad, R280 for main memory). -/
abbrev Memory := List Host.Cell

/-! ## The core -/

/-- R333: the causes of traps. -/
inductive Cause where
  | illegalBundle | illegalOp | priv | range | page | protect | scratchBounds | align | memError | codeTag
  | mixedSize | trap | breakpoint | copyFault | grottoFault | barrierTimeout | operator | preempt | timer
  | mailbox | debugHalt
deriving DecidableEq, Repr

/-- Whether the core issues (R270, R296, R374): held in reset, free, running a task or its monitor, or stopped. -/
inductive Run where | reset | idle | running | stopped
deriving DecidableEq, Repr

/-- The end that a bundle has started and two delay bundles precede (R267, R272). -/
inductive EndKind where | none | yield | endt | halt | eret
deriving DecidableEq, Repr

/-- The register files of R136 and the monitor's bank of R336. -/
structure Regs where
  s : Vector W64 64
  v : Vector W1024 64
  p : Vector W128 32
  ms : Vector W64 64
  mp : Vector W128 32
  t : Vector W64 8
  acc0 : Vector (BitVec 4096) 128
  acc1 : Vector (BitVec 4096) 128
  ka : W1024
  kb : W1024
deriving DecidableEq, Repr

/-- The system registers of R140 that are stored; PCQ, ANNUL, CHSTOP, SNAPN and QCNT's count are here or beside. -/
structure Sys where
  cause : W64
  fmask : W64
  faddr : W64
  tstate : W64
  mentry : W64
  vrm : W64
  fpsr : W64
  thr : W64
  qcnt : W64
  lpw : W64
  lpe : W64
  hintdrop : W64
  collide : W64
  win : Vector W64 24
  spw : Vector W64 4
  dommem : W64
  taskid : W64
  sliceSel : BitVec 7
  quant : Vector (BitVec 32) 128
  age : W64
  preemptDelta : W64
  waitpark : W64
  bartimeout : W64
  mxlive : BitVec 2
deriving DecidableEq, Repr

/-- The addresses of the next three bundles (R141, R156), their annul bits, and the words of each where it has been
fetched already (R64). Bit 0 of an entry is NEXT. -/
structure Stream where
  q0 : W64
  q1 : W64
  q2 : W64
  annul : BitVec 3
  f0 : Option (List W32)
  f1 : Option (List W32)
  f2 : Option (List W32)
deriving DecidableEq, Repr

/-- Where an exposed result lands (R150, R343). -/
inductive Dst where
  | s (n : BitVec 6)
  | p (n : BitVec 5)
  | v (n : BitVec 6)
  | lsf (set : BitVec 3) (f : BitVec 4)
  | ka
  | kb
  | lpw
  | lpe
  | flagsOnly
deriving DecidableEq, Repr

/-- A result in flight (R150, R342): mask has a bit per byte that lands (per bit for a predicate), left is the
remaining count, flags are the FPSR bits that enter with it (R120). -/
structure Pend where
  dst : Dst
  val : W1024
  mask : W128
  left : Nat
  slot : Nat
  flags : BitVec 7
  /-- the 256-bit pieces it takes in the snapshot buffer (R343, R344) -/
  pcs : Nat
deriving DecidableEq, Repr

/-- R156: a link value that waits for the header word of A(n+2): the level of its register, the bundles that issue before that one, and
the free value that stands in lr until then. -/
structure LinkDue where
  mon : Bool
  left : Nat
  val : W64
deriving DecidableEq, Repr

/-- A record in a deque (R184): takeable once the spawner's earlier accesses are performed. seqMax is the last access
sequence number it waits for. -/
structure DequeRec where
  record : Rec
  released : Bool
  seqMax : Nat
deriving DecidableEq, Repr

/-- A place of the deque overflow area that holds a record (R70, R184). -/
structure OvfRec where
  slot : Nat
  released : Bool
  seqMax : Nat
deriving DecidableEq, Repr

/-- A scoreboarded destination (R152, R351). value is none until it is known; request is the access to re-issue for a
load: its VA, its bytes as (destination byte, IA), and its sign extension. -/
structure Await where
  id : Nat
  mon : Bool
  vec : Bool
  reg : BitVec 6
  mask : W128
  value : Option W1024
  /-- the bytes that the lines of a load have brought so far (R194) -/
  part : W1024
  load : Bool
  va : W64
  bytes : List (Nat × Nat)
  size : Nat
  sext : Bool
  acq : Bool
  slot : Nat
  /-- its syllable, for a saved scoreboard record (R351) -/
  syl : W32
  iaddr : W64
  /-- a PROBE whose answer is awaited: IA, kind, window (R260) -/
  probe : Option (BitVec 56 × BitVec 2 × BitVec 3)
  /-- a Grotto command not yet performed: opcode, operand, extension (R98, R102) -/
  grot : Option (BitVec 7 × W64 × W32)
  /-- a TAKE or STEAL whose record is not released yet, with its destination (R184, R185) -/
  held : Option (DequeRec × W64 × W64)
deriving DecidableEq, Repr

/-- Atomic operations (R200, R201, R203). -/
inductive AtomOp where | add | min | max | minn | maxn | and | or | xor | xchg | cas | faddB | faddF
deriving DecidableEq, Repr

/-- What an unperformed global access does to its bytes (R194, R200). -/
inductive GOp where
  | load (id : Nat)
  | store
  | atomic (op : AtomOp) (x y : W64) (id : Option Nat)
deriving DecidableEq, Repr

/-- What a global access of the core does to one line (R195), issued and not performed: the bytes by IA, for a load with the
destination byte and for a store with the value. rel marks a release (R197); seq is the number of the whole access. -/
structure GAcc where
  op : GOp
  cells : List (Nat × Nat)
  rel : Bool
  /-- the acquire part of an atomic (R197, R203) -/
  acq : Bool
  scope : BitVec 3
  seq : Nat
  /-- an element of VAOR or VAADD: the VA, slot and address of its bundle that a MEM_ERROR names (R198) -/
  org : Option (W64 × Nat × W64)
deriving DecidableEq, Repr

/-- A copy command with the operands captured at issue (R78, R348). -/
structure Cmd where
  op : BitVec 7
  set : BitVec 3
  ord : BitVec 2
  sc : BitVec 2
  ext : W32
  e1 : W64
  e2 : W64
  layout : Vector W64 12
  win : Vector W64 24
  spw : Vector W64 4
  bank : Bool
  /-- its own operand words are malformed (R172) -/
  bad : Bool
  /-- it has passed its wait (R87) -/
  started : Bool
  /-- every check has passed; bytes may move (R90) -/
  checked : Bool
  /-- CPYKV: the blocks that have passed their checks, with the VA each entry gives (R107) -/
  blocks : List (Nat × W64)
  /-- the 512-byte pieces that have moved -/
  landed : List Nat
  /-- probes of the transfer being checked, with their answers (R39) -/
  probes : List (BitVec 56 × Option ProbeReply)
  /-- pages the command holds until it completes (R40) -/
  pages : List (BitVec 56)
  /-- CPYCH: the record in progress once it has been read, and whether it has passed its wait (R92) -/
  record : Option Rec
  recGo : Bool
  /-- the accesses the core issued before it: sequence numbers up to this one (R88) -/
  seq : Nat
  /-- issued by monitor code, whose addresses are not mapped (R70, log entry 4) -/
  phys : Bool
  /-- its task has not ended; a signal of a dead command is discarded (R93) -/
  live : Bool
  /-- scratchpad bytes that the stores of its own bundle changed: the address, and the byte before and after (R89) -/
  own : List (Nat × Byte × Byte)
  /-- global bytes that the transfer in progress has read, by IA, for pieces that share an 8-byte unit with one that has moved, and
  the IAs of bytes that it has written (R285) -/
  held : List (Nat × Byte)
  sent : List Nat
  /-- CPYST of the other die: its check, or a chunk by its piece, has been sent for (R97, R100) -/
  asked : Bool
  /-- its task's rank, its domain where that is a gang's, and w3 and w6 of its record (R76, R93) -/
  rank : BitVec 16
  gang : Option (BitVec 16)
  tile : W64
  block : W64
  /-- the size of its task's gang, 1 where it is in none (R173) -/
  gsize : BitVec 16
  /-- the end of its task, where that has ended: the sequence number of accesses then (R93) -/
  leave : Nat
  /-- CPYST of the other die: the subcause that its controller has answered with, until the command is at the head (R90, R97) -/
  refused : Option Nat
deriving DecidableEq, Repr

/-- A copy channel (R77, R90, R347, R348): its queue in issue order, the subcause it stopped with, the words of its
head command already removed through CHQ, and the words appended so far. -/
structure Channel where
  queue : List Cmd
  stop : Option (BitVec 4)
  popped : Nat
  partialWords : List W64
deriving DecidableEq, Repr

/-- The permission an access needs of its window and its page (R30, R38). -/
inductive Need where | rd | w | x | a
deriving DecidableEq, Repr

/-- A page the presence filter holds (R38): base, SIZE, PRD, PWR, PEX. -/
structure FilterEntry where
  base : BitVec 56
  size : BitVec 2
  rd : Bool
  wr : Bool
  ex : Bool
deriving DecidableEq, Repr

/-- A filter invalidation that waits until its page is no longer in use (R40). -/
structure DeferInv where
  ia : BitVec 56
  size : BitVec 2
  all : Bool
deriving DecidableEq, Repr

/-- A posted receive buffer (R76). -/
structure PostedBuf where
  addr : BitVec 22
  len : BitVec 25
  any : Bool
  rank : BitVec 16
  tag : BitVec 16
  sem : BitVec 8
  inc : BitVec 8
deriving DecidableEq, Repr

/-- A message a SEND has handed over and no receiver has accepted yet (R74, R75): the rank it is for, and the accesses
that must be performed before it arrives. -/
structure OutMail where
  /-- its sender is a gang member; any other task sends only to itself (R177) -/
  gang : Bool
  dst : BitVec 16
  msg : Msg
  seq : Nat
deriving DecidableEq, Repr

/-- A collective post waiting in the core's post queue (R180, R181). -/
structure CollPost where
  arm : Bool
  desc : W64
  flag : W64
  ext : W32
  ord : BitVec 2
  sc : BitVec 2
  win : Vector W64 24
  phys : Bool
  agent : BitVec 10
  seq : Nat
  live : Bool
  /-- its syllable (R350) -/
  syl : W32
  /-- the context slot of its task once that has been saved (R354); zero while it runs -/
  slotVa : W64
deriving DecidableEq, Repr

/-- The work of the matrix unit (R245): the operation with the operands captured at issue. -/
inductive MxOp where
  | mul (scaled conv int zero : Bool) (acc : Bool) (budget : BitVec 4) (ta t1 tb : W64) (fill : W64)
  | zero (acc : Bool)
  | store (t : W64)
  | plane (t : W64)
deriving DecidableEq, Repr

/-- A queued X instruction (R245, R351). -/
structure MxEntry where
  op : MxOp
  syllable : W32
  ka : W1024
  kb : W1024
  spw : Vector W64 4
  /-- issued by monitor code, whose scratchpad addresses are physical (R70) -/
  phys : Bool
  /-- bytes as they stood before the stores of its own bundle, but for those that an earlier entry has written since (R245) -/
  old : List (Nat × Byte)
  live : Bool
deriving DecidableEq, Repr

/-- A code range pinned by ICPIN (R67, R207): first 128-byte line, number of lines, level (true for L2). -/
structure Pin where
  first : BitVec 49
  count : Nat
  l2 : Bool
deriving DecidableEq, Repr

/-- L1 data cache states (R46, R63). -/
inductive L1State where | shared | exclusive | modified
deriving DecidableEq, Repr

/-- What a hint asks for (R205). -/
inductive HintKind where
  | pref (l1 : Bool)
  | keep
  | evict
  | promote
  | pin (l2 : Bool)
  | unpin (l2 all : Bool)
  | clean (l2 : Bool)
  | drop (l2 : Bool)
deriving DecidableEq, Repr

/-- A hint whose lines have not all been answered for (R43, R205): its first IA, its bytes, the answers of the pages' homes, and
the accesses of the core before it (R208). mon marks a hint of monitor code, whose pages are not checked (log entry 4). -/
structure Hint where
  id : Nat
  kind : HintKind
  ia : BitVec 56
  len : Nat
  probes : List (BitVec 56 × Option ProbeReply)
  seq : Nat
  mon : Bool
  /-- its task runs: what is dropped of it is counted (R43) -/
  live : Bool
deriving DecidableEq, Repr

/-- A line that a PREF asks for (R206): its hint by number, and whether that hint has been counted in HINTDROP. -/
structure Pref where
  line : BitVec 50
  l1 : Bool
  hint : Nat
  counted : Bool
deriving DecidableEq, Repr

/-- A granule of the scratchpad (R70, R72). -/
inductive Granule where | free | held | releasing | clearing
deriving DecidableEq, Repr

/-- Barrier state per level (R264, R351): phase modulo 128, whether this task has arrived, whether its arrival waits for
earlier accesses, up to which access sequence number, and whether the phase it arrived in is complete. -/
structure BarLevel where
  phase : BitVec 7
  arrived : Bool
  asked : Bool
  seq : Nat
  complete : Bool
deriving DecidableEq, Repr

/-- A subdomain entered by DOMSET (R187, R304). -/
structure SubDom where
  count : BitVec 16
  srank : BitVec 16
  sid : BitVec 16
deriving DecidableEq, Repr

/-- The task the core runs: its record (R292), its granules, its gang's size and level, and its subdomains 5 to 7. -/
structure TaskInfo where
  record : Rec
  gang : Bool
  glevel : BitVec 3
  gsize : BitVec 16
  domain : BitVec 16
  rank : BitVec 16
  sub5 : Option SubDom
  sub6 : Option SubDom
  sub7 : Option SubDom
  dropped : BitVec 16
  startTick : Nat
  /-- the window set registered with its record, which a restart from its position takes again (R105, R293) -/
  carried : Option (Vector W64 24)
deriving DecidableEq, Repr

/-- A pending MEM_ERROR (R198, R334): FADDR, FMASK, the address of the bundle, and INFO. -/
structure MemErr where
  va : W64
  fmask : BitVec 12
  iaddr : W64
  info : BitVec 16
deriving DecidableEq, Repr

/-- The asynchronous causes that are pending (R335). -/
structure Asyncs where
  memErr : List MemErr
  debugHalt : Option (BitVec 2)
  copyFault : Bool
  grottoFault : Option (BitVec 8)
  operator : Option (BitVec 8)
  barTimeout : Option (BitVec 3)
  mailbox : Bool
  timer : Bool
  /-- INFO, and whether the record goes to the head of its level (R299, R301, R307) -/
  preempt : Option (BitVec 3 × Bool)
deriving DecidableEq, Repr

/-- What keeps the head bundle waiting, for parking and wake-up (R167, R303). -/
inductive WaitKind where | none | structural | sem | bar | recv | wfe | engine
deriving DecidableEq, Repr

/-- BWSET's weights and ceilings at the HBM controllers and at the Toesque ports (R182): MIGR, GROT, COLLW, COPYW, four bits each. -/
structure Weights where
  hbm : BitVec 16
  links : BitVec 16
  hbmCeil : BitVec 16
  linksCeil : BitVec 16
deriving DecidableEq, Repr

/-- A saved context (R350, R351): the state a task resumes with. -/
structure Ctx where
  task : TaskInfo
  agent : BitVec 10
  core : BitVec 9
  inCore : Bool
  step : BitVec 16
  regsS : Vector W64 64
  regsP : Vector W128 32
  regsV : Vector W1024 64
  regsT : Vector W64 8
  acc0 : Vector (BitVec 4096) 128
  acc1 : Vector (BitVec 4096) 128
  ka : W1024
  kb : W1024
  sys : Sys
  stream : Stream
  snap : List Pend
  awaits : List Await
  ls : Vector (Vector W64 12) 8
  bank0 : Vector (Vector W64 12) 8
  bank1 : Vector (Vector W64 12) 8
  bankNow : BitVec 8
  ab : Vector W64 16
  sem : Vector (BitVec 16) 256
  channels : Vector Channel 4
  posts : List CollPost
  posted : List PostedBuf
  mbox : List Msg
  mx : List MxEntry
  bars : Vector BarLevel 8
  weights : Weights
  latch : Bool
  /-- its spilled messages once they have been moved to its slot (R354) -/
  spill : List Msg
  asyncs : Asyncs
  barCycles : Nat
  /-- physical granules that still hold its regions on the core (R72, R355) -/
  granules : List Nat
  /-- region contents by task-visible address once they have left the core -/
  region : Memory
  /-- the accesses the core had issued before the save: sequence numbers up to this one (R199) -/
  seq : Nat
deriving DecidableEq, Repr

/-- What a task that has stopped still owes (R93, R186, R264, R268, R269): its end counted at its barriers, and the decrement of the join
counter at w6 (for a JOIN, at va with its record to write; phys where monitor code gave va, log entry 4); for a YIELD its record to
queue. -/
structure Leave where
  task : TaskInfo
  win : Vector W64 24
  phys : Bool
  va : W64
  seq : Nat
  member : Bool
  counter : Bool
  record : Option Rec
  probes : List (BitVec 56 × Option ProbeReply)
deriving DecidableEq, Repr

/-- One core with its engines. -/
structure CoreSt where
  agent : BitVec 10
  cid : BitVec 8
  run : Run
  /-- monitor level (R336) -/
  mon : Bool
  regs : Regs
  sys : Sys
  /-- PCQ0 to PCQ2 and ANNUL: the task's stream (R141) -/
  pcq : Stream
  /-- the stream of monitor level (R336) -/
  mstream : Stream
  /-- results in flight of the running level -/
  pipe : List Pend
  /-- the snapshot buffer (R342) -/
  snap : List Pend
  awaits : List Await
  nextId : Nat
  /-- unperformed global accesses, oldest first -/
  accs : List GAcc
  /-- the next access sequence number -/
  accSeq : Nat
  divBusy : Nat
  fdivBusy : Nat
  fBusy : Nat
  bankWait : Nat
  /-- the end started at monitor level, and the delay bundles still due (R267, R270, R272) -/
  mEnd : EndKind
  mDue : Nat
  /-- a JOIN that stops the task at the next boundary (R186) -/
  joinReq : Option W64
  asyncs : Asyncs
  /-- the event latch (R273) -/
  latch : Bool
  /-- the check of R105 for a sequence of the other die: asked for, and its answer -/
  posr : Option (Option Bool)
  waiting : WaitKind
  /-- the level of a BAR that waits, or the selection word of a RECV that waits (R303) -/
  waitArg : W64
  waitCycles : Nat
  wfeCycles : Nat
  barCycles : Nat
  quantumUsed : Nat
  bundlesSince : Nat
  /-- probes of the held bundle (R38): the page's IA, the faulting VA, its need, its slot, and the answer -/
  probes : List (BitVec 56 × Option ProbeReply)
  /-- pages that have been probed for data accesses, with what is needed of them: an answer that grants it enters the filter (R38) -/
  needs : List (BitVec 56 × Need)
  /-- checks of strong accesses at their homes (R286): the IA, the size, and whether the check passed -/
  strong : List (BitVec 56 × Nat × Option Bool)
  filter : List FilterEntry
  deferInv : List DeferInv
  ls : Vector (Vector W64 12) 8
  bank0 : Vector (Vector W64 12) 8
  bank1 : Vector (Vector W64 12) 8
  bankNow : BitVec 8
  ab : Vector W64 16
  sem : Vector (BitVec 16) 256
  channels : Vector Channel 4
  posts : List CollPost
  posted : List PostedBuf
  /-- hardware mailbox entries, oldest first (R73); the spill area follows them (R75) -/
  mbox : List Msg
  /-- the slots of the spill area that hold messages, oldest first (R70, R75); the messages stand in the scratchpad -/
  spill : List Nat
  /-- messages of this core not yet accepted, oldest first, and whether the oldest has been refused for lack of a place
  (R75) -/
  outMail : List OutMail
  outFull : Bool
  mxQueue : List MxEntry
  mxRun : Option MxEntry
  /-- cycles that the X instruction in execution still takes at the least (R244, R405) -/
  mxLeft : Nat
  l1 : List (BitVec 50 × L1State)
  prefs : List Pref
  /-- hints that wait for the homes of their pages, or for earlier accesses to their lines (R43, R205, R208) -/
  hints : List Hint
  icache : List (BitVec 49)
  pins : List Pin
  spad : Memory
  granules : Vector Granule 64
  task : Option TaskInfo
  /-- granules of the running task, in task order (R72) -/
  taskGranules : List Nat
  /-- the regions of ended tasks that are not released yet (R72, R93) -/
  freeing : List (List Nat)
  bars : Vector BarLevel 8
  weights : Weights
  /-- own deque, top first (R184), and the places of its overflow area that hold records, oldest first (R70): the records stand in the
  scratchpad -/
  deque : List DequeRec
  dequeOvf : List OvfRec
  /-- the context in the save area, with its slot's VA (R352) -/
  saveArea : Option (W64 × Ctx)
  /-- block translation cache (R108): table base, index, entry -/
  btc : List (W64 × Nat × W64)
  /-- the gang member it is reserved for: domain and rank (R306) -/
  reserved : Option (BitVec 16 × BitVec 16)
  /-- a record with a context that it has taken and not restored yet, and whether the core that holds the image has been asked to write
  it out (R296, R352, R356) -/
  restoring : Option (Rec × Bool)
  /-- the cycles that the restore engine still needs for the fixed part and the banks, once it has begun (R356, R405) -/
  restoreLeft : Option Nat
  leaving : List Leave
  /-- the stochastic syllables of the issuing bundle that have their counts; 0 between bundles (R117) -/
  drawn : Nat
  /-- the link value of the newest BL or JRL that is not formed yet (R156) -/
  linkDue : Option LinkDue
  /-- the saved task whose spilled messages are still in the spill area, and its slot (R354) -/
  spillMove : Option (TaskInfo × W64)
  offline : Bool
deriving DecidableEq, Repr

/-! ## The die -/

/-- A line as the DRAM holds it (R15 to R17, R23): 64 bytes of ciphertext, the rimstone tag and the check symbols, with
the line number it was enciphered under. -/
structure DramLine where
  line : BitVec 50
  cipher : LineData
  tag : BitVec 16
  check : BitVec 48
deriving DecidableEq, Repr

/-- Why a record stands in the error queue of a die. -/
inductive ErrKind where
  | uncorrectable | writeDiscarded | failingRow | lastingFault | coreStop | portDown | endFailed
deriving DecidableEq, Repr

/-- The class of a read in an error record (R20): who asked for the line. none where the record is of no read. -/
inductive ReadClass where
  | none | cache | engine | agent | migration | grotto | walk
deriving DecidableEq, Repr

/-- A record of the error queue of a die (R20, R21, R26, R341, R368, R378). -/
structure ErrRec where
  kind : ErrKind
  pa : Nat
  ia : BitVec 56
  requester : BitVec 10
  cls : ReadClass
deriving DecidableEq, Repr

/-- A park entry of the base-die test (R25, R26). -/
structure ParkEntry where
  busy : Bool
  fail : Bool
  phase : BitVec 2
  rej : Bool
  pattern : BitVec 3
  pc : BitVec 9
  bank : BitVec 4
  cmd : BitVec 2
  failing : List Nat
  /-- rows of the bank that have been moved: into the entry while it parks, back to the bank while it unparks (R26) -/
  rows : Nat
  /-- the lines in the entry, by the physical address they belong to -/
  lines : List (Nat × DramLine)
deriving DecidableEq, Repr

/-- The key-slot commands of the memory controller (R18, R19). -/
structure KeyUnit where
  busy : Bool
  err : Bool
  all : Bool
  slot : BitVec 9
  cmd : BitVec 2
  dat : Vector W64 8
  /-- loaded slots; an unlisted slot holds zero keys -/
  slots : List (Nat × BitVec 512)
deriving DecidableEq, Repr

/-- A translation change in progress (R37): all pages or one, the old entry, and the acknowledgements outstanding. -/
structure HtChange where
  all : Bool
  size : BitVec 2
  page : BitVec 30
  waitAcks : Nat
deriving DecidableEq, Repr

/-- A migration in progress (R41): the page's offset and SIZE, the old and the new tier and frame, and the lines of the page
that have been copied. -/
structure Migration where
  off : BitVec 46
  size : BitVec 2
  tier : Bool
  frame : BitVec 24
  toTier : Bool
  toFrame : BitVec 24
  done : Nat
  /-- it is a promotion of the hot-page tracker (R42) -/
  hot : Bool
deriving DecidableEq, Repr

/-- The home translation unit (R34 to R42). buffer lists pages by OFFSET[45:16] with their entries. -/
structure Xlate where
  htbase : W64
  buffer : List (BitVec 30 × W64)
  cmdSize : BitVec 2
  cmdPage : BitVec 30
  change : Option HtChange
  hpEn : Bool
  hpThresh : BitVec 16
  hpEpoch : BitVec 8
  hpSample : BitVec 4
  hpSeen : Nat
  /-- the cycle of the last halving (R42) -/
  hpSince : Nat
  hpTable : List (BitVec 30 × Nat)
  hpskip : W64
  hpprom : W64
  /-- the control cores' free queues: frames of HBM and of the second tier (R41, R42) -/
  freeFrames : List (BitVec 24)
  freeFrames2 : List (BitVec 24)
  integrity : Nat
  migration : Option Migration
  /-- pages of other agents that their homes have said lie in the second tier: first IA and SIZE (log entry 53) -/
  farTier2 : List (BitVec 56 × BitVec 2)
deriving DecidableEq, Repr

/-- What a transaction of the coherence protocol asks for (R54 to R56). -/
inductive ReqKind where
  | readShared | readOwn | upgrade | writeBack | homeRead | homeExcl | readUnc | ownUnc | ownAtom
deriving DecidableEq, Repr

/-- A transaction of a home slice or a request of a local slice (R47 to R58). -/
structure Txn where
  line : BitVec 50
  kind : ReqKind
  src : BitVec 10
  req : BitVec 10
  txn : BitVec 12
  ticket : Option (BitVec 16)
  /-- InvAcks outstanding, and the agents they are to come from -/
  acks : Nat
  ackFrom : List (BitVec 10)
  /-- the holder a Forward of the transaction went to, and what its InvAck said -/
  fwdTo : Option (BitVec 10)
  dirtyAck : Bool
  nocopy : Bool
  /-- a Forward's data that comes to the home is outstanding -/
  waitData : Bool
  /-- at a requester: an Invalidate came first, so the line is not installed (R58) -/
  inval : Bool
  /-- at a requester: data that came with FWD and waits for DONE (R53) -/
  held : Option LineData
  mask : BitVec 64
  data : LineData
  /-- ReadOwn with ATOM: operation, bytes, offset in the line, operands -/
  atom : Option (AtomOp × Nat × Nat × W64 × W64)
  /-- at a requester: the core's access that it serves -/
  acc : Option Nat
  /-- at a requester: DONE has come without the line, which a holder's Data with FWD still brings (R55) -/
  granted : Bool
  /-- an engine's request, which R1 counts among the 2,048 of the copy channels, and the number plus one of the channel whose request
  it is, 1,024 of each (R77) -/
  eng : Bool
  chan : Nat
  /-- an engine's uncached read: the bytes are for work of the core issued before its access with this number alone (R88, R281) -/
  bar : Option Nat
deriving DecidableEq, Repr

/-- A line whose bytes an engine has read uncached and not used yet (R56): the channel that asked (0 for another engine), and the core's
acquire that its bytes are older than, by its access number, if any (R88, R281). -/
structure UncLine where
  line : BitVec 50
  chan : Nat
  bar : Option Nat
deriving DecidableEq, Repr

/-- Local-slice states of a line homed elsewhere (R47). -/
inductive LState where | shared | exclusive | modified | owned
deriving DecidableEq, Repr

/-- What the home slice knows of a line of this die (R44 to R48, R65, R286). -/
structure HomeLine where
  line : BitVec 50
  tag : BitVec 16
  dirty : Bool
  stale : Bool
  /-- R286: offset, size and core of the last strong access; the core by its agent and its number on the die -/
  mixed : Option (Nat × Nat × Nat)
deriving DecidableEq, Repr

/-- A refused request to be resent with its ticket (R52). -/
structure Resend where
  line : BitVec 50
  ticket : BitVec 16
  due : Nat
deriving DecidableEq, Repr

/-- A line answered with an Error that not every requester has taken yet (R20, R22): ERR, and whether an engine asked for it. -/
structure BadLine where
  line : BitVec 50
  err : BitVec 4
  eng : Bool
deriving DecidableEq, Repr

/-- What the L2 records of the L1s and instruction caches that hold a line (R46, R64): up to two cores by core-in-die, or one bit
for each cluster. -/
inductive Holders where
  | cores (l : List (BitVec 8))
  | clusters (v : BitVec 17)
deriving DecidableEq, Repr

/-- The coherence state of the die (R44 to R61). -/
structure Coherence where
  home : List HomeLine
  localLines : List (BitVec 50 × LState)
  txns : List Txn
  waiting : List Txn
  /-- requests of this die's local slices outstanding at other homes -/
  requests : List Txn
  /-- masked writes of engines to other homes that wait for room among the requests, or for an earlier request of their line -/
  later : List Txn
  next : Vector (BitVec 16) 48
  serve : Vector (BitVec 16) 48
  serveSince : Vector Nat 48
  resends : List Resend
  /-- Forwards that wait for the DONE of this agent's own transaction (R58) -/
  heldFwds : List Coh
  /-- lines whose bytes engines have read uncached and not used yet (R56) -/
  uncLines : List UncLine
  /-- lines that have been sent for one use by the instruction fetch (R58, R65) -/
  onceLines : List (BitVec 50)
  badLines : List BadLine
  /-- holders of the lines of the L2 (R46) -/
  holders : List (BitVec 50 × Holders)
  /-- the way of each line of the L2 in its set, and the tree of each set (R62) -/
  ways : List (BitVec 50 × Nat)
  trees : List (Nat × BitVec 15)
  /-- transactions that ended without the line while this agent held a copy: a holder's Data may still come (R55) -/
  lateFwds : List (BitVec 50 × BitVec 12)
  cohint : W64
  cohtkt : W64
  verified : List (BitVec 49)
  /-- ways of L2 slices that R379 has disabled: slice and way -/
  deadWays : List (Nat × Nat)
deriving DecidableEq, Repr

/-- A snapshot of a sequence (R99, R102). -/
structure Snapshot where
  pos : BitVec 32
  pinned : Bool
  /-- chunks copied aside for it, by their place in the arena, and whether each takes a held chunk of it (log entry 12) -/
  chunks : List (Nat × Nat × Bool)
deriving DecidableEq, Repr

/-- A sequence of the Grotto store (R94 to R103). -/
structure Seq where
  handle : BitVec 20
  gen : BitVec 6
  /-- in chunks of 512 bytes -/
  size : Nat
  /-- the chunks of its live state that have been written, by their place in the arena -/
  chunks : List (Nat × Nat)
  /-- chunks a fork still shares with its parent (R99, R101) -/
  shared : List Nat
  /-- the Flowstone ring, oldest first -/
  ring : List Snapshot
deriving DecidableEq, Repr

/-- A chunk that the Grotto cache holds (R94): its place in the arena, its bytes, and whether they have changed since the arena had
them. -/
structure Chunk where
  place : Nat
  bytes : List Byte
  dirty : Bool
deriving DecidableEq, Repr

/-- The Grotto controller of the die (R94 to R105). -/
structure Grotto where
  en : Bool
  sizeG : BitVec 16
  base : W64
  ring : W64
  spill : W64
  gens : List (BitVec 20 × BitVec 6)
  seqs : List Seq
  /-- the chunks in the Grotto cache, most recently used first -/
  store : List Chunk
  /-- ways of the Grotto cache that R379 has disabled: bank and way -/
  deadWays : List (Nat × Nat)
deriving DecidableEq, Repr

/-- A group table entry (R369). -/
structure Group where
  w0 : W64
  w1 : W64
  members : List (BitVec 10)
deriving DecidableEq, Repr

/-- What another member has posted: its descriptor, its source array, and the HASH its post carries (R180, R369). -/
structure PeerPost where
  agent : BitVec 10
  desc : Rec
  bytes : List Byte
  hash : W32
deriving DecidableEq, Repr

/-- A collective as the engine holds it (R180, R370). entry is known once the descriptor has been read. -/
structure Coll where
  entry : Option (BitVec 8)
  post : Option CollPost
  desc : Option Rec
  /-- the checks of this member's own post have passed -/
  checked : Bool
  probes : List (BitVec 56 × Option ProbeReply)
  /-- this member's STATUS where the collective has failed -/
  fail : Option (BitVec 8)
  peers : List PeerPost
  running : Bool
  /-- this member's source array, once it has been read -/
  mine : Option (List Byte)
  /-- the chunks of DST that have been written (R370) -/
  moved : Nat
  /-- the members that a collective which has begun runs with (R369) -/
  members : List (BitVec 10)
  /-- it has ended at this member; it stays until every other member's post to it has come (R369) -/
  done : Bool
  /-- its DST has been written here, the others have been told that the writes are performed, and the members that have told so
  (R282) -/
  wrote : Bool
  told : Bool
  others : List (BitVec 10)
deriving DecidableEq, Repr

/-- An armed collective (R181). -/
structure Arm where
  post : CollPost
  flagIa : BitVec 56
  /-- its line was invalidated or stored to, so the flag is read again -/
  changed : Bool
deriving DecidableEq, Repr

/-- The collective engine of the die (R180, R181, R369, R370). -/
structure CollEng where
  groups : List (Nat × Group)
  colls : List Coll
  arms : List Arm
  /-- writes of entries that have not taken effect: entry, w0, w1 (R369) -/
  deferred : List (Nat × W64 × W64)
deriving DecidableEq, Repr

/-- A waiting record of a dispatcher FIFO (R295, R297, R300). -/
structure FifoRec where
  record : Rec
  since : Nat
  /-- any core of the die may take it (R297) -/
  anyCore : Bool
  /-- its effective priority (R300) -/
  eff : Nat
  /-- in the return store: it goes to the head of its level -/
  toHead : Bool
  /-- the window set registered with it (R293) -/
  win : Option (Vector W64 24)
deriving DecidableEq, Repr

/-- A message in the overflow of a gang (R308): the rank it is for, its slot of 256 bytes at OVFBASE, and the message. -/
structure OvfMsg where
  rank : BitVec 16
  slot : Nat
  msg : Msg
deriving DecidableEq, Repr

/-- A gang table entry (R305) with the members that have been queued, have reservations, or have ended. -/
structure Gang where
  w0 : W64
  w1 : W64
  queued : List (BitVec 16)
  placing : Option Nat
  reservedRanks : List (BitVec 16)
  placed : Bool
  ended : List (BitVec 16)
  /-- subdomains that members which have ended had entered: rank, level, SID (R264) -/
  endedSubs : List (BitVec 16 × BitVec 3 × BitVec 16)
  /-- the overflow, oldest first (R308) -/
  overflow : List OvfMsg
  /-- the highest PRIO of the members queued at other dies (R306) -/
  remotePrio : Nat
  /-- the cluster that a placed gang of level 1 runs in (R305) -/
  cluster : Option Nat
deriving DecidableEq, Repr

/-- What the dispatcher sees of another core of the die (R296, R299). -/
structure Peer where
  cid : BitVec 8
  free : Bool
  offline : Bool
  prio : BitVec 7
  gang : Bool
  domain : BitVec 16
  endPending : Bool
  startTick : Nat
  reserved : Option (BitVec 16 × BitVec 16)
  deque : List DequeRec
  victim : Bool
  /-- the cycle its task's quantum runs from, and whether it has issued 256 bundles since its restore (R301) -/
  since : Nat
  ready : Bool
  /-- its free granules (R72), and its deque overflow area, oldest first (R70) -/
  free60 : List Nat
  ovf : List DequeRec
deriving DecidableEq, Repr

/-- A parked task (R303): its record, what it waits for, and the barrier level or the selection word. -/
structure Parked where
  record : Rec
  kind : WaitKind
  arg : W64
  /-- the cycles it has waited that count against BARTIMEOUT (R266) -/
  waited : Nat
  /-- of a task that restarts from its position, and so has no context (R105): the SID of its barrier, whether the phase it waits for is
  complete, and the window set registered with its record -/
  sid : BitVec 16
  phaseEnd : Bool
  win : Option (Vector W64 24)
deriving DecidableEq, Repr

/-- A position restart whose roll has not been answered (R105): the record, whether it goes to the head of its level, whether the other
die's controller has been asked, its window set (R293), and, where its task was parked, what it waits for (R303). -/
structure Restart where
  record : Rec
  toHead : Bool
  asked : Bool
  win : Option (Vector W64 24)
  park : Option Parked
deriving DecidableEq, Repr

/-- Members of a barrier that have arrived (R264): domain, level, SID of a subdomain, COUNT, ranks. -/
structure Arrivals where
  domain : BitVec 16
  level : BitVec 3
  sid : BitVec 16
  count : Nat
  members : List (BitVec 16)
deriving DecidableEq, Repr

/-- The dispatcher of the die (R295 to R309). -/
structure Dispatcher where
  /-- FIFO records of all levels, in order of arrival within a level -/
  fifo : List FifoRec
  returns : List FifoRec
  gangs : List Gang
  peers : List Peer
  parked : List Parked
  arrivals : List Arrivals
  /-- window sets registered for code ranges (R293); one registered with a record stands with that -/
  windows : List (Nat × Nat × Vector W64 24)
  /-- contexts in their slots (R352) -/
  slots : List (W64 × Ctx)
  /-- position restarts under way (R105) -/
  restarts : List Restart
  /-- waiting records that have caused a rotation in a cycle, or were returned by one in it (R301) -/
  rotated : List (Nat × Rec)
deriving DecidableEq, Repr

/-- Scoreboard states of a handle (R321); for FILLING also whether every writer carries ACC (R322). -/
inductive Hold where
  | empty
  | filling (w : Nat) (acc : Bool)
  | ready (n : Nat)
deriving DecidableEq, Repr

/-- A buffer of a loaded program (R312): its VA, its bytes as the loader rounded them up, SHMODE, SHAXIS, and whether it is
filled at the start (ARGS or INIT). -/
structure Buffer where
  va : W64
  bytes : Nat
  mode : BitVec 2
  axis : Nat
  filled : Bool
deriving DecidableEq, Repr

/-- A tensor (R313). dims are the words of the entry, DIM0 first, symbols included. -/
structure Tensor where
  fmt : Nat
  rank : Nat
  layout : Nat
  buf : BitVec 16
  dims : List (BitVec 32)
  /-- its storage: VA and bytes; none for a handle without storage (R318) -/
  storage : Option (W64 × Nat)
  /-- its scoreboard entry; that of its source for a VIEW (R321) -/
  entry : Nat
  /-- how the agents share it: SHMODE and the axis (R312, R327) -/
  mode : BitVec 2
  axis : Nat
  /-- the ranks' blocks that its storage holds one after another, and the axis they divide (R327); 1 for one whole block -/
  blkAxis : Nat
  blocks : Nat
  /-- split, but its storage holds the whole axis (R327) -/
  whole : Bool
  /-- rows per page, for a page pool that DISPATCH has filled (R328) -/
  pageRows : Nat
deriving DecidableEq, Repr

/-- A kernel of a loaded program (R314): the VA range of its native code, its entry, and the fields of its entry. -/
structure Kernel where
  lo : W64
  hi : W64
  entry : W64
  gran : BitVec 8
  posr : Bool
  /-- native bundle address against the lowest list entry in the bundle (R161) -/
  table : List (W64 × Nat)
deriving DecidableEq, Repr

/-- A program that the loader has accepted (R311 to R316): where its image is, what it declares, and what the loader and the
firmware chose: the OFF of its windows on this agent, its workspace, its buffers, and the domains of its gang KCALLs. -/
structure Program where
  image : W64
  code : List Byte
  entry : Nat
  agents : Nat
  group : BitVec 8
  seqs : Nat
  off : W64
  workspace : W64
  wsBytes : Nat
  buffers : List Buffer
  tensors : List Tensor
  kernels : List Kernel
  recipes : List (BitVec 8 × List W64)
  /-- the word of the recipe store where its recipes begin, one after another (R324) -/
  recipeBase : Nat
  domains : List (Nat × BitVec 16)
deriving DecidableEq, Repr

/-- A tensor as an operator reads or writes it on this agent. first and len are the part of the axis that the storage holds,
lo and count the part that is this agent's. -/
structure View where
  va : W64
  bytes : Nat
  fmt : Nat
  layout : Nat
  dims : List Nat
  axis : Nat
  first : Nat
  len : Nat
  blkAxis : Nat
  blocks : Nat
  lo : Nat
  count : Nat
  pageRows : Nat
deriving DecidableEq, Repr

/-- A collective that the sequencer runs for an operator (R319, R325, R327): w0 of its descriptor, the elements COUNT, and the
axis whose slices the source is arranged by before, with their number. -/
structure CollPlan where
  w0 : W64
  count : Nat
  arrange : Option (Nat × Nat)
deriving DecidableEq, Repr

/-- An operator between decode and completion (R322 to R325). -/
structure Oper where
  id : Nat
  addr : Nat
  op : Nat
  bc : BcWord
  /-- DST, SA, SB, and the handles its attribute words name; none for handle 0 -/
  views : List (Option View)
  /-- the scoreboard entries it reads, and the ones it writes -/
  reads : List Nat
  writes : List Nat
  issued : Bool
  /-- DST held a value when it issued -/
  held : Bool
  /-- its tile work has been done, or its recipe has ended -/
  ran : Bool
  /-- VA of its completion block and of its operand block (R323, R325) -/
  block : W64
  operands : W64
  /-- the words of its recipe, the next one, and the open loops: position, counter, count (R325) -/
  recipe : List W64
  pos : Nat
  loops : List (Nat × Nat × Nat)
  q : Vector W64 16
  /-- workspace temporaries: VA and bytes -/
  temps : List (W64 × Nat)
  /-- descriptors of its collectives that have not ended -/
  colls : List W64
  plan : Option CollPlan
  /-- an index was out of range (R319, R329) -/
  badIndex : Bool
  /-- what it has asked of the other die's Grotto controller, in order: the sequence word, the chunk or the element, and the answer once it
  has come: 0 with the bytes of a chunk or of a status word, or the CAUSE.CODE of what fails (R97, R100) -/
  asked : List (W64 × Nat × Option (Nat × List Byte))
deriving DecidableEq, Repr

/-- A report of the sequencer (R330, R332). -/
structure Report where
  addr : W64
  opcode : BitVec 8
  cause : BitVec 8
  handle : BitVec 16
  tile : W64
  detail : W64
deriving DecidableEq, Repr

/-- A program that runs (R318, R321, R322). -/
structure Launch where
  prog : Program
  pc : Nat
  symbols : Vector W64 256
  /-- open LOOPs, innermost first: the address of the body and the passes left -/
  loopStack : List (Nat × Nat)
  callStack : List Nat
  tensors : List Tensor
  scoreboard : List Hold
  /-- operators in program order: those in the window and those issued -/
  opers : List Oper
  nextOp : Nat
  /-- workspace in use: VA and bytes -/
  wsUsed : List (W64 × Nat)
  ended : Bool
deriving DecidableEq, Repr

/-- The operator sequencer (R311 to R332). -/
structure Sequencer where
  busy : Bool
  fault : Bool
  lost : Nat
  rank : BitVec 10
  prio : BitVec 7
  sqimg : W64
  sqrep : Vector W64 8
  reports : List Report
  /-- causes that have not reached the sequencer yet, oldest first, with the completion block of the operator concerned (R331) -/
  raised : List (Report × W64)
  programs : List Program
  run : Option Launch
  /-- operators whose notice has come (R323) -/
  notices : List W64
  /-- the last program was stopped by R331 -/
  stopped : Bool
  /-- the images of the programs that R331 has stopped and that have not been started again: their records are discarded -/
  halted : List W64
  /-- R324: the words of the recipe store that hold a program's recipes, by word number, rising -/
  recipeStore : List (Nat × W64)
deriving DecidableEq, Repr

/-- A direction of a Toesque port each way (R362 to R368). rates are the last ones received for each virtual channel, sent the
flits of each since the cycle of the interval's start (R365). -/
structure Port where
  up : Bool
  training : Bool
  nextSeq : BitVec 12
  expSeq : BitVec 12
  replay : List Flit
  naks : Nat
  rates : Vector (Option (BitVec 16)) 8
  sent : Vector Nat 8
  since : Nat
  /-- flits received and not passed on yet, oldest first (R365) -/
  queue : List Flit
  /-- new flits that wait for room or for their rate, oldest first, and how many of the last kept flits are to be sent again (R364, R365) -/
  held : List Flit
  resend : Nat
deriving DecidableEq, Repr

/-- Links of the package (R362 to R368): the 36 ports and, last, the die-to-die link; TQROUTE by chip id; the counters; the
agents whose chips TQROUTE configures. -/
structure Links where
  ports : Vector Port 37
  routes : List (Nat × W64)
  tqint : Vector W64 37
  configured : List (BitVec 10)
deriving DecidableEq, Repr

/-- Bring-up, security and health (R374 to R382). -/
structure Boot where
  ready : Bool
  safe : Bool
  degr : Bool
  step : BitVec 8
  code : BitVec 8
  unit : BitVec 16
  /-- the hash of the vendor root key that the boot ROM holds in fuses (R376) -/
  fuses : BitVec 384
  mreg : Vector (BitVec 384) 4
  mlog : List (Nat × BitVec 384)
  turnovers : Nat
  quoted : Bool
  errCount : BitVec 16
  errSpan : BitVec 40
  /-- correctable events: the unit, the cycle, and in a cache the way, newest first (R378) -/
  events : List (Nat × Nat × Nat)
  lasting : List Nat
  draws : Nat
  powerStage : BitVec 2
  /-- clusters' matrix arrays by package core number: gated, and waiting for a group of wake-ups (R382) -/
  gated : List (BitVec 9)
  waking : List (BitVec 9)
  /-- the cycle the array of this core last finished in, and that of the last group of wake-ups -/
  arraySince : Nat
  wakeSince : Nat
deriving DecidableEq, Repr

/-- One compute die with the package parts that serve it. -/
structure DieSt where
  /-- global memory as every agent of this model sees it, by IA (R278, R280) -/
  mem : Memory
  /-- lines written back to DRAM, by the address within the tier and the tier (true for the second tier) -/
  dram : List (Nat × Bool × DramLine)
  errors : List ErrRec
  keys : KeyUnit
  bpSel : BitVec 2
  park : Vector ParkEntry 4
  xlate : Xlate
  coh : Coherence
  grotto : Grotto
  coll : CollEng
  disp : Dispatcher
  seq : Sequencer
  links : Links
  boot : Boot
  /-- the weights of the monitor's last BWSET on a core of the die, which apply to migration (R182) -/
  migr : Weights
deriving DecidableEq, Repr

/-- A coherence message kind (R49). -/
inductive CohOp where
  | readShared | readOwn | upgrade | writeBack | readSharedUnc | readOwnUnc | readOwnAtom
  | forward | invalidate | invAck | data | error
deriving DecidableEq, Repr

/-- What this machine sends to the outside: other agents, other cores, the control cores, the host. -/
inductive OutMsg where
  | coh (op : CohOp) (dst : BitVec 10) (m : Coh) (err : BitVec 4) (mask : BitVec 64)
      (atom : Option (AtomOp × Nat × Nat × W64 × W64))
  | strongCheck (dst : BitVec 10) (ia : BitVec 56) (size : Nat) (cid : BitVec 8)
  /-- a Grotto command for the other die's controller, by the number of its scoreboard record, and a status word for a core (R97, R98) -/
  | grotto (dst : BitVec 10) (id : Nat) (op : BitVec 7) (w : W64) (ext : W32)
  | grottoStatus (id : Nat) (v : W64)
  /-- a CPYST at the other die's controller: the check of its range, the read of a chunk, the write of one; and the answers (R100) -/
  | stateAsk (dst : BitVec 10) (ch : BitVec 2) (w : W64) (off len : Nat)
  | chunkAsk (dst : BitVec 10) (ch : BitVec 2) (piece : Nat) (w : W64) (chunk : Nat)
  | chunkPut (dst : BitVec 10) (ch : BitVec 2) (piece : Nat) (w : W64) (chunk : Nat) (data : List Byte)
  | stateAnswer (id : Nat) (code : Nat)
  | chunkData (id : Nat) (data : List Byte)
  | chunkDone (id : Nat) (code : Nat)
  /-- the status of a Grotto command that an uncorrectable arena read has ended (R101) -/
  | grottoFailed (id : Nat)
  /-- the other die's controller is asked whether a sequence holds a snapshot, and to roll it to the newest one (R105) -/
  | posAsk (dst : BitVec 10) (w : W64)
  | rollNewest (dst : BitVec 10) (w : W64)
  | strongReply (dst : BitVec 10) (ia : BitVec 56) (size : Nat) (cid : BitVec 8) (ok : Bool)
  | promote (dst : BitVec 10) (ia : BitVec 56)
  | probe (dst : BitVec 10) (ia : BitVec 56)
  | probeReply (dst : BitVec 10) (ia : BitVec 56) (r : ProbeReply) (tier2 : Bool)
  | filterInv (pod : Bool) (page : BitVec 30) (size : BitVec 2) (all : Bool)
  | filterAck (ia : BitVec 56)
  | message (rank : BitVec 16) (m : Msg)
  | bulk (rank tag : BitVec 16) (data : List Byte)
  | spawnOut (cid : BitVec 8) (r : Rec)
  /-- what the collective engines tell each other: a post, a source array, an end with another STATUS, DST writes performed (R180, R282) -/
  | collPost (member : BitVec 10) (d : Rec) (hash : W32)
  | collData (member : BitVec 10) (entry : BitVec 8) (bytes : List Byte)
  | collDone (member : BitVec 10) (status : BitVec 8)
  | collWrote (member : BitVec 10) (entry : BitVec 8)
  | flit (port : BitVec 6) (f : Flit)
  | nak (port : BitVec 6) (seq : BitVec 12)
  | readData (v : W64)
  | unsupported
  | quote (bytes : List Byte) (sig : BitVec 768)
  | preemptPeer (cid : BitVec 8)
  /-- a gang is pre-empted on every die; its records go to the head of their levels, or to the tail (R307) -/
  | preemptGang (domain : BitVec 16) (toHead : Bool)
  /-- another core is asked to write an image out to its slot (R352) -/
  | imageAsk (core : BitVec 9) (va : W64)
  | tagWrite (ia : BitVec 56) (tag : W64)
  | report (r : Report)
  /-- R316: the failing check and its byte offset; cause is 5 (RECIPE) where a recipe is refused, else 0 (R326) -/
  | loadRefused (code offset cause : Nat)
  | deliver (f : Flit)
  | doorbell (offset : Nat) (v : W64)
  | programStopped
deriving DecidableEq, Repr

/-- The state of the machine. inputs, arg, outbox, tick and cycle are the model's own: what the outside will do next, the
data of the step being taken, what has been sent, and two counters. -/
structure State where
  core : CoreSt
  die : DieSt
  inputs : List (Instr × EventArg)
  arg : EventArg
  outbox : List OutMsg
  /-- counts the steps; the free values of Config are applied to it -/
  tick : Nat
  /-- core cycles -/
  cycle : Nat
deriving DecidableEq, Repr

/-- Why the machine stops for good. -/
inductive Fault where
  /-- step, in the safe state with no outside event waiting: the compute dies are unpowered (R375). Safe: the spec says
  that nothing runs there. -/
  | unpowered
deriving DecidableEq, Repr

/-- Why a step has no meaning in the model. -/
inductive Refusal where
  /-- exec's arm of an instruction the model gives no meaning yet, by its mnemonic. Safe: nothing can be proved of it. -/
  | notModelled (mnemonic : String)
deriving DecidableEq, Repr

/-! ## Reset: the Reset column of every register map; what no rule gives is named in log entry 33. -/

def resetRegs : Regs :=
  { s := Vector.replicate 64 0, v := Vector.replicate 64 0, p := Vector.replicate 32 0, ms := Vector.replicate 64 0
    mp := Vector.replicate 32 0, t := Vector.replicate 8 0, acc0 := Vector.replicate 128 0, acc1 := Vector.replicate 128 0
    ka := 0, kb := 0 }

def resetSys : Sys :=
  { cause := 0, fmask := 0, faddr := 0, tstate := 0, mentry := 0, vrm := 0, fpsr := 0, thr := 0, qcnt := 0, lpw := 0, lpe := 0
    hintdrop := 0, collide := 0, win := Vector.replicate 24 0, spw := Vector.replicate 4 0, dommem := 0x0001000000000000, taskid := 0
    sliceSel := 0, quant := Vector.replicate 128 0x00100000, age := 0, preemptDelta := 0, waitpark := 0x00010000
    bartimeout := 0x0000000040000000, mxlive := 0 }

def resetStream : Stream := ⟨0, 0, 0, 0, none, none, none⟩
def resetAsyncs : Asyncs :=
  { memErr := [], debugHalt := none, copyFault := false, grottoFault := none, operator := none, barTimeout := none
    mailbox := false, timer := false, preempt := none }
def resetBar : BarLevel := ⟨0, false, false, 0, false⟩

/-- A core in reset (R374): nothing runs until the control cores bring it up. -/
def resetCore : CoreSt :=
  { agent := 0, cid := 0, run := .reset, mon := false, regs := resetRegs, sys := resetSys, pcq := resetStream
    mstream := resetStream, pipe := [], snap := [], awaits := [], nextId := 0, accs := [], accSeq := 0, divBusy := 0
    fdivBusy := 0, fBusy := 0, bankWait := 0, mEnd := .none, mDue := 0, joinReq := none, asyncs := resetAsyncs, latch := false
    posr := none, waiting := .none, waitArg := 0, waitCycles := 0, wfeCycles := 0, barCycles := 0, quantumUsed := 0, bundlesSince := 0
    probes := [], needs := [], strong := [], filter := [], deferInv := [], ls := Vector.replicate 8 (Vector.replicate 12 0)
    bank0 := Vector.replicate 8 (Vector.replicate 12 0), bank1 := Vector.replicate 8 (Vector.replicate 12 0), bankNow := 0
    ab := Vector.replicate 16 0, sem := Vector.replicate 256 0, channels := Vector.replicate 4 ⟨[], none, 0, []⟩, posts := []
    posted := [], mbox := [], spill := [], outMail := [], outFull := false, mxQueue := [], mxRun := none, l1 := [], prefs := [], hints := []
    icache := [], pins := [], spad := [], granules := Vector.replicate 64 .free, task := none, taskGranules := []
    bars := Vector.replicate 8 resetBar, weights := ⟨0x8888, 0x8888, 0x8888, 0x8888⟩, mxLeft := 0, freeing := [], deque := [], dequeOvf := []
    saveArea := none, btc := [], reserved := none, restoring := none, restoreLeft := none, leaving := [], drawn := 0, linkDue := none, spillMove := none, offline := false }

/-- Another core of the die before it is brought up: no record goes there. -/
def resetPeer (cid : Nat) : Peer :=
  { cid := BitVec.ofNat 8 cid, free := false, offline := true, prio := 0, gang := false, domain := 0, endPending := false
    startTick := 0, reserved := none, deque := [], victim := false, since := 0, ready := false
    free60 := List.range 60, ovf := [] }

def resetPark : ParkEntry := ⟨false, false, 0, false, 0, 0, 0, 0, [], 0, []⟩
def resetPort : Port := ⟨false, false, 0, 0, [], 0, Vector.replicate 8 none, Vector.replicate 8 0, 0, [], [], 0⟩
def resetSeq : Sequencer :=
  { busy := false, fault := false, lost := 0, rank := 0, prio := 0, sqimg := 0, sqrep := Vector.replicate 8 0, reports := []
    raised := [], programs := [], run := none, notices := [], stopped := false, halted := [], recipeStore := [] }
def resetXlate : Xlate :=
  { htbase := 0, buffer := [], cmdSize := 0, cmdPage := 0, change := none, hpEn := false, hpThresh := 64, hpEpoch := 20
    hpSample := 6, hpSeen := 0, hpSince := 0, hpTable := [], hpskip := 0, hpprom := 0, freeFrames := [], freeFrames2 := [], integrity := 0, migration := none, farTier2 := [] }
def resetCoh : Coherence :=
  { home := [], localLines := [], txns := [], waiting := [], requests := [], later := [], next := Vector.replicate 48 0
    serve := Vector.replicate 48 0, serveSince := Vector.replicate 48 0, resends := [], heldFwds := [], uncLines := [], onceLines := []
    badLines := [], holders := [], ways := [], trees := [], lateFwds := [], cohint := 0, cohtkt := 0, verified := [], deadWays := [] }
def resetBoot : Boot :=
  { ready := false, safe := false, degr := false, step := 0, code := 0, unit := 0, fuses := Config.vendorHash, mreg := Vector.replicate 4 0, mlog := []
    turnovers := 0, quoted := false, errCount := 8, errSpan := 0x00E14E3900, events := [], lasting := [], draws := 0
    powerStage := 0, gated := [], waking := [], arraySince := 0, wakeSince := 0 }
def resetGrotto : Grotto := { en := false, sizeG := 0, base := 0, ring := 0, spill := 0, gens := [], seqs := [], store := [], deadWays := [] }
def resetDisp : Dispatcher :=
  { fifo := [], returns := [], gangs := [], peers := (List.range 135).map fun i => resetPeer (i + 1), parked := [], arrivals := []
    windows := [], slots := [], restarts := [], rotated := [] }

def resetDie : DieSt :=
  { mem := [], dram := [], errors := [], keys := ⟨false, false, false, 0, 0, Vector.replicate 8 0, []⟩, bpSel := 0
    park := Vector.replicate 4 resetPark, xlate := resetXlate, coh := resetCoh, grotto := resetGrotto
    coll := ⟨[], [], [], []⟩, disp := resetDisp, seq := resetSeq
    links := ⟨Vector.replicate 37 resetPort, [], Vector.replicate 37 0, [0, 1]⟩, boot := resetBoot
    migr := ⟨0x8888, 0x8888, 0x8888, 0x8888⟩ }

/-- The machine at power-on, before the first step of R374: nothing is loaded and no core is out of reset. -/
def State.reset : State := { core := resetCore, die := resetDie, inputs := [], arg := EventArg.blank, outbox := [], tick := 0, cycle := 0 }

end Sys2Proof.Machine
end

