-- ==== Sys2Proof/Machine/Ops.lean ====
section
/-! DEFINITION. The named operations over memory, registers and the pipeline: byte stores, register banks, guards,
landing of results, and the counters of a cycle. -/
namespace Sys2Proof.Machine

/-! ## Byte stores -/

/-- What an address that is not listed reads as (R72, R280). -/
def Memory.unlisted : Byte := 0

/-- The byte at an address. -/
def Memory.read : Memory → Nat → Byte
  | [], _ => Memory.unlisted
  | (b, x) :: m, a => if a = b then x else if a < b then Memory.unlisted else Memory.read m a

/-- Put a byte in, keeping the canonical form. -/
def Memory.write : Memory → Nat → Byte → Memory
  | [], a, y => if y = Memory.unlisted then [] else [(a, y)]
  | (b, x) :: m, a, y =>
    if a = b then (if y = Memory.unlisted then m else (a, y) :: m)
    else if a < b then (if y = Memory.unlisted then (b, x) :: m else (a, y) :: (b, x) :: m)
    else (b, x) :: Memory.write m a y

/-- Canonical form above a bound: addresses rise strictly and no entry equals what an unlisted byte reads as. -/
def Memory.wfFrom : Nat → Memory → Bool
  | _, [] => true
  | lo, (a, x) :: m => decide (lo ≤ a) && decide (x ≠ Memory.unlisted) && Memory.wfFrom (a + 1) m

/-- The canonical form. -/
def Memory.wf (m : Memory) : Bool := Memory.wfFrom 0 m

/-- n bytes from an address up. -/
def Memory.readN (m : Memory) (a : Nat) : Nat → List Byte
  | 0 => []
  | n + 1 => m.read a :: Memory.readN m (a + 1) n

/-- A little-endian number of n bytes (R5). -/
def Memory.readNum (m : Memory) (a n : Nat) : Nat := ofBytes (m.readN a n)

/-- Bytes written one after another from an address up. -/
def Memory.writeBytes (m : Memory) (a : Nat) : List Byte → Memory
  | [] => m
  | b :: bs => Memory.writeBytes (m.write a b) (a + 1) bs

/-- Bytes written at listed addresses, in list order. -/
def Memory.writeCells (m : Memory) : List (Nat × Byte) → Memory
  | [] => m
  | (a, b) :: cs => Memory.writeCells (m.write a b) cs

/-- n zero bytes written from an address up. -/
def Memory.clear (m : Memory) (a n : Nat) : Memory := m.filter fun c => decide (c.1 < a) || decide (a + n ≤ c.1)

/-- The cells of two byte stores that differ, with the bytes of the first (both canonical), with fuel. -/
def memDiff : Nat → Memory → Memory → Memory
  | 0, _, _ => []
  | _ + 1, [], [] => []
  | n + 1, (a, x) :: m, [] => (a, x) :: memDiff n m []
  | n + 1, [], (b, _) :: k => (b, 0) :: memDiff n [] k
  | n + 1, (a, x) :: m, (b, y) :: k =>
    if a = b then (if x = y then memDiff n m k else (a, x) :: memDiff n m k)
    else if a < b then (a, x) :: memDiff n m ((b, y) :: k)
    else (b, 0) :: memDiff n ((a, x) :: m) k

/-! ## Updates of parts of the state -/

def State.upCore (s : State) (f : CoreSt → CoreSt) : State := { s with core := f s.core }
def State.upRegs (s : State) (f : Regs → Regs) : State := { s with core := { s.core with regs := f s.core.regs } }
def State.upSys (s : State) (f : Sys → Sys) : State := { s with core := { s.core with sys := f s.core.sys } }
def State.upDie (s : State) (f : DieSt → DieSt) : State := { s with die := f s.die }
def State.send (s : State) (m : OutMsg) : State := { s with outbox := s.outbox ++ [m] }
def State.setMem (s : State) (m : Memory) : State := { s with die := { s.die with mem := m } }
def State.setSpad (s : State) (m : Memory) : State := { s with core := { s.core with spad := m } }

/-! ## Register banks -/

/-- R136, R336: a scalar register of the running level; s0 reads as zero. -/
def readS (s : State) (r : BitVec 6) : W64 :=
  if r = 0 then 0
  else if s.core.mon then s.core.regs.ms.get r.toFin else s.core.regs.s.get r.toFin

/-- R136: a write to s0 is discarded. -/
def writeS (s : State) (r : BitVec 6) (x : W64) : State :=
  if r = 0 then s
  else if s.core.mon then s.upRegs fun g => { g with ms := g.ms.set r.toFin x }
  else s.upRegs fun g => { g with s := g.s.set r.toFin x }

/-- R136: a predicate of the running level; p0 and p16 read as all ones. -/
def readP (s : State) (r : BitVec 5) : W128 :=
  if r = 0 ∨ r = 16 then BitVec.allOnes 128
  else if s.core.mon then s.core.regs.mp.get r.toFin else s.core.regs.p.get r.toFin

def writeP (s : State) (r : BitVec 5) (x : W128) : State :=
  if r = 0 ∨ r = 16 then s
  else if s.core.mon then s.upRegs fun g => { g with mp := g.mp.set r.toFin x }
  else s.upRegs fun g => { g with p := g.p.set r.toFin x }

/-- R136, R137: a vector register by global number; both levels share them (R336). -/
def readV (s : State) (r : BitVec 6) : W1024 := s.core.regs.v.get r.toFin
def writeV (s : State) (r : BitVec 6) (x : W1024) : State := s.upRegs fun g => { g with v := g.v.set r.toFin x }

/-- R136: a tile parameter register. -/
def readT (s : State) (r : BitVec 3) : W64 := s.core.regs.t.get r.toFin
def writeT (s : State) (r : BitVec 3) (x : W64) : State := s.upRegs fun g => { g with t := g.t.set r.toFin x }

/-- R138: a scalar syllable's guard tests bit 0. -/
def guardOn (g : Guard) (s : State) : Bool := (readP s g.p).getLsbD 0 != g.neg

/-- The byte lanes a guard admits (R138): bit b of the result is set where the guard is true at bit b. -/
def guardLanes (g : Guard) (s : State) : W128 := if g.neg then ~~~(readP s g.p) else readP s g.p

/-- R137: the global number of a 5-bit vector field in a cluster. -/
def clV (c : Cl) (n : BitVec 5) : BitVec 6 :=
  match c with
  | .west => (0#1 ++ n : BitVec (1 + 5))
  | .east => (1#1 ++ n : BitVec (1 + 5))
/-- R137: the global number of a 4-bit predicate field in a cluster. -/
def clP (c : Cl) (n : BitVec 4) : BitVec 5 :=
  match c with
  | .west => (0#1 ++ n : BitVec (1 + 4))
  | .east => (1#1 ++ n : BitVec (1 + 4))
/-- R137: the cluster a V slot works in. -/
def slotCl : VSlot → Cl
  | .v0 => .west
  | .v1 => .east
  | .v2w => .west
  | .v2e => .east

/-- R137, R138: the lanes a cluster-local guard admits. -/
def vLanes (g : VGuard) (c : Cl) (s : State) : W128 := guardLanes ⟨g.neg, clP c g.p⟩ s

/-! ## Bytes and lanes of vectors -/

/-- A byte mask widened to bits: byte b of the result is all ones where bit b of the mask is set. -/
def widenMask (m : W128) : W1024 :=
  if m = BitVec.allOnes 128 then BitVec.allOnes 1024
  else BitVec.ofNat 1024 (ofBytes ((List.range 128).map fun b => if m.getLsbD b then (255 : Byte) else 0))

/-- The bytes of x where the mask is set, the bytes of old elsewhere. -/
def blend (old x : W1024) (m : W128) : W1024 :=
  let w := widenMask m
  (old &&& ~~~w) ||| (x &&& w)

/-- R7: bits [i·w + w - 1 : i·w]. -/
def lane (v : W1024) (i w : Nat) : Nat := (v.toNat >>> (i * w)) % 2 ^ w

/-- The low n bits set. -/
def lowMask (n : Nat) : W128 := BitVec.ofNat 128 (2 ^ n - 1)

/-- R138: the byte mask of the elements of e bytes below n whose guard bit i·e is set. -/
def elemMask (lanes : W128) (e n : Nat) : W128 :=
  BitVec.ofNat 128 ((List.range n).foldl
    (fun acc i => if lanes.getLsbD (i * e) then acc ||| ((2 ^ e - 1) <<< (i * e)) else acc) 0)

/-- A vector from the elements of w bits, element 0 first. -/
def packLanes (w : Nat) (xs : List Nat) : W1024 :=
  BitVec.ofNat 1024 (xs.foldr (fun x acc => acc <<< w ||| x % 2 ^ w) 0)

/-- The elements of w bits below n. -/
def unpackLanes (v : W1024) (w n : Nat) : List Nat := (List.range n).map fun i => lane v i w

/-! ## Status bits -/

/-- R119: flags enter FPSR and are never cleared by the hardware. -/
def orFlags (s : State) (f : BitVec 7) : State :=
  if f = 0 then s else s.upSys fun y => { y with fpsr := y.fpsr ||| f.setWidth 64 }

/-- R340: debug mode, single step, the pending end of the task and its delay bundles. -/
def dbgOn (s : State) : Bool := s.core.sys.tstate.getLsbD 4
def stepOn (s : State) : Bool := s.core.sys.tstate.getLsbD 5
def pendEnd (s : State) : BitVec 2 := s.core.sys.tstate.extractLsb' 18 2
def pendDue (s : State) : Nat := (s.core.sys.tstate.extractLsb' 16 2).toNat

/-- A field of len bits from bit lo of a 64-bit word replaced. -/
def setField (w : W64) (lo len : Nat) (x : Nat) : W64 :=
  let m : W64 := BitVec.ofNat 64 ((2 ^ len - 1) <<< lo)
  (w &&& ~~~m) ||| (BitVec.ofNat 64 ((x % 2 ^ len) <<< lo) &&& m)

def setPend (s : State) (k : Nat) (due : Nat) : State :=
  s.upSys fun y => { y with tstate := setField (setField y.tstate 18 2 k) 16 2 due }

/-! ## Layout sets (R79, R80) -/

/-- R79: the bits of each layout field that are stored; the rest are reserved. -/
def lsMask (f : Nat) : W64 :=
  match f with
  | 1 => 0x7F
  | 3 => 0x7FFFFFFFFFFFFFFF
  | 7 => 0x0FFFFFFFFFFFFFFF
  | 9 => 0x3FFFFFFFF
  | 10 => 0x7FF
  | _ => 0xFFFFFFFFFFFFFFFF

def readLs (s : State) (set : BitVec 3) (f : BitVec 4) : W64 := (s.core.ls.get set.toFin).getD f.toNat 0
def writeLs (s : State) (set : BitVec 3) (f : BitVec 4) (x : W64) : State :=
  s.upCore fun c =>
    { c with ls := c.ls.set set.toFin ((c.ls.get set.toFin).setIfInBounds f.toNat (x &&& lsMask f.toNat)) }

/-! ## Results in flight (R150, R155, R342) -/

/-- R150, R120: one result lands: its masked bytes or bits are written and its flags enter FPSR. -/
def landOne (s : State) (r : Pend) : State :=
  let s' :=
    match r.dst with
    | .s n => writeS s n (r.val.setWidth 64)
    | .p n =>
      let old := readP s n
      writeP s n ((old &&& ~~~r.mask) ||| (r.val.setWidth 128 &&& r.mask))
    | .v n => writeV s n (blend (readV s n) r.val r.mask)
    | .lsf set f => writeLs s set f (r.val.setWidth 64)
    | .ka => s.upRegs fun g => { g with ka := blend g.ka r.val r.mask }
    | .kb => s.upRegs fun g => { g with kb := blend g.kb r.val r.mask }
    | .lpw => s.upSys fun y => { y with lpw := r.val.setWidth 64 }
    | .lpe => s.upSys fun y => { y with lpe := r.val.setWidth 64 }
    | .flagsOnly => s
  orFlags s' r.flags

/-- Insertion by slot, keeping issue order within a slot. -/
def insertBySlot (r : Pend) : List Pend → List Pend
  | [] => [r]
  | x :: xs => if r.slot < x.slot then r :: x :: xs else x :: insertBySlot r xs

/-- R155: the order in which results land together, so that the one to keep lands last: by slot, then by issue. -/
def landOrder (rs : List Pend) : List Pend := rs.foldl (fun acc r => insertBySlot r acc) []

/-- R155: two results meet on a byte (a bit of a predicate) of one register. -/
def meets (a b : Pend) : Bool := a.dst == b.dst && a.dst != .flagsOnly && a.mask &&& b.mask != 0

/-- R155: the losing slots of results that land together, one for each pair that meets. -/
def losers : List Pend → List Nat
  | [] => []
  | r :: rs => (rs.filter (meets r)).map (fun _ => r.slot) ++ losers rs

/-- R141: a lost collision is counted, saturating, and its slot recorded. -/
def countCollision (s : State) (slot : Nat) : State :=
  s.upSys fun y =>
    let n := (y.collide.extractLsb' 16 16).toNat
    { y with collide := setField y.collide 16 16 (min 0xFFFF (n + 1)) ||| BitVec.ofNat 64 (2 ^ (slot % 12)) }

/-- R155: the results that are due land. -/
def landDue (rs : List Pend) (s : State) : State :=
  let o := landOrder rs
  (losers o).foldl countCollision (o.foldl landOne s)

/-- R150: one more bundle has issued. -/
def age (r : Pend) : Pend := { r with left := r.left - 1 }

/-- R345: SNAPN.N. -/
def pieceSum (rs : List Pend) : Nat := (rs.map fun r => r.pcs).sum

/-- R344: a scale-latch write may not land while an MMAS that captured the latch before it is queued and not started. -/
def latchHeld (s : State) : Bool :=
  s.core.mxQueue.any fun e => match e.op with | .mul scaled _ _ _ _ _ _ _ _ _ => scaled | _ => false
def isLatch (r : Pend) : Bool := r.dst == .ka || r.dst == .kb

/-- After the posts of a bundle: older results age, the bundle's own join them, and those that are due land. In debug
mode a collision keeps the due results latched for the BREAKPOINT of R155. -/
def settle (new : List Pend) (s : State) : State :=
  let all := s.core.pipe.map age ++ new
  let due := all.filter fun r => r.left == 0 && !(isLatch r && latchHeld s)
  let rest := all.filter fun r => !(r.left == 0 && !(isLatch r && latchHeld s))
  if dbgOn s && !s.core.mon && !(losers (landOrder due)).isEmpty then s.upCore fun c => { c with pipe := due ++ rest }
  else landDue due (s.upCore fun c => { c with pipe := rest })

/-! ## Counters of a cycle (R153, R266, R301, R303, R340, R405) -/

/-- R305, R309: the gang table entry of a domain. -/
def gangOf (s : State) (domain : BitVec 16) : Option Gang :=
  s.die.disp.gangs.find? fun g => g.w0.extractLsb' 32 16 == domain
/-- R309: a gang is held by a debug halt. -/
def heldGang (s : State) (domain : BitVec 16) : Bool := match gangOf s domain with | some g => g.w0.getLsbD 28 | none => false

/-- R266: a parked member waits, and its gang is neither held nor descheduled. -/
def parkCounts (s : State) (p : Parked) : Bool :=
  !p.record.w4.getLsbD 17 || match gangOf s (p.record.w4.extractLsb' 32 16) with
    | some g => g.placed && !g.w0.getLsbD 28
    | none => true
/-- R266: the cycles of the parked tasks. -/
def tickParked (s : State) : State :=
  if s.die.disp.parked.isEmpty then s
  else s.upDie fun d => { d with disp := { d.disp with
    parked := d.disp.parked.map fun p => if parkCounts s p then { p with waited := p.waited + 1 } else p } }

/-- The divider, F-unit and matrix counters, TMR, and the counts of the running task and of the parked ones in one core cycle. -/
def tickCycle (s0 : State) : State :=
  let s := tickParked s0
  let c := s.core
  let atTask := c.run == .running && !c.mon
  let tmr := (c.sys.tstate.extractLsb' 32 32).toNat
  let fire := atTask && tmr == 1
  let tst := if atTask && tmr != 0 then setField c.sys.tstate 32 32 (tmr - 1) else c.sys.tstate
  { s with
    cycle := s.cycle + 1
    core := { c with
      sys := { c.sys with tstate := tst }
      asyncs := { c.asyncs with timer := c.asyncs.timer || fire }
      latch := c.latch || fire
      divBusy := c.divBusy - 1
      fdivBusy := c.fdivBusy - 1
      fBusy := c.fBusy - 1
      mxLeft := c.mxLeft - 1
      restoreLeft := c.restoreLeft.map (· - 1)
      quantumUsed := if c.run == .running && c.task.isSome then c.quantumUsed + 1 else c.quantumUsed } }

/-! ## Taking a trap, and the return from one (R333 to R346, R272) -/

/-- R333: CAUSE.CODE. -/
def Cause.code : Cause → Nat
  | .illegalBundle => 0x01
  | .illegalOp => 0x02
  | .priv => 0x03
  | .range => 0x04
  | .page => 0x05
  | .protect => 0x06
  | .scratchBounds => 0x07
  | .align => 0x08
  | .memError => 0x09
  | .codeTag => 0x0A
  | .mixedSize => 0x0B
  | .copyFault => 0x0C
  | .grottoFault => 0x0D
  | .barrierTimeout => 0x0E
  | .operator => 0x0F
  | .trap => 0x10
  | .breakpoint => 0x11
  | .preempt => 0x20
  | .timer => 0x21
  | .mailbox => 0x22
  | .debugHalt => 0x23

/-- A trap to take: CAUSE with its INFO and ASYNC bits, FMASK, FADDR, and IADDR of the trap record (R334, R336, R337). -/
structure TrapReq where
  cause : Cause
  info : BitVec 16
  async : Bool
  fmask : BitVec 12
  faddr : W64
  iaddr : W64
  /-- due results stay latched: the collision BREAKPOINT of R155 -/
  keep : Bool
deriving DecidableEq, Repr

/-- R337. -/
def causeWord (t : TrapReq) : W64 :=
  BitVec.ofNat 64 (t.info.toNat * 2 ^ 32 + (if t.async then 256 else 0) + t.cause.code)

/-- R341: the core stops as under HALT, and an error record is appended. -/
def stopCore (s : State) (addr : W64) : State :=
  { s with
    core := { s.core with run := .stopped, mEnd := .none, mDue := 0, restoring := none, restoreLeft := none }
    die := { s.die with errors := s.die.errors ++ [⟨.coreStop, addr.toNat, addr.setWidth 56, s.core.agent, .none⟩] } }

/-- R155: in debug mode at task level, results that meet wait in the pipeline for the bundle that issues when they land. -/
def collides (s : State) : Bool :=
  dbgOn s && !s.core.mon && !(losers (landOrder (s.core.pipe.filter fun r => r.left == 0))).isEmpty

/-- R199: the bytes of a load that its lines have not brought yet. -/
def openBytes (accs : List GAcc) (a : Await) : List (Nat × Nat) :=
  a.bytes.filter fun b => accs.any fun g => g.op == .load a.id && g.cells.contains b
/-- R342: what is due lands, but for results whose collision a BREAKPOINT is still to report, the rest is latched in the snapshot buffer,
and outstanding loads are abandoned with their requests kept (R199): of a load the lines that have not brought their bytes; one whose value
has come is not outstanding. Of an abandoned load and a younger store of the core to the same byte, which R196 and R199 leave without an
order, the store is performed first and the load reads it when it is issued again (DESIGN CHOICE, log entry 110). -/
def freeze (keep0 : Bool) (s : State) : State :=
  let due := s.core.pipe.filter fun r => r.left == 0
  let rest := s.core.pipe.filter fun r => r.left != 0
  let keep := keep0 || collides s
  let s1 := if keep then s else landDue due s
  s1.upCore fun c =>
    { c with
      pipe := []
      snap := if keep then due ++ rest else rest
      awaits := c.awaits.map fun a => if a.load && a.value.isNone then { a with bytes := openBytes c.accs a } else a
      accs := c.accs.filter fun g => match g.op with | .load _ => false | _ => true
      probes := []
      strong := []
      waiting := .none
      waitCycles := 0
      bankWait := 0 }

/-- R336: the 64-byte trap record at 0x3F_3FC0. -/
def trapRecord (t : TrapReq) (s : State) : List Byte :=
  ([causeWord t, t.fmask.setWidth 64, t.faddr, s.core.pcq.q0, s.core.pcq.q1, s.core.pcq.q2,
    s.core.pcq.annul.setWidth 64, t.iaddr].map fun w => toBytes 8 w.toNat).flatten

/-- R339: MENTRY holds an address a core can enter the monitor at. -/
def mentryOk (m : W64) : Bool :=
  m != 0 && (m.extractLsb' 51 13 == 0 || m.extractLsb' 51 13 == BitVec.allOnes 13)

/-- R305, R358: HELD of a gang set or cleared. -/
def setHeld (domain : BitVec 16) (on : Bool) (s : State) : State :=
  let mark := fun (g : Gang) => if g.w0.extractLsb' 32 16 == domain then { g with w0 := setField g.w0 28 1 (if on then 1 else 0) } else g
  s.upDie fun d => { d with disp := { d.disp with gangs := d.disp.gangs.map mark } }
/-- R359: a BREAKPOINT in debug mode is handled as a DEBUG_HALT of the gang: the gang is held. -/
def breakGang (c : Cause) (s : State) : State :=
  match s.core.task with
  | some t => if c == .breakpoint && dbgOn s && t.gang then setHeld t.domain true s else s
  | none => s

/-- R336: a trap is entered: freeze, CAUSE, FMASK and FADDR, the trap record, monitor level at MENTRY. At monitor level, or
with no usable MENTRY, the core stops (R339, R341). -/
def takeTrap (t : TrapReq) (s : State) : State :=
  if s.core.mon then stopCore s t.faddr
  else
    let s1 := freeze t.keep (breakGang t.cause s)
    let s2 := s1.upSys fun y =>
      { y with cause := causeWord t, fmask := t.fmask.setWidth 64, faddr := t.faddr }
    let s3 := s2.setSpad (s2.core.spad.writeBytes 0x3F3FC0 (trapRecord t s2))
    if mentryOk s3.core.sys.mentry then
      s3.upCore fun c =>
        { c with mon := true, mEnd := .none, mDue := 0
                 mstream := ⟨c.sys.mentry &&& ~~~3, 1, 1, 0, none, none, none⟩ }
    else stopCore s3 t.faddr

/-- The bytes of an access, one list for each 64-byte line they touch (R195); addr gives the IA of a byte. -/
def byLine (addr : Nat × Nat → Nat) (cells : List (Nat × Nat)) : List (List (Nat × Nat)) :=
  ((cells.map fun c => addr c / 64).eraseDups).map fun l => cells.filter fun c => addr c / 64 == l

/-- R199, R346: an abandoned load is issued again. -/
def reissue (a : Await) : List GAcc := (byLine (·.2) a.bytes).map fun cs => ⟨.load a.id, cs, false, a.acq, 0, 0, none⟩

/-- R272, R346: the return to task level: the stream of PCQ0 to PCQ2, the snapshot replayed, abandoned loads re-issued.
Results of the monitor still in flight land at once (DESIGN CHOICE, log entry 6). -/
def returnToTask (s : State) : State :=
  let s1 := landDue s.core.pipe (s.upCore fun c => { c with pipe := [] })
  s1.upCore fun c =>
    let again := c.awaits.filter fun a => a.load && a.value.isNone && !a.mon
    { c with
      mon := false
      mEnd := .none
      mDue := 0
      pipe := c.snap
      snap := []
      accs := c.accs ++ again.flatMap reissue
      waiting := .none
      waitCycles := 0
      bankWait := 0 }

end Sys2Proof.Machine
end

