-- ==== Sys2Proof/Machine/Dram.lean ====
section
/-! DEFINITION. Lines as the memory controller holds them (R12 to R17, R23, R25 to R27): where an address lies in the devices, the
code and the cipher of a line, and the redirection of a parked bank. -/
namespace Sys2Proof.Machine

/-! ## Where an address lies (R13, R23) -/

/-- R13: the fields of an HBM address. -/
def hbmBlock (pa : Nat) : Nat := pa / 256
def hbmPc (pa : Nat) : Nat := hbmBlock pa % 384
def hbmStack (pa : Nat) : Nat := hbmPc pa % 6
def hbmChan (pa : Nat) : Nat := hbmPc pa / 6 % 32
def hbmPseudo (pa : Nat) : Nat := hbmPc pa / 192
def hbmOffset (pa : Nat) : Nat := hbmBlock pa / 384 * 256 + pa % 256
def hbmBank (pa : Nat) : Nat := bits (hbmOffset pa) 13 10
def hbmBankGroup (pa : Nat) : Nat := bits (hbmBank pa) 3 2
def hbmRow (pa : Nat) : Nat := bits (hbmOffset pa) 29 14
def hbmAtom (pa : Nat) : Nat := bits (hbmOffset pa) 9 5

/-- R23: channel and channel offset of a second-tier address. -/
def tier2Chan (pa : Nat) : Nat := pa / 256 % 24
def tier2Offset (pa : Nat) : Nat := pa / 256 / 24 * 256 + pa % 256

/-- R12, R23: the end of a tier's range on a die. -/
def tierEnd (tier2 : Bool) : Nat := if tier2 then 2 ^ 40 else 384 * 2 ^ 30

/-- One number for a bank: of an HBM pseudo-channel, or a channel of the second tier, whose banks the spec does not give. -/
def bankKey (pa : Nat) (tier2 : Bool) : Nat := if tier2 then 2 ^ 20 + tier2Chan pa else hbmPc pa * 16 + hbmBank pa
/-- One number for a row. The spec gives no row size for the second tier: 1 KiB of a channel (DESIGN CHOICE, log entry 76). -/
def rowKey (pa : Nat) (tier2 : Bool) : Nat :=
  if tier2 then bankKey pa true * 2 ^ 32 + tier2Offset pa / 1024 else bankKey pa false * 2 ^ 16 + hbmRow pa

/-! ## The code of a line (R14, R15, R22, R23) -/

/-- R14: the 64 sideband bits of an HBM line. -/
def sideband (d : DramLine) : W64 := (d.check ++ d.tag : BitVec (48 + 16))

/-- The symbols of a stored line (R15, R23): the second tier has no tag and three check symbols (log entry 10). -/
def lineWord (tier2 : Bool) (d : DramLine) : List Nat :=
  ((toBytes 64 d.cipher.toNat) ++ (if tier2 then [] else toBytes 2 d.tag.toNat)
    ++ toBytes (if tier2 then 3 else 6) d.check.toNat).map (·.toNat)

def numOf (bs : List Nat) : Nat := bs.foldr (fun x acc => x + 256 * acc) 0

/-- A stored line from its symbols. -/
def wordLine (tier2 : Bool) (w : List Nat) : DramLine :=
  if tier2 then ⟨0, BitVec.ofNat 512 (numOf (w.take 64)), 0, BitVec.ofNat 48 (numOf (w.drop 64))⟩
  else ⟨0, BitVec.ofNat 512 (numOf (w.take 64)), BitVec.ofNat 16 (numOf ((w.drop 64).take 2)), BitVec.ofNat 48 (numOf (w.drop 66))⟩

/-- A line with the right check symbols (R15, R23). -/
def codeLineOf (tier2 : Bool) (cipher : LineData) (tag : BitVec 16) : DramLine :=
  let msg := ((toBytes 64 cipher.toNat) ++ (if tier2 then [] else toBytes 2 tag.toNat)).map (·.toNat)
  ⟨0, cipher, if tier2 then 0 else tag, BitVec.ofNat 48 (numOf (rsCheck (if tier2 then 3 else 6) msg))⟩

/-- R22: a line with a deliberately invalid code: three check symbols corrupted in HBM, two in the second tier. Which symbols and
how, and the bytes and the tag beside them, the spec leaves open: the first ones, each with bit 0 inverted, over the source's
ciphertext with tag 0 (DESIGN CHOICE, log entry 77). -/
def invalidLine (tier2 : Bool) (cipher : LineData) : DramLine :=
  let d := codeLineOf tier2 cipher 0
  { d with check := d.check ^^^ (if tier2 then 0x0101 else 0x010101) }

/-- What a stored line reads as: the line as corrected, and whether it was; none where it is uncorrectable. -/
def readCode (tier2 : Bool) (d : DramLine) : Option (DramLine × Bool) :=
  (rsDecode (if tier2 then 3 else 6) (lineWord tier2 d)).map fun r => (wordLine tier2 r.1, r.2)

/-! ## Encryption (R17, R18) -/

/-- R18: the two keys of a key slot as bytes; the data key is the low half of the stored pair. -/
def slotKeys (s : State) (slot : Nat) : BitVec 512 :=
  match s.die.keys.slots.find? (fun k : Nat × BitVec 512 => k.1 == slot) with
  | some k => k.2
  | none => 0
def slotDataKey (s : State) (slot : Nat) : List Byte := toBytes 32 (slotKeys s slot).toNat
def slotTweakKey (s : State) (slot : Nat) : List Byte := toBytes 32 ((slotKeys s slot).toNat / 2 ^ 256)

/-- R17: a line enciphered or deciphered under a key slot with its IA as tweak. -/
def cipherLine (s : State) (back : Bool) (key : BitVec 9) (l : BitVec 50) (d : LineData) : LineData :=
  xtsLine back (slotDataKey s key.toNat) (slotTweakKey s key.toNat) l.toNat d

/-! ## The devices, through the redirection of parked banks (R26, R27) -/

/-- R26: accesses to an HBM address go to a park entry: its bank is being parked and its row has been copied, it is parked, or it
is being unparked and its row has not been copied back. -/
def ParkEntry.takes (p : ParkEntry) (pa : Nat) : Bool :=
  p.phase != 0 && hbmPc pa == p.pc.toNat && hbmBank pa == p.bank.toNat &&
    (match p.phase.toNat with
     | 1 => decide (hbmRow pa < p.rows)
     | 3 => decide (p.rows ≤ hbmRow pa)
     | _ => true)
/-- The park entry that an access to an address goes to. -/
def parkHit (s : State) (pa : Nat) (tier2 : Bool) : Option (Fin 4) :=
  if tier2 then none else (List.finRange 4).find? fun e => (s.die.park.get e).takes pa

/-- The stored line at an address; none where nothing has been written there. -/
def dramGet (s : State) (pa : Nat) (tier2 : Bool) : Option DramLine :=
  match parkHit s pa tier2 with
  | some e => ((s.die.park.get e).lines.find? fun x => x.1 == pa).map (·.2)
  | none => (s.die.dram.find? fun d => d.1 == pa && d.2.1 == tier2).map (·.2.2)
/-- A line stored at an address, or none: nothing stands there any more. -/
def dramPut (pa : Nat) (tier2 : Bool) (d : Option DramLine) (s : State) : State :=
  match parkHit s pa tier2 with
  | some e =>
    let p := s.die.park.get e
    let rest := p.lines.filter fun x => !(x.1 == pa)
    s.upDie fun x => { x with park := x.park.set e { p with lines := (d.toList.map fun y => (pa, y)) ++ rest } }
  | none =>
    s.upDie fun x => { x with dram := (d.toList.map fun y => (pa, tier2, y)) ++ x.dram.filter fun e => !(e.1 == pa && e.2.1 == tier2) }

/-! ## Lines and events (R16, R20, R49, R61, R378) -/

/-- The line of an IA (R49). -/
def lineOf (ia : BitVec 56) : BitVec 50 := ia.extractLsb' 6 50
/-- The IA of a line's first byte. -/
def lineIa (l : BitVec 50) : BitVec 56 := (l ++ 0#6 : BitVec (50 + 6))

def upCoh (f : Coherence → Coherence) (s : State) : State := s.upDie fun d => { d with coh := f d.coh }

/-- A 64-bit event counter, which stays at its top: COHINT and COHTKT by R61. Of HPSKIP and HPPROM (R42), and of what else counts events in
64 bits, the spec does not say what they do at the top: the same (DESIGN CHOICE, log entry 107). -/
def satInc (w : W64) : W64 := if w == BitVec.allOnes 64 then w else w + 1
/-- R61: an integrity event of the coherence protocol. -/
def countInt (s : State) : State := upCoh (fun c => { c with cohint := satInc c.cohint }) s

/-- An error record for the control cores. -/
def logError (k : ErrKind) (pa : Nat) (ia : BitVec 56) (who : BitVec 10) (cls : ReadClass) (s : State) : State :=
  s.upDie fun d => { d with errors := d.errors ++ [⟨k, pa, ia, who, cls⟩] }

/-- R378: the row an event of a line counts against, which is the physical one: of a parked row, a row of the park entry, since the place
of the park area is the control cores' choice, as are the bank and pseudo-channel it lies in (DESIGN CHOICE, log entry 49). -/
def rowUnit (s : State) (pa : Nat) (tier2 : Bool) : Nat :=
  match parkHit s pa tier2 with
  | some e => 4 * (2 ^ 30 + e.val * 2 ^ 16 + hbmRow pa)
  | none => 4 * rowKey pa tier2
/-- R378: the units an event of a line counts against: its row, its bank, and its pseudo-channel or channel. -/
def unitsOf (s : State) (pa : Nat) (tier2 : Bool) : List Nat :=
  match parkHit s pa tier2 with
  | some e =>
    let b := Config.parkBank e.val (hbmRow pa)
    [rowUnit s pa tier2, 4 * b + 1, 4 * (b / 16) + 2]
  | none => [rowUnit s pa tier2, 4 * bankKey pa tier2 + 1, 4 * (if tier2 then 2 ^ 20 + tier2Chan pa else hbmPc pa) + 2]

/-- R379: a frame of the second tier that holds part of a row that is a lasting fault. -/
def frameLasting (lasting : List Nat) (f : BitVec 24) : Bool :=
  (List.range 256).any fun i => lasting.contains (4 * rowKey (f.toNat * 2 ^ 16 + 256 * i) true)

/-- R378, R379: a unit becomes a lasting fault, once. The free frames that a row of the second tier touches leave their queue. -/
def markLasting (u : Nat) (s : State) : State :=
  if s.die.boot.lasting.contains u then s
  else logError .lastingFault u 0 s.core.agent .none
    (s.upDie fun d =>
      let ls := u :: d.boot.lasting
      { d with boot := { d.boot with lasting := ls }
               xlate := { d.xlate with freeFrames2 := d.xlate.freeFrames2.filter fun f => !frameLasting ls f } })

/-- R378: COUNT events of a unit fall within the last SPAN cycles. -/
def unitReached (u : Nat) (s : State) : Bool :=
  match (s.die.boot.events.filter fun e => e.1 == u)[s.die.boot.errCount.toNat - 1]? with
  | some (_, c, _) => s.die.boot.errCount != 0 && decide (s.cycle ≤ c + s.die.boot.errSpan.toNat)
  | none => false
/-- R378: an event against a unit, of a way in a cache; COUNT events within SPAN cycles make a lasting fault. -/
def countWay (u way : Nat) (s : State) : State :=
  let s1 := s.upDie fun d => { d with boot := { d.boot with events := (u, s.cycle, way) :: d.boot.events } }
  if unitReached u s1 then markLasting u s1 else s1
def countUnit (u : Nat) (s : State) : State := countWay u 0 s
/-- R378: COUNT events of a unit fall within some stretch of SPAN cycles. -/
def everReached (b : Boot) (u : Nat) : Bool :=
  let es := (b.events.filter fun e => e.1 == u).map fun e => e.2.1
  b.errCount != 0 && (es.zip (es.drop (b.errCount.toNat - 1))).any fun x => decide (x.1 ≤ x.2 + b.errSpan.toNat)

/-- R16, R378: a correctable event of a line. -/
def countRow (pa : Nat) (tier2 : Bool) (s : State) : State := (unitsOf s pa tier2).foldl (fun st u => countUnit u st) s

/-- R20: a read that cannot be corrected: a record, an integrity event, a lasting fault of the row. -/
def uncorrectable (l : BitVec 50) (pa : Nat) (tier2 : Bool) (who : BitVec 10) (cls : ReadClass) (s : State) : State :=
  markLasting (rowUnit s pa tier2) (logError .uncorrectable pa (lineIa l) who cls (countInt s))

/-! ## Firmware's page tables (R35) -/

/-- The line that an address of the firmware's tables is enciphered under: that of the same offset on this die (DESIGN CHOICE, log
entry 5). -/
def tableLine (s : State) (pa : Nat) : BitVec 50 := BitVec.ofNat 50 ((s.core.agent.toNat * 2 ^ 46 + pa) / 64)
/-- The stored line of a table address, where the L2 does not hold it. -/
def tableDram (s : State) (pa : Nat) : Option DramLine :=
  if s.die.coh.home.any fun h => h.line == tableLine s pa then none else dramGet s (pa / 64 * 64) false
/-- R17, R35: an 8-byte entry of the page table at a die-local physical address, read under the firmware key where DRAM holds its
line; none where that line is uncorrectable. -/
def tableWord (s : State) (pa : Nat) : Option W64 :=
  match tableDram s pa with
  | none => some (BitVec.ofNat 64 (s.die.mem.readNum (s.core.agent.toNat * 2 ^ 46 + pa) 8))
  | some d => (readCode false d).map fun r =>
      (cipherLine s true Config.firmwareKey (tableLine s pa) r.1.cipher).extractLsb' (8 * (pa % 64)) 64
/-- R16: a table line that a walk has read with an error corrected: it is written back, and counted. -/
def tableFix (pa : Nat) (s : State) : State :=
  match tableDram s pa with
  | none => s
  | some d => match readCode false d with
    | some (d', true) => countRow (pa / 64 * 64) false (dramPut (pa / 64 * 64) false (some { d' with line := d.line }) s)
    | _ => s
/-- R17, R35: an entry written: in the L2 where that holds its line; else in DRAM, where the whole line is written again under the firmware
key. A line that cannot be read takes no write of a part (R21). -/
def putTableWord (pa : Nat) (e : W64) (s : State) : State :=
  let ia := s.core.agent.toNat * 2 ^ 46 + pa
  let l := tableLine s pa
  let put := fun (tag : BitVec 16) (st : State) =>
    let st1 := st.setMem (st.die.mem.writeBytes ia (toBytes 8 e.toNat))
    let plain := BitVec.ofNat 512 (st1.die.mem.readNum (lineIa l).toNat 64)
    dramPut (pa / 64 * 64) false (some { codeLineOf false (cipherLine st1 false Config.firmwareKey l plain) tag with line := l }) st1
  if s.die.coh.home.any fun h => h.line == l then
    upCoh (fun c => { c with home := c.home.map fun h => if h.line == l then { h with dirty := true } else h })
      (s.setMem (s.die.mem.writeBytes ia (toBytes 8 e.toNat)))
  else match tableDram s pa with
    | none => put 0 s
    | some d0 => match readCode false d0 with
      | some (d, _) =>
        put d.tag (s.setMem (s.die.mem.writeBytes (lineIa l).toNat
          (toBytes 64 (cipherLine s true Config.firmwareKey l d.cipher).toNat)))
      | none => logError .writeDiscarded (pa / 64 * 64) (lineIa l) s.core.agent .walk s

end Sys2Proof.Machine
end

