-- ==== Sys2Proof/Machine/Trans.lean ====
section
/-! DEFINITION. Addresses (R28 to R40): windows, the home translation of a die, and the presence filter. -/
namespace Sys2Proof.Machine

/-- R28: bits [63:52] all equal bit 51. -/
def canonical (va : W64) : Bool :=
  va.extractLsb' 51 13 == 0 || va.extractLsb' 51 13 == BitVec.allOnes 13

/-- The bit of word 1 of a window that grants a permission (R29). -/
def Need.winBit : Need → Nat
  | .rd => 0
  | .w => 1
  | .x => 2
  | .a => 3

/-- R29: word w of window n. -/
def winWord (win : Vector W64 24) (n w : Nat) : W64 := win.getD (3 * n + w) 0
def winBase (win : Vector W64 24) (n : Nat) : Nat := ((winWord win n 0).extractLsb' 16 36).toNat
def winLimit (win : Vector W64 24) (n : Nat) : Nat := ((winWord win n 1).extractLsb' 16 36).toNat
def winValid (win : Vector W64 24) (n : Nat) : Bool := (winWord win n 1).getLsbD 4
def winOff (win : Vector W64 24) (n : Nat) : Nat := ((winWord win n 2).extractLsb' 16 40).toNat <<< 16

/-- R30: the lowest valid window that holds granule g. -/
def winFind (win : Vector W64 24) (g : Nat) : Option Nat :=
  (List.range 8).find? fun n => winValid win n && decide (winBase win n ≤ g) && decide (g ≤ winLimit win n)

/-- VA bits [51:16] (R30). -/
def vaGranule (va : W64) : Nat := (va.extractLsb' 16 36).toNat

/-- R28, R30: the check of an access from first to last against a window set: its IA and window, or none for RANGE. -/
def windowCheck (win : Vector W64 24) (first last : W64) (need : Need) : Option (BitVec 56 × Nat) :=
  if !(canonical first && canonical last) then none
  else
    match winFind win (vaGranule first) with
    | none => none
    | some n =>
      if winLimit win n < vaGranule last then none
      else if !(winWord win n 1).getLsbD need.winBit then none
      else some (BitVec.ofNat 56 ((first.extractLsb' 0 52).toNat + winOff win n), n)

/-- The address check of an access of the running level: windows at task level, and at monitor level the canonical check
alone, an address naming the IA of its low 56 bits (DESIGN CHOICE, log entry 4). -/
def addrCheck (s : State) (win : Vector W64 24) (first last : W64) (need : Need) : Option (BitVec 56) :=
  if s.core.mon then (if canonical first && canonical last then some (first.setWidth 56) else none)
  else (windowCheck win first last need).map (·.1)

/-- The bytes a page of a SIZE code covers (R34). -/
def pageBytes (size : BitVec 2) : Nat :=
  match size.toNat with
  | 0 => 2 ^ 16
  | 1 => 2 ^ 21
  | _ => 2 ^ 26

/-- The first IA of the page of a SIZE code that holds an IA. -/
def pageBase (ia : BitVec 56) (size : BitVec 2) : BitVec 56 :=
  BitVec.ofNat 56 (ia.toNat / pageBytes size * pageBytes size)

/-- R32: the agent and the offset of an IA. -/
def iaAgent (ia : BitVec 56) : BitVec 10 := ia.extractLsb' 46 10
def iaOffset (ia : BitVec 56) : BitVec 46 := ia.extractLsb' 0 46

/-- R33: the home slice of an IA. -/
def homeSlice (ia : BitVec 56) : Nat :=
  let x := (ia.extractLsb' 6 40).toNat
  (x % 3) * 16 + (List.range 10).foldl (fun acc i => acc ^^^ (x >>> (4 * i) % 16)) 0

/-! ## Home translation entries (R34, R35) -/

def entV (e : W64) : Bool := e.getLsbD 63
def entTier (e : W64) : Bool := e.getLsbD 62
def entSize (e : W64) : BitVec 2 := e.extractLsb' 60 2
def entPinw (e : W64) : Bool := e.getLsbD 59
def entMlock (e : W64) : Bool := e.getLsbD 58
def entRd (e : W64) : Bool := e.getLsbD 57
def entWr (e : W64) : Bool := e.getLsbD 56
def entEx (e : W64) : Bool := e.getLsbD 55
def entKey (e : W64) : BitVec 9 := e.extractLsb' 46 9
def entTbl (e : W64) : Bool := e.getLsbD 45
def entFrame (e : W64) : BitVec 24 := e.extractLsb' 16 24

/-- R34: a leaf entry that is treated as mapped. -/
def entOk (e : W64) : Bool :=
  entV e && entSize e != 3 && !entTbl e
    && decide ((entFrame e).toNat * 2 ^ 16 % pageBytes (entSize e) = 0)
    && decide ((entFrame e).toNat * 2 ^ 16 + pageBytes (entSize e) ≤ tierEnd (entTier e))

/-- R37, R34: the page number OFFSET[45:16] of the page of a SIZE code that holds an offset. -/
def pageNo (off : BitVec 46) (size : BitVec 2) : BitVec 30 :=
  BitVec.ofNat 30 (off.toNat / pageBytes size * pageBytes size / 2 ^ 16)

/-- The home translation buffer's entry for an offset (R35). -/
def bufferFind (x : Xlate) (off : BitVec 46) : Option W64 :=
  (x.buffer.find? fun pe => pe.1 == pageNo off (entSize pe.2)).map (·.2)

/-- What a walk finds (R34, R35): a leaf and its address, nothing mapped, a leaf that its place or its fields make invalid, or a
table line that cannot be read. -/
inductive Walk where
  | leaf (e : W64) (pa : Nat)
  | unmapped
  | bad
  | unreadable (pa : Nat)
deriving DecidableEq, Repr

/-- R35: the index of an offset into a table of a level. -/
def walkIdx (off : BitVec 46) (lvl : Nat) : Nat :=
  if lvl = 1 then (off.extractLsb' 36 10).toNat else if lvl = 2 then (off.extractLsb' 26 10).toNat
  else if lvl = 3 then (off.extractLsb' 21 5).toNat else (off.extractLsb' 16 5).toNat
/-- R35: the walk from a level, reading at most as many entries as levels remain. A level-4 entry with TBL set, which the rule forbids
without a fate, is a bad leaf: unmapped, and an integrity event (DESIGN CHOICE, log entry 106). -/
def walkFrom (s : State) (off : BitVec 46) : Nat → Nat → Nat → Walk
  | 0, _, _ => .unmapped
  | k + 1, lvl, base =>
    let pa := base + 8 * walkIdx off lvl
    match tableWord s pa with
    | none => .unreadable pa
    | some e =>
      if !entV e then .unmapped
      else if entTbl e then
        (if lvl = 4 then .bad else walkFrom s off k (lvl + 1) ((e.extractLsb' 12 28).toNat <<< 12))
      else if entSize e = 3 then .unmapped
      else if lvl ≠ 1 ∧ (entSize e).toNat + lvl = 4 ∧ entOk e then .leaf e pa else .bad

/-- The addresses that a walk reads, from a level on. -/
def walkReads (s : State) (off : BitVec 46) : Nat → Nat → Nat → List Nat
  | 0, _, _ => []
  | k + 1, lvl, base =>
    let pa := base + 8 * walkIdx off lvl
    pa :: match tableWord s pa with
      | some e => if entV e && entTbl e && lvl != 4 then walkReads s off k (lvl + 1) ((e.extractLsb' 12 28).toNat <<< 12) else []
      | none => []

/-- The table's root (R35). -/
def tableRoot (s : State) : Nat := (s.die.xlate.htbase.extractLsb' 12 28).toNat <<< 12
/-- R35: the walk from the root in HTBASE. The spec gives HTBASE no field map: the root stands in bits [39:12], as the address of
a next level does in a non-leaf entry (DEDUCED, log entry 78). -/
def tableWalk (s : State) (off : BitVec 46) : Walk :=
  walkFrom s off 4 1 (tableRoot s)

/-- R34, R35: the leaf entry of an offset of this die, from the buffer or the table. -/
def homeEntry (s : State) (off : BitVec 46) : Option W64 :=
  match bufferFind s.die.xlate off with
  | some e => if entOk e then some e else none
  | none =>
    match tableWalk s off with
    | .leaf e _ => some e
    | _ => none

/-- R37: the entry of a page that is being changed. -/
def Xlate.changes (x : Xlate) (p : BitVec 30 × W64) : Bool :=
  match x.change with
  | some c => c.all || (c.page == p.1 && entSize p.2 == c.size)
  | none => false
/-- R35, R37: the buffer with room for one more of its 6,144 entries. Which gives way the spec does not say: the oldest that is not marked
as changing (DESIGN CHOICE, log entry 79); none where all are. -/
def Xlate.room (x : Xlate) (b : List (BitVec 30 × W64)) : Option (List (BitVec 30 × W64)) :=
  if b.length < 6144 then some b else (b.reverse.find? fun p => !x.changes p).map b.erase

/-- R35: a walk on a buffer miss: the leaf enters the buffer; RP goes back to the leaf. Its reads are reads at the controller (R16, R20).
A bad leaf is an integrity event of the translation (R34), counted apart from COHINT, whose list of what it counts does not name page-table
entries (DESIGN CHOICE, log entry 106). -/
def walkIn (off : BitVec 46) (remote : Bool) (s0 : State) : State :=
  let s := (walkReads s0 off 4 1 (tableRoot s0)).foldl (fun st pa => tableFix pa st) s0
  match tableWalk s off with
  | .unmapped => s
  | .bad => s.upDie fun d => { d with xlate := { d.xlate with integrity := d.xlate.integrity + 1 } }
  | .unreadable pa => uncorrectable (tableLine s pa) pa false s.core.agent .walk s
  | .leaf e pa =>
    let e' := if remote then setField e 44 1 1 else e
    let s1 := if remote && !e.getLsbD 44 then putTableWord pa e' s else s
    let n := pageNo off (entSize e)
    s1.upDie fun d => { d with xlate := { d.xlate with
      buffer := match d.xlate.room (d.xlate.buffer.filter fun b => !(b.1 == n && entSize b.2 == entSize e)) with
        | some b => (n, e') :: b
        | none => d.xlate.buffer } }

/-- R35: a home slice looks an offset up: on a miss of the buffer it walks the table. -/
def fillBuffer (off : BitVec 46) (s : State) : State := if (bufferFind s.die.xlate off).isSome then s else walkIn off false s

/-- R38: what the home of this die answers to a probe of an IA. -/
def homeReply (s : State) (ia : BitVec 56) : ProbeReply :=
  match homeEntry s (iaOffset ia) with
  | some e => .mapped (entSize e) (entRd e) (entWr e) (entEx e)
  | none => .unmapped

/-- An IA homed on this die. -/
def isLocal (s : State) (ia : BitVec 56) : Bool := iaAgent ia == s.core.agent

/-- R32: an agent in the port table, this die's own among them. -/
def configured (s : State) (a : BitVec 10) : Bool := a == s.core.agent || s.die.links.configured.contains a

/-- R41: an offset lies in the page of a migration. -/
def Migration.covers (m : Migration) (off : BitVec 46) : Bool := pageNo off m.size == pageNo m.off m.size
/-- R34, R41: the die-local physical address of an IA homed here, with its tier and key. While its page moves, a line that has
been copied is at the destination. -/
def physOf (s : State) (ia : BitVec 56) : Option (Nat × Bool × BitVec 9) :=
  let off := iaOffset ia
  (homeEntry s off).map fun e =>
    let within := off.toNat % pageBytes (entSize e)
    match s.die.xlate.migration with
    | some m =>
      if m.covers off && decide (within / 64 < m.done) then (m.toFrame.toNat * 2 ^ 16 + within, m.toTier, entKey e)
      else ((entFrame e).toNat * 2 ^ 16 + within, entTier e, entKey e)
    | none => ((entFrame e).toNat * 2 ^ 16 + within, entTier e, entKey e)

/-- R24: a line of this die that lies in the second tier. -/
def inTier2 (s : State) (ia : BitVec 56) : Bool := match physOf s ia with | some (_, b, _) => b | none => false
/-- R24: an IA of another agent that its home has said lies in the second tier (log entry 53). -/
def farTier2 (s : State) (ia : BitVec 56) : Bool := !isLocal s ia && s.die.xlate.farTier2.any fun p => pageBase ia p.2 == p.1

/-! ## The presence filter (R38) -/

def FilterEntry.covers (f : FilterEntry) (ia : BitVec 56) : Bool := pageBase ia f.size == f.base

def filterFind (s : State) (ia : BitVec 56) : Option FilterEntry := s.core.filter.find? fun f => f.covers ia

/-- R34, R38: the permission a need asks of the page: an atomic needs PRD and PWR. -/
def permits (need : Need) (rd wr ex : Bool) : Bool :=
  match need with
  | .rd => rd
  | .w => wr
  | .x => ex
  | .a => rd && wr

/-- What a page check finds: it passes, it must be probed, it is unmapped, or a permission lacks. -/
inductive PageLook where | ok | miss | page | protect
deriving DecidableEq, Repr

/-- An answer to a probe, read for a need (R38). -/
def replyLook (need : Need) : ProbeReply → PageLook
  | .unmapped => .page
  | .mapped _ rd wr ex => if permits need rd wr ex then .ok else .protect

/-- R38: the look-up of one IA for an access of the M slots: the filter, or the answers to this bundle's probes. An entry
without the needed permission is a miss. -/
def pageLook (s : State) (ia : BitVec 56) (need : Need) : PageLook :=
  match filterFind s ia with
  | some f => if permits need f.rd f.wr f.ex then .ok else lookAnswers
  | none => lookAnswers
where
  lookAnswers : PageLook :=
    match s.core.probes.find? fun q => pageBase q.1 0 == pageBase ia 0 with
    | some (_, some r) => replyLook need r
    | _ => .miss

/-- R38: an entry used becomes the most recent one. The spec says pseudo-LRU without more: the least recently used of 1,024 gives
way (DESIGN CHOICE, log entry 80). -/
def filterTouch (ia : BitVec 56) (s : State) : State :=
  s.upCore fun c => { c with filter := (c.filter.filter fun f => f.covers ia) ++ c.filter.filter fun f => !f.covers ia }

/-- R38: the new entry of an answer. -/
def filterInstall (s : State) (ia : BitVec 56) (size : BitVec 2) (rd wr ex : Bool) : State :=
  s.upCore fun c =>
    let e : FilterEntry := ⟨pageBase ia size, size, rd, wr, ex⟩
    { c with filter := e :: (c.filter.filter fun f => !f.covers ia).take 1023 }

/-! ## The scratchpad's regions (R68, R71) -/

/-- R71: the field SPW holds. -/
def spwV (w : W64) : Bool := w.getLsbD 63
def spwVbase (w : W64) : Nat := (w.extractLsb' 24 6).toNat
def spwPbase (w : W64) : Nat := (w.extractLsb' 16 6).toNat
def spwCount (w : W64) : Nat := (w.extractLsb' 0 7).toNat

/-- R71: the physical address of a task-visible scratchpad address, or none for SCRATCH_BOUNDS. -/
def spadMap (spw : Vector W64 4) (a : Nat) : Option Nat :=
  let g := a / 2 ^ 16
  if 2 ^ 22 ≤ a then none
  else
    match (List.range 4).find? fun i =>
      let w := spw.getD i 0
      spwV w && decide (spwVbase w ≤ g) && decide (g < spwVbase w + spwCount w) with
    | none => none
    | some i => let w := spw.getD i 0; some (((g - spwVbase w + spwPbase w) * 2 ^ 16 + a % 2 ^ 16) % 2 ^ 22)

/-- R70, R71: the physical scratchpad address of a byte for the running level: monitor code is not mapped. -/
def spadAddr (s : State) (a : W64) : Option Nat :=
  if a.toNat < 2 ^ 22 then (if s.core.mon then some a.toNat else spadMap s.core.sys.spw a.toNat) else none

/-- The first of n bytes from a that no region holds. -/
def spadBad (look : W64 → Option Nat) (a : W64) : Nat → Option W64
  | 0 => none
  | n + 1 => if (look a).isNone then some a else spadBad look (a + 1) n

/-- R71: the check of a whole span without looking at every byte: granule by granule, as a region's bytes go with their
granule. It answers the lowest task-visible address of the span that fails. -/
def spanBad (look : W64 → Option Nat) (a : Nat) (n : Nat) : Option W64 :=
  let firstG := a / 2 ^ 16
  let lastG := (a + n - 1) / 2 ^ 16
  if n = 0 then none
  else
    ((List.range (min (lastG - firstG) 64 + 1)).map fun i => if i = 0 then a else (firstG + i) * 2 ^ 16).findSome? fun x =>
      if (look (BitVec.ofNat 64 x)).isNone then some (BitVec.ofNat 64 x) else none

/-- n bytes of the scratchpad as a span the caller has checked. -/
def spadBytes (spad : Memory) (look : W64 → Option Nat) (a : W64) : Nat → List Byte
  | 0 => []
  | n + 1 => (match look a with | some p => spad.read p | none => 0) :: spadBytes spad look (a + 1) n

/-- Bytes stored into a span the caller has checked. -/
def spadPut (spad : Memory) (look : W64 → Option Nat) (a : W64) : List Byte → Memory
  | [] => spad
  | b :: bs => spadPut (match look a with | some p => spad.write p b | none => spad) look (a + 1) bs

end Sys2Proof.Machine
end

