-- ==== Sys2Proof/Machine/Fetch.lean ====
section
/-! DEFINITION. Lines of global memory as an agent may use them (R45 to R48, R57), and the fetch of bundles
(R64 to R66, R143, R156, R158). -/
namespace Sys2Proof.Machine

/-! ## Lines -/

/-- R44: state and holder of a rimstone tag. -/
def tagState (t : BitVec 16) : Nat := (t.extractLsb' 0 3).toNat
def tagWho (t : BitVec 16) : BitVec 10 := t.extractLsb' 3 10
/-- R44: a tag value is WHO × 8 + STATE. -/
def mkTag (who : Nat) (st : Nat) : BitVec 16 := BitVec.ofNat 16 (who * 8 + st)

/-- The home L2's record of a line (R48). -/
def homeFind (s : State) (l : BitVec 50) : Option HomeLine := s.die.coh.home.find? fun h => h.line == l

/-- The line as DRAM holds it, where it has been written there (R21, R48). -/
def dramFind (s : State) (l : BitVec 50) : Option DramLine :=
  (physOf s (lineIa l)).bind fun p => dramGet s (p.1 / 64 * 64) p.2.1

/-- A mapped line homed here that the L2 does not hold, so that the controller must read it first (R48, R15). -/
def dramOnly (s : State) (l : BitVec 50) : Bool := (homeFind s l).isNone && (physOf s (lineIa l)).isSome

/-- R16, R20: the line's read ended in an Error that has not been told to all who asked. -/
def badFind (s : State) (l : BitVec 50) : Option BadLine := s.die.coh.badLines.find? fun b => b.line == l
def lineBad (s : State) (l : BitVec 50) : Bool := (badFind s l).isSome
/-- R198: INFO of an access that the Error of its line ends: 1 uncorrectable, 2 unmapped. -/
def badInfo (s : State) (l : BitVec 50) : BitVec 16 := match badFind s l with | some b => if b.err = 3 then 2 else 1 | none => 1

/-- R20, R44, R48: the tag of a line homed here; that of an uncorrectable line is SHARED-WIDE. -/
def homeTag (s : State) (l : BitVec 50) : BitVec 16 :=
  match homeFind s l with
  | some h => h.tag
  | none =>
    if lineBad s l then mkTag 0 3
    else match dramFind s l with
      | some d => d.tag
      | none => 0

/-- R47: the state of a line homed elsewhere in the local slice. -/
def localState (s : State) (l : BitVec 50) : Option LState := (s.die.coh.localLines.find? fun x => x.1 == l).map (·.2)

/-- R52: a transaction of the line is in progress at this home. -/
def lineBusy (s : State) (l : BitVec 50) : Bool := s.die.coh.txns.any fun t => t.line == l

/-- The caches of this die may read the line now (R45, R54, R56, R57): of its own lines those that its L2 holds. One that is not mapped is
asked of its home, which answers with the Error (R198). -/
def lineReadable (s : State) (l : BitVec 50) : Bool :=
  if isLocal s (lineIa l) then
    (homeFind s l).isSome && !lineBusy s l && tagState (homeTag s l) != 4 && tagState (homeTag s l) != 5
  else (localState s l).isSome

/-- The caches of this die may write the line now (R46, R56, R57). -/
def lineWritable (s : State) (l : BitVec 50) : Bool :=
  if isLocal s (lineIa l) then (homeFind s l).isSome && !lineBusy s l && tagState (homeTag s l) == 0
  else localState s l == some .exclusive || localState s l == some .modified

/-- R58, R65: the fetch may read a line: the die holds it, or its home has sent it for this one use. -/
def fetchReadable (s : State) (l : BitVec 50) : Bool := lineReadable s l || s.die.coh.onceLines.contains l
/-- R65: the fetch reads a line of tags uncached: one of this die at its home, one of another by what its home has sent. -/
def tagReadable (s : State) (l : BitVec 50) : Bool :=
  s.die.coh.onceLines.contains l || (isLocal s (lineIa l) && lineReadable s l)

/-! ## Ways of the L2, and what it records of the L1s (R46, R62) -/

/-- R62: the set of a line, numbered over the slices. -/
def l2Set (l : BitVec 50) : Nat := homeSlice (lineIa l) * 2048 + l.toNat % 2048

/-- R62: the tree of a set after a way has been used: from the root down, each node on the way's path points away from it, or, to
make it the next victim, at it. Node i has the children 2i + 1 and 2i + 2; k levels are left, w is the way within them. -/
def treeTouch (toward : Bool) (w : Nat) : Nat → Nat → BitVec 15 → BitVec 15
  | 0, _, t => t
  | k + 1, i, t =>
    let right := w.testBit k
    let bit := if toward then right else !right
    let m : BitVec 15 := BitVec.ofNat 15 (2 ^ i)
    treeTouch toward w k (if right then 2 * i + 2 else 2 * i + 1) (if bit then t ||| m else t &&& ~~~m)

/-- R62: the way the tree points at, among the ways that may be evicted. lo is the first way below node i. -/
def treeVictim (ok : Nat → Bool) (t : BitVec 15) : Nat → Nat → Nat → Nat
  | 0, _, lo => lo
  | k + 1, i, lo =>
    let half := 2 ^ k
    let any := fun a => (List.range half).any fun j => ok (a + j)
    let right := if t.getLsbD i then any (lo + half) else !any lo
    if right then treeVictim ok t k (2 * i + 2) (lo + half) else treeVictim ok t k (2 * i + 1) lo

def setTree (s : State) (set : Nat) : BitVec 15 := match s.die.coh.trees.find? fun x => x.1 == set with | some x => x.2 | none => 0
/-- The lines of a set with their ways. -/
def setWays (s : State) (set : Nat) : List (BitVec 50 × Nat) := s.die.coh.ways.filter fun x => l2Set x.1 == set
def wayOf (s : State) (l : BitVec 50) : Option Nat := (s.die.coh.ways.find? fun x => x.1 == l).map (·.2)

/-- A line's way becomes the most recently used of its set, or with toward the next victim. -/
def l2Touch (toward : Bool) (l : BitVec 50) (s : State) : State :=
  match wayOf s l with
  | none => s
  | some w => upCoh (fun c => { c with
      trees := (l2Set l, treeTouch toward w 4 0 (setTree s (l2Set l))) :: c.trees.filter fun x => !(x.1 == l2Set l) }) s
/-- R379: the disabled ways of a set. -/
def deadWays (s : State) (set : Nat) : List Nat := (s.die.coh.deadWays.filter fun x => x.1 == set / 2048).map (·.2)
/-- The ways of a set that no new line may take: in use, or disabled. -/
def usedWays (s : State) (set : Nat) : List Nat := ((setWays s set).map (·.2) ++ deadWays s set).eraseDups
/-- A line takes the first free way of its set. -/
def l2Enter (l : BitVec 50) (s : State) : State :=
  if (wayOf s l).isSome then l2Touch false l s
  else
    let used := usedWays s (l2Set l)
    match (List.range 16).find? fun w => !used.contains w with
    | some w => l2Touch false l (upCoh (fun c => { c with ways := (l, w) :: c.ways }) s)
    | none => s
/-- A line leaves its way, and what the L2 recorded of its holders goes. -/
def l2Leave (l : BitVec 50) (s : State) : State :=
  upCoh (fun c => { c with ways := c.ways.filter fun x => !(x.1 == l), holders := c.holders.filter fun x => !(x.1 == l) }) s

/-- R46: one more holder: two by core-in-die, more by cluster. -/
def Holders.add (h : Holders) (core : BitVec 8) : Holders :=
  let bit := fun (c : BitVec 8) => (BitVec.ofNat 17 (2 ^ (c.toNat / 8)))
  match h with
  | .cores l => if l.contains core then h else if l.length < 2 then .cores (core :: l)
      else .clusters (l.foldl (fun v c => v ||| bit c) (bit core))
  | .clusters v => .clusters (v ||| bit core)
/-- R46: the L2 records a core of the die as a holder of a line. -/
def noteHolder (core : BitVec 8) (l : BitVec 50) (s : State) : State :=
  let h := match s.die.coh.holders.find? fun x => x.1 == l with | some x => x.2 | none => .cores []
  upCoh (fun c => { c with holders := (l, h.add core) :: c.holders.filter fun x => !(x.1 == l) }) s

/-! ## Pins and the instruction cache (R64, R67) -/

def Pin.holds (p : Pin) (c : BitVec 49) : Bool := decide (p.first.toNat ≤ c.toNat) && decide (c.toNat < p.first.toNat + p.count)
/-- R67: the lines of an instruction-cache set that its pins keep: three. Which count where more are
pinned the spec does not say: the first to have come (DESIGN CHOICE, log entry 108). -/
def icacheKept (s : State) (c : BitVec 49) : List (BitVec 49) :=
  (((s.core.icache.filter fun x => x.toNat % 128 == c.toNat % 128).filter fun x =>
    s.core.pins.any fun p => !p.l2 && p.holds x).reverse).take 3
/-- R64, R67: a code line enters the instruction cache; of a full set the line that came first and is not kept by a pin goes. The
spec gives no replacement policy here (DESIGN CHOICE, log entry 80). The L2 records the cache as a holder. -/
def icacheEnter (c : BitVec 49) (s : State) : State :=
  if s.core.icache.contains c then s
  else
    let same := s.core.icache.filter fun x => x.toNat % 128 == c.toNat % 128
    let kept := icacheKept s c
    let gone := if same.length < 4 then none else same.reverse.find? fun x => !kept.contains x
    let l0 := lineNoOf (c.toNat * 2)
    noteHolder s.core.cid (l0 + 1) <| noteHolder s.core.cid l0 <|
      s.upCore fun k => { k with icache := c :: match gone with | some g => k.icache.erase g | none => k.icache }
where
  lineNoOf (n : Nat) : BitVec 50 := BitVec.ofNat 50 n

/-! ## Code tags (R65, R66) -/

/-- R65: the IA of a code line's tag; c is the line's IA divided by 128. -/
def tagIa (c : BitVec 49) : BitVec 56 :=
  BitVec.ofNat 56 ((c.toNat / 2 ^ 39) * 2 ^ 46 + 2 ^ 45 + (c.toNat % 2 ^ 38) * 8)

/-- R65: the eight tag bytes a code line should carry. The key is that of slot 511 on the line's home die; firmware loads the same
key into that slot of each die (R17), so this die's slot stands for it (DEDUCED, log entry 81). -/
def codeMac (s : State) (c : BitVec 49) : List Byte :=
  let m := gmac (slotDataKey s 511) (toBytes 12 c.toNat) (s.die.mem.readN (c.toNat * 128) 128)
  ((toBytes 16 m).reverse).take 8

/-- R65: the check of a code line. -/
def codeTagOk (s : State) (c : BitVec 49) : Bool := s.die.mem.readN (tagIa c).toNat 8 == codeMac s c

/-! ## Fetch -/

/-- What the fetch of a word finds: the word, a fault of the bundle, or what must come first: a probe of the page or a line. -/
inductive FetchOut (α : Type) where
  | got (x : α)
  | fault (c : Cause) (info : BitVec 16)
  | probe (ia : BitVec 56)
  /-- a line, or (unc) its bytes read uncached -/
  | line (l : BitVec 50) (unc : Bool)
deriving DecidableEq, Repr

/-- R32, R35, R38, R39: the permission check of a code page: at its home, which on a miss of its buffer walks first; the pages of an
agent that is not configured are unmapped. -/
def codePage (s : State) (ia : BitVec 56) (need : Need) : PageLook :=
  if s.core.mon then .ok
  else if isLocal s ia && (bufferFind s.die.xlate (iaOffset ia)).isSome then replyLook need (homeReply s ia)
  else if configured s (iaAgent ia) then pageLook s ia need
  else .page

/-- R65, R66: the checks of the code line that holds an IA, as it is fetched from the L2. -/
def codeLine (s : State) (ia : BitVec 56) : FetchOut Unit :=
  let c : BitVec 49 := ia.extractLsb' 7 49
  let l0 := lineOf (BitVec.ofNat 56 (c.toNat * 128))
  if ia.getLsbD 45 then .fault .codeTag 0
  else if lineBad s l0 || lineBad s (l0 + 1) then .fault .memError 0
  else if !fetchReadable s l0 then .line l0 false
  else if !fetchReadable s (l0 + 1) then .line (l0 + 1) false
  else if s.die.coh.verified.contains c then .got ()
  else
    match tagPage s c with
    | .miss => .probe (tagIa c)
    | .page => .fault .codeTag 0
    | .protect => .fault .codeTag 0
    | .ok =>
      let tl := lineOf (tagIa c)
      if lineBad s tl then .fault .memError 0
      else if !tagReadable s tl then .line tl true
      else if codeTagOk s c then .got () else .fault .codeTag 0
where
  /-- R65: the tag page at its home. -/
  tagPage (s : State) (c : BitVec 49) : PageLook :=
    if isLocal s (tagIa c) && (bufferFind s.die.xlate (iaOffset (tagIa c))).isSome then replyLook .rd (homeReply s (tagIa c))
    else if configured s (iaAgent (tagIa c)) then pageLook s (tagIa c) .rd
    else .page

/-- One word of code at a VA (R28, R30, R38, R66, R158). A line in the instruction cache passed its checks when it was filled. -/
def fetchWord (s : State) (va : W64) : FetchOut W32 :=
  match addrCheck s s.core.sys.win va (va + 3) .x with
  | none => .fault .range 0
  | some ia =>
    let word := BitVec.ofNat 32 (s.die.mem.readNum ia.toNat 4)
    if s.core.icache.contains (ia.extractLsb' 7 49) then .got word
    else match codePage s ia .x with
    | .miss => .probe ia
    | .page => .fault .page 0
    | .protect => .fault .protect 0
    | .ok =>
      match codeLine s ia with
      | .got _ => .got word
      | .fault c i => .fault c i
      | .probe a => .probe a
      | .line l u => .line l u

/-- n words from a VA up. -/
def fetchWords (s : State) (va : W64) : Nat → FetchOut (List W32)
  | 0 => .got []
  | n + 1 =>
    match fetchWord s va with
    | .got w =>
      match fetchWords s (va + 4) n with
      | .got ws => .got (w :: ws)
      | .fault c i => .fault c i
      | .probe a => .probe a
      | .line l u => .line l u
    | .fault c i => .fault c i
    | .probe a => .probe a
    | .line l u => .line l u

/-- R158: the words of a bundle: the header, and where it breaks no header condition the words that COUNT names. -/
def fetchBundle (s : State) (va : W64) : FetchOut (List W32) :=
  match fetchWord s va with
  | .got h =>
    if (Header.ofWord h).ok then
      match fetchWords s (va + 4) ((Header.ofWord h).count.toNat - 1) with
      | .got ws => .got (h :: ws)
      | .fault c i => .fault c i
      | .probe a => .probe a
      | .line l u => .line l u
    else .got [h]
  | .fault c i => .fault c i
  | .probe a => .probe a
  | .line l u => .line l u

/-- R64: the words of a stream entry: as fetched already, or fetched now. -/
def entryWords (s : State) (pre : Option (List W32)) (va : W64) : FetchOut (List W32) :=
  match pre with
  | some ws => .got ws
  | none => fetchBundle s va

/-- The words of an entry kept for later (R64), where the fetch succeeds. -/
def prefetched (s : State) (pre : Option (List W32)) (va : W64) : Option (List W32) :=
  match entryWords s pre va with
  | .got ws => some ws
  | _ => none

/-- R156: the length in bytes of a bundle by the COUNT of its header word as fetched. -/
def lengthOf (ws : List W32) : W64 := BitVec.ofNat 64 (4 * (fld (ws.headD 0) 24 5).toNat)

/-! ## The stream (R141, R156) -/

/-- The stream of the running level. -/
def stream (s : State) : Stream := if s.core.mon then s.core.mstream else s.core.pcq
def setStream (s : State) (q : Stream) : State :=
  s.upCore fun c => if c.mon then { c with mstream := q } else { c with pcq := q }

/-- The address of the bundle that issues next. -/
def pc (s : State) : W64 := (stream s).q0

/-- R141, R156: a NEXT entry stands for the bundle that follows the one before it in sequence. -/
def nextEntry : W64 := 1
def isNext (q : W64) : Bool := q.getLsbD 0

/-- R156: the entry that follows an entry in sequence: formed where its header word can be read, else NEXT. -/
def follow (s : State) (q : W64) (pre : Option (List W32)) : W64 :=
  if isNext q then nextEntry
  else
    match entryWords s pre q with
    | .got ws => q + lengthOf ws
    | _ => match fetchWord s q with
      | .got h => q + lengthOf [h]
      | _ => nextEntry

/-- R156: entries not yet formed are formed as soon as the header word before them can be fetched. -/
def formStream (s : State) (q : Stream) : Stream :=
  let q1 := if isNext q.q1 then follow s q.q0 q.f0 else q.q1
  let q2 := if isNext q.q2 then follow s q1 q.f1 else q.q2
  { q with q1 := q1, q2 := q2 }

/-- The state with the entries of its stream formed as far as they can be. -/
def formed (s : State) : State := setStream s (formStream s (stream s))

/-- R290: what the bundle of a formed entry still waits for; one that faults is waited for no longer. -/
def entryLook (s : State) (q : W64) (pre : Option (List W32)) : FetchOut Unit :=
  if isNext q then .got ()
  else match entryWords s pre q with
    | .probe a => .probe a
    | .line l u => .line l u
    | _ => .got ()
/-- R156, R290: before a bundle commits, the two bundles after it have been fetched, or raise a fault. -/
def aheadLook (s : State) : FetchOut Unit :=
  let q := formStream s (stream s)
  match entryLook s q.q1 q.f1 with
  | .got _ => entryLook s q.q2 q.f2
  | x => x

/-- R64: fetch ahead the words of the entries that are formed. -/
def fetchAhead (s : State) (q : Stream) : Stream :=
  { q with
    f0 := if isNext q.q0 then none else prefetched s q.f0 q.q0
    f1 := if isNext q.q1 then none else prefetched s q.f1 q.q1
    f2 := if isNext q.q2 then none else prefetched s q.f2 q.q2 }

/-- The code lines that n words from a VA up lie in. -/
def fetchedLines (s : State) (va : W64) (n : Nat) : List (BitVec 49) :=
  ([va, va + BitVec.ofNat 64 (4 * (n - 1))].filterMap fun a =>
    (addrCheck s s.core.sys.win a (a + 3) .x).map fun ia => ia.extractLsb' 7 49).eraseDups
/-- R64, R65: a code line that a fetch has found good: the L2 keeps it with its verified bit, and the instruction cache fills from
it. A line that was sent for one use only (R58) is not kept. -/
def fillCode (c : BitVec 49) (s : State) : State :=
  let l0 : BitVec 50 := BitVec.ofNat 50 (c.toNat * 2)
  let held := fun l => (homeFind s l).isSome || (localState s l).isSome
  if s.core.icache.contains c then s
  else if held l0 && held (l0 + 1) then
    icacheEnter c (l2Touch false (l0 + 1) (l2Touch false l0 (upCoh (fun k => { k with
      verified := c :: k.verified.filter fun x => !(x == c) }) s)))
  else s
def fillFetched (va : W64) (n : Nat) (s : State) : State := (fetchedLines s va n).foldl (fun st c => fillCode c st) s
/-- The entries of a stream whose words have just been fetched. -/
def fillStream (before after : Stream) (s : State) : State :=
  [(after.q0, before.f0, after.f0), (after.q1, before.f1, after.f1), (after.q2, before.f2, after.f2)].foldl (fun st x =>
    match x.2.1, x.2.2 with
    | none, some ws => fillFetched x.1 ws.length st
    | _, _ => st) s

/-- What a bundle's B slot does to the stream (R156, R157): a target, and the annulment of the next two bundles. -/
structure Ctl where
  target : Option W64
  annul : Bool
deriving DecidableEq, Repr

def Ctl.none : Ctl := ⟨Option.none, false⟩

/-- R156: the address the stream takes after the bundle at A(n+2). -/
def sequential (s : State) : W64 := let q := stream s; follow s q.q2 q.f2

/-- R156, R157: the stream after a bundle has issued: A(n+3) is the target or follows in sequence. -/
def advance (ctl : Ctl) (s : State) : State :=
  let q := formStream s (stream s)
  let a3 := match ctl.target with
    | some t => t &&& ~~~3
    | Option.none => follow s q.q2 q.f2
  let an := (q.annul >>> 1) ||| (if ctl.annul then 3 else 0)
  let next : Stream := ⟨q.q1, q.q2, a3, an, q.f1, q.f2, Option.none⟩
  let ahead := fetchAhead s next
  setStream (fillStream next ahead s) ahead

end Sys2Proof.Machine
end

