-- ==== Sys2Proof/Machine/Float.lean ====
section
/-! DEFINITION. Number formats and exact arithmetic (R110 to R124): formats, rounding, flags, and the operations of the
scalar and vector units as one rounding of an exact value. -/
namespace Sys2Proof.Machine

/-- R119: the flag bits. -/
abbrev Flags := BitVec 7
def fNV : Flags := 1
def fDZ : Flags := 2
def fOF : Flags := 4
def fUF : Flags := 8
def fNX : Flags := 16
def fIOV : Flags := 32
def fSAT : Flags := 64

/-- R110: a floating-point format: exponent and fraction bits, bias, whether it has an infinity, whether it has a NaN, the
canonical NaN, and the largest finite value as bits and as mantissa times a power of two. -/
structure Fmt where
  eb : Nat
  fb : Nat
  bias : Nat
  inf : Bool
  nan : Bool
  qnan : Nat
  maxBits : Nat
  maxM : Nat
  maxE : Int
deriving DecidableEq, Repr

def fp64 : Fmt := ⟨11, 52, 1023, true, true, 0x7FF8000000000000, 0x7FEFFFFFFFFFFFFF, 2 ^ 53 - 1, 971⟩
def fp32 : Fmt := ⟨8, 23, 127, true, true, 0x7FC00000, 0x7F7FFFFF, 2 ^ 24 - 1, 104⟩
def fp16 : Fmt := ⟨5, 10, 15, true, true, 0x7E00, 0x7BFF, 2 ^ 11 - 1, 5⟩
def bf16 : Fmt := ⟨8, 7, 127, true, true, 0x7FC0, 0x7F7F, 2 ^ 8 - 1, 120⟩
def e5m2 : Fmt := ⟨5, 2, 15, true, true, 0x7E, 0x7B, 7, 13⟩
def e4m3 : Fmt := ⟨4, 3, 7, false, true, 0x7F, 0x7E, 14, 5⟩
def e2m1 : Fmt := ⟨2, 1, 1, false, false, 0, 7, 3, 1⟩

/-- The width of a format in bits. -/
def Fmt.width (f : Fmt) : Nat := 1 + f.eb + f.fb

/-- R116: the rounding modes; a stochastic draw carries h[23:0] of R117. -/
inductive RMode where | rne | rz | rd | ru | sr (h : Nat)
deriving DecidableEq, Repr

/-- What bits stand for: a NaN, an infinity, or ± m × 2^e. -/
inductive FVal where
  | nan
  | inf (neg : Bool)
  | fin (neg : Bool) (m : Nat) (e : Int)
deriving DecidableEq, Repr

/-- R110: the value of the bits of a format. -/
def decodeF (f : Fmt) (x : Nat) : FVal :=
  let neg := x.testBit (f.eb + f.fb)
  let e := x >>> f.fb % 2 ^ f.eb
  let m := x % 2 ^ f.fb
  let top := 2 ^ f.eb - 1
  if f.inf && e == top then (if m = 0 then .inf neg else .nan)
  else if !f.inf && f.nan && e == top && m == 2 ^ f.fb - 1 then .nan
  else if e = 0 then .fin neg m (1 - (f.bias : Int) - f.fb)
  else .fin neg (2 ^ f.fb + m) ((e : Int) - f.bias - f.fb)

/-- An exact result before its rounding: a NaN (with its flags), an infinity, a zero, or ± num ÷ den. -/
inductive Exact where
  | nan (fl : Flags)
  | inf (neg : Bool) (fl : Flags)
  | zero (neg : Bool)
  | val (neg : Bool) (num den : Nat)
deriving DecidableEq, Repr

/-- The exponent of num ÷ den: the largest k with 2^k ≤ num ÷ den, for nonzero numbers. -/
def floorLog2 (num den : Nat) : Int :=
  let a := Nat.log2 num
  let b := Nat.log2 den
  if b ≤ a then (if den <<< (a - b) ≤ num then ((a - b : Nat) : Int) else ((a - b : Nat) : Int) - 1)
  else (if den ≤ num <<< (b - a) then -((b - a : Nat) : Int) else -((b - a : Nat) : Int) - 1)

/-- num ÷ den scaled by 2^-q: the quotient, the remainder and the divisor. -/
def scaleBy (num den : Nat) (q : Int) : Nat × Nat × Nat :=
  match q with
  | .ofNat k => let d := den <<< k; (num / d, num % d, d)
  | .negSucc k => let n := num <<< (k + 1); (n / den, n % den, den)

/-- R115 to R117: whether the magnitude n + r ÷ d rounds up to n + 1. -/
def roundsUp (md : RMode) (neg : Bool) (n r d : Nat) : Bool :=
  if r = 0 then false
  else
    match md with
    | .rne => decide (d < 2 * r) || (decide (2 * r = d) && n % 2 == 1)
    | .rz => false
    | .rd => neg
    | .ru => !neg
    | .sr h => if neg then !(decide (h < (d - r) * 2 ^ 24 / d)) else decide (h < r * 2 ^ 24 / d)

/-- The sign bit of a format. -/
def signBits (f : Fmt) (neg : Bool) : Nat := if neg then 2 ^ (f.eb + f.fb) else 0

/-- R121: the result of an overflow. -/
def overflowBits (f : Fmt) (md : RMode) (neg : Bool) : Nat :=
  let big := signBits f neg + f.maxBits
  let infinity := signBits f neg + (2 ^ f.eb - 1) * 2 ^ f.fb
  if !f.inf then big
  else
    match md with
    | .rz => big
    | .rd => if neg then infinity else big
    | .ru => if neg then big else infinity
    | _ => infinity

/-- Whether m × 2^q is above the largest finite value. -/
def aboveMax (f : Fmt) (m : Nat) (q : Int) : Bool :=
  match q - f.maxE with
  | .ofNat k => decide (f.maxM < m <<< k)
  | .negSucc k => decide (f.maxM <<< (k + 1) < m)

/-- R115, R118, R121: a nonzero magnitude num ÷ den rounded to a format, with its flags. -/
def roundMag (f : Fmt) (md0 : RMode) (neg : Bool) (num den : Nat) : Nat × Flags :=
  let e := floorLog2 num den
  let emin : Int := 1 - (f.bias : Int)
  let q := (if e < emin then emin else e) - f.fb
  let (n, r, d) := scaleBy num den q
  -- R117: a value beyond the largest finite magnitude is rounded as under RNE
  let md := match md0 with
    | .sr h => if aboveMax f n q || (decide (r ≠ 0) && aboveMax f (n + 1) q) then
        (if aboveMax f (2 * n + (if r = 0 then 0 else 1)) (q - 1) then .rne else .sr h) else .sr h
    | m => m
  let n' := if roundsUp md neg n r d then n + 1 else n
  let nx : Flags := if r = 0 then 0 else fNX
  if aboveMax f n' q then (overflowBits f md neg, fOF ||| fNX)
  else
    -- R118: tininess after rounding with the exponent range unbounded
    let tiny := decide (e < emin) &&
      (let (m, t, c) := scaleBy num den (e - f.fb)
       let m' := if roundsUp md neg m t c then m + 1 else m
       !(decide (e + 1 = emin) && decide (m' = 2 ^ (f.fb + 1))))
    let uf : Flags := if tiny && r != 0 then fUF else 0
    let bitsE := (q + f.fb + f.bias).toNat
    let body := if n' < 2 ^ f.fb then n'
      else if n' = 2 ^ (f.fb + 1) then (bitsE + 1) <<< f.fb
      else bitsE <<< f.fb + (n' - 2 ^ f.fb)
    (signBits f neg + body, nx ||| uf)

/-- R111, R118, R121: an exact result delivered in a format. E2M1 has no NaN and takes +0 with NV; a format without an
infinity takes its largest finite value with OF. -/
def deliver (f : Fmt) (md : RMode) : Exact → Nat × Flags
  | .nan fl => if f.nan then (f.qnan, fl) else (0, fl ||| fNV)
  | .inf neg fl =>
    if f.inf then (signBits f neg + (2 ^ f.eb - 1) * 2 ^ f.fb, fl) else (signBits f neg + f.maxBits, fl ||| fOF)
  | .zero neg => (signBits f neg, 0)
  | .val neg num den => if num = 0 then (signBits f neg, 0) else roundMag f md neg num den

/-- ± m × 2^e as an exact result. -/
def exactOf (neg : Bool) (m : Nat) (e : Int) : Exact :=
  if m = 0 then .zero neg
  else match e with
    | .ofNat k => .val neg (m <<< k) 1
    | .negSucc k => .val neg m (2 ^ (k + 1))

/-- The value itself as an exact result. -/
def exactVal : FVal → Exact
  | .nan => .nan 0
  | .inf neg => .inf neg 0
  | .fin neg m e => exactOf neg m e

/-- A signed mantissa scaled to an exponent not above its own. -/
def alignTo (neg : Bool) (m : Nat) (e lo : Int) : Int :=
  let x : Int := ((m <<< (e - lo).toNat : Nat) : Int)
  if neg then -x else x

/-- R118: the sign of an exact zero sum: of its addends if all are zeros of one sign, else minus under RD. -/
def zeroSum (md : RMode) (allNegZero allPosZero : Bool) : Exact :=
  if allNegZero then .zero true
  else if allPosZero then .zero false
  else .zero (md == .rd)

/-- A sum of finite addends ± m × 2^e, exact. -/
def sumFin (md : RMode) (xs : List (Bool × Nat × Int)) : Exact :=
  let lo := xs.foldl (fun acc x => if x.2.2 < acc then x.2.2 else acc) (match xs with | [] => 0 | x :: _ => x.2.2)
  let t := xs.foldl (fun acc x => acc + alignTo x.1 x.2.1 x.2.2 lo) (0 : Int)
  if t = 0 then
    zeroSum md (!xs.isEmpty && xs.all fun x => x.1 && x.2.1 == 0) (!xs.isEmpty && xs.all fun x => !x.1 && x.2.1 == 0)
  else exactOf (decide (t < 0)) t.natAbs lo

/-- R118: a sum. -/
def addF (md : RMode) : FVal → FVal → Exact
  | .nan, _ => .nan 0
  | _, .nan => .nan 0
  | .inf a, .inf b => if a = b then .inf a 0 else .nan fNV
  | .inf a, .fin _ _ _ => .inf a 0
  | .fin _ _ _, .inf b => .inf b 0
  | .fin a m e, .fin b n k => sumFin md [(a, m, e), (b, n, k)]

def negF : FVal → FVal
  | .nan => .nan
  | .inf a => .inf (!a)
  | .fin a m e => .fin (!a) m e

/-- R118: a product. -/
def mulF : FVal → FVal → Exact
  | .nan, _ => .nan 0
  | _, .nan => .nan 0
  | .inf a, .inf b => .inf (a != b) 0
  | .inf a, .fin b n _ => if n = 0 then .nan fNV else .inf (a != b) 0
  | .fin a m _, .inf b => if m = 0 then .nan fNV else .inf (a != b) 0
  | .fin a m e, .fin b n k => exactOf (a != b) (m * n) (e + k)

/-- R118, R258: x × y + z with one rounding; 0 × ∞ raises NV even with a NaN addend. -/
def fmaF (md : RMode) (x y z : FVal) : Exact :=
  let prodBad := match x, y with
    | .inf _, .fin _ 0 _ => true
    | .fin _ 0 _, .inf _ => true
    | _, _ => false
  if prodBad then .nan fNV
  else
    match x, y, z with
    | .nan, _, _ => .nan 0
    | _, .nan, _ => .nan 0
    | _, _, .nan => .nan 0
    | .fin a m e, .fin b n k, .fin c p q => sumFin md [(a != b, m * n, e + k), (c, p, q)]
    | .fin _ _ _, .fin _ _ _, .inf c => .inf c 0
    | x, y, z =>
      let s := (match x with | .inf a => a | .fin a _ _ => a | .nan => false)
        != (match y with | .inf b => b | .fin b _ _ => b | .nan => false)
      match z with
      | .inf c => if s = c then .inf s 0 else .nan fNV
      | _ => .inf s 0

/-- R118: a quotient. -/
def divF : FVal → FVal → Exact
  | .nan, _ => .nan 0
  | _, .nan => .nan 0
  | .inf _, .inf _ => .nan fNV
  | .inf a, .fin b _ _ => .inf (a != b) 0
  | .fin a _ _, .inf b => .zero (a != b)
  | .fin a m e, .fin b n k =>
    if n = 0 then (if m = 0 then .nan fNV else .inf (a != b) fDZ)
    else if m = 0 then .zero (a != b)
    else match e - k with
      | .ofNat j => .val (a != b) (m <<< j) n
      | .negSucc j => .val (a != b) m (n <<< (j + 1))

/-- The integer square root by Newton's steps from above, with fuel. -/
def isqrtFrom : Nat → Nat → Nat → Nat
  | 0, _, x => x
  | k + 1, n, x => let y := (x + n / x) / 2; if x ≤ y then x else isqrtFrom k n y

/-- The largest r with r × r ≤ n. -/
def isqrt (n : Nat) : Nat := if n = 0 then 0 else isqrtFrom (Nat.log2 n + 2) n (2 ^ (Nat.log2 n / 2 + 1))

/-- A value that rounds as the square root of m × 2^e does, in every format of at most 62 bits: its leading bits and a
sticky bit below them. -/
def sqrtExact (m : Nat) (e : Int) : Exact :=
  let m1 := if e % 2 = 0 then m else 2 * m
  let e1 := if e % 2 = 0 then e else e - 1
  let big := m1 <<< 160
  let r := isqrt big
  exactOf false (2 * r + (if r * r = big then 0 else 1)) ((e1 - 160) / 2 - 1)

/-- R118: a square root; −0 gives −0. -/
def sqrtF : FVal → Exact
  | .nan => .nan 0
  | .inf a => if a then .nan fNV else .inf false 0
  | .fin a m e => if m = 0 then .zero a else if a then .nan fNV else sqrtExact m e

/-! ## Comparison (R124) -/

def FVal.isNan : FVal → Bool
  | .nan => true
  | _ => false

/-- The order of two numbers, none of them a NaN: -1, 0 or 1. -/
def cmpVal : FVal → FVal → Int
  | .inf a, .inf b => if a = b then 0 else if a then -1 else 1
  | .inf a, _ => if a then -1 else 1
  | _, .inf b => if b then 1 else -1
  | .fin a m e, .fin b n k =>
    let lo := if e < k then e else k
    let x := alignTo a m e lo
    let y := alignTo b n k lo
    if x < y then -1 else if x = y then 0 else 1
  | _, _ => 0

def feq (x y : FVal) : Bool := !x.isNan && !y.isNan && cmpVal x y == 0
def flt (x y : FVal) : Bool := !x.isNan && !y.isNan && decide (cmpVal x y < 0)
def fle (x y : FVal) : Bool := !x.isNan && !y.isNan && decide (cmpVal x y ≤ 0)
def funord (x y : FVal) : Bool := x.isNan || y.isNan
/-- R124: less and less-or-equal raise NV on a NaN. -/
def cmpFlags (x y : FVal) : Flags := if funord x y then fNV else 0

def FVal.neg : FVal → Bool
  | .nan => false
  | .inf a => a
  | .fin a _ _ => a

/-- R124: minimumNumber and maximumNumber on the bits of a format; a NaN alone gives way, two give the canonical NaN. -/
def minF (f : Fmt) (x y : Nat) : Nat :=
  let a := decodeF f x
  let b := decodeF f y
  if a.isNan && b.isNan then f.qnan else if a.isNan then y else if b.isNan then x
  else if cmpVal a b < 0 then x else if 0 < cmpVal a b then y else if a.neg then x else y
def maxF (f : Fmt) (x y : Nat) : Nat :=
  let a := decodeF f x
  let b := decodeF f y
  if a.isNan && b.isNan then f.qnan else if a.isNan then y else if b.isNan then x
  else if cmpVal a b < 0 then y else if 0 < cmpVal a b then x else if a.neg then y else x

/-! ## Conversion (R121, R122) -/

/-- R121: a conversion between float formats. -/
def convF (src dst : Fmt) (md : RMode) (x : Nat) : Nat × Flags := deliver dst md (exactVal (decodeF src x))

/-- The magnitude num ÷ den rounded to an integer. -/
def roundInt (md : RMode) (neg : Bool) (num den : Nat) : Nat × Bool :=
  let n := num / den
  let r := num % den
  (if roundsUp md neg n r den then n + 1 else n, r != 0)

/-- R122: an exact value to an integer between lo and hi, saturating with NV; a NaN gives 0 and NV. -/
def toIntSat (md : RMode) (lo hi : Int) : Exact → Int × Flags
  | .nan _ => (0, fNV)
  | .inf neg _ => (if neg then lo else hi, fNV)
  | .zero _ => (0, 0)
  | .val neg num den =>
    let (n, nx) := roundInt md neg num den
    let z : Int := if neg then -(n : Int) else n
    if z < lo then (lo, fNV) else if hi < z then (hi, fNV) else (z, if nx then fNX else 0)

/-- R122: an integer in a float format. -/
def intToF (f : Fmt) (md : RMode) (z : Int) : Nat × Flags :=
  if z = 0 then (0, 0) else deliver f md (.val (decide (z < 0)) z.natAbs 1)

end Sys2Proof.Machine
end

