-- ==== Sys2Proof/Machine/Access.lean ====
section
/-! DEFINITION. Global accesses of the core (R194 to R204): how an access that has issued is performed, when it may be, and
what a load brings to the scoreboard. -/
namespace Sys2Proof.Machine

/-- The distinct lines of a list of IAs, in order of first appearance. -/
def linesOf (ias : List Nat) : List (BitVec 50) := (ias.map fun a => lineOf (BitVec.ofNat 56 a)).eraseDups

/-- The IA bytes an access touches. -/
def accBytes (g : GAcc) : List Nat :=
  match g.op with
  | .load _ => g.cells.map (·.2)
  | _ => g.cells.map (·.1)

/-- The line of a global access. -/
def GAcc.line (g : GAcc) : BitVec 50 := lineOf (BitVec.ofNat 56 ((accBytes g).headD 0))
def GOp.isLoad : GOp → Bool
  | .load _ => true
  | _ => false
def GOp.isAtomic : GOp → Bool
  | .atomic _ _ _ _ => true
  | _ => false

/-- R200, R201: the new value of an atomic on n bytes; none where nothing is written (a failed ACAS). -/
def atomResult (op : AtomOp) (n : Nat) (old x y : Nat) : Option Nat :=
  let m := 2 ^ (8 * n)
  match op with
  | .add => some ((old + x) % m)
  | .min => some (if sextInt x (8 * n) < sextInt old (8 * n) then x % m else old)
  | .max => some (if sextInt old (8 * n) < sextInt x (8 * n) then x % m else old)
  | .minn => some (min old (x % m))
  | .maxn => some (max old (x % m))
  | .and => some (old &&& (x % m))
  | .or => some (old ||| (x % m))
  | .xor => some (old ^^^ (x % m))
  | .xchg => some (x % m)
  | .cas => if old = x % m then some (y % m) else none
  | .faddB => some (deliver bf16 .rne (addF .rne (decodeF bf16 old) (decodeF bf16 (x % m)))).1
  | .faddF => some (deliver fp32 .rne (addF .rne (decodeF fp32 old) (decodeF fp32 (x % m)))).1

/-- Drop an element wherever it stands. -/
def without {α : Type} [BEq α] (x : α) (l : List α) : List α := l.filter fun y => !(y == x)

/-- R181: a store or Invalidate of an armed flag's line. -/
def flagChanged (l : BitVec 50) (a : Arm) : Arm := if lineOf a.flagIa == l then { a with changed := true } else a

/-- R46, R64, R65: what a write of this die to a line does to what is recorded of it: the home line is dirty, code lines lose
their verified bit and leave the instruction cache, a line of another home is modified, and an armed flag is read again. -/
def noteWrite (s : State) (l : BitVec 50) : State :=
  let c : BitVec 49 := l.extractLsb' 1 49
  let coh := { s.die.coh with
    verified := without c s.die.coh.verified
    home := s.die.coh.home.map fun h => if h.line == l then { h with dirty := true } else h
    localLines := s.die.coh.localLines.map fun x => if x.1 == l then (l, .modified) else x }
  { s with
    die := { s.die with coh := coh, coll := { s.die.coll with arms := s.die.coll.arms.map (flagChanged l) } }
    core := { s.core with icache := without c s.core.icache } }

/-- R63: a line of the core's L1 used, newest first in its set of eight ways; the oldest gives way. The spec gives no replacement
policy for the L1 (DESIGN CHOICE, log entry 80). The L2 records the core as a holder (R46). -/
def touchL1 (l : BitVec 50) (st : L1State) (s : State) : State :=
  noteHolder s.core.cid l <| l2Touch false l <| s.upCore fun c =>
    let others := c.l1.filter fun x => !(x.1 == l)
    let same := others.filter fun x => x.1.toNat % 128 == l.toNat % 128
    let rest := others.filter fun x => !(x.1.toNat % 128 == l.toNat % 128)
    { c with l1 := (l, st) :: same.take 7 ++ rest }

/-- The IA bytes of a line that a list of stores covers. -/
def coversLine (l : BitVec 50) (cells : List (Nat × Nat)) : Bool :=
  (List.range 64).all fun i => cells.any fun c => c.1 == (lineIa l).toNat + i

/-- R21, R198: a store that an Error drops (info as MEM_ERROR's INFO has it); the controller that discards it records it, and of an unmapped
one the writer's die. -/
def discard (s : State) (info : BitVec 16) (l : BitVec 50) : State :=
  if isLocal s (lineIa l) || info == 2 then
    s.upDie fun d => { d with errors := d.errors ++ [⟨.writeDiscarded, 0, lineIa l, s.core.agent, .none⟩] }
  else s

/-- Bytes written to global memory (R196): line by line. -/
def storeCells (cells : List (Nat × Nat)) (s : State) : State :=
  (linesOf (cells.map (·.1))).foldl (fun s l =>
    let mine := cells.filter fun c => lineOf (BitVec.ofNat 56 c.1) == l
    noteWrite (s.setMem (s.die.mem.writeCells (mine.map fun c => (c.1, BitVec.ofNat 8 c.2)))) l) s

/-- The value a load brings, placed byte by byte (R191, R194). -/
def gatherValue (m : Memory) (cells : List (Nat × Nat)) : W1024 :=
  BitVec.ofNat 1024 (cells.foldl (fun acc c => acc ||| (m.read c.2).toNat <<< (8 * c.1)) 0)

/-- A scalar load's value extended (R191). -/
def extendLoad (a : Await) (v : W1024) : W1024 :=
  if a.vec then v else if a.sext then (sext64 v.toNat (8 * a.size)).setWidth 1024 else v

/-- The scoreboard records of the core changed, those of the images it has saved with them (R354). -/
def upAwaits (f : List Await → List Await) (s : State) : State :=
  { s with
    core := { s.core with
      awaits := f s.core.awaits
      saveArea := s.core.saveArea.map fun x => (x.1, { x.2 with awaits := f x.2.awaits }) }
    die := { s.die with disp := { s.die.disp with
      slots := s.die.disp.slots.map fun x => (x.1, { x.2 with awaits := f x.2.awaits }) } } }

/-- R152, R354: a value becomes known to the scoreboard entry that waits for it. -/
def resolve (id : Nat) (v : W1024) (s : State) : State :=
  upAwaits (fun l => l.map fun a => if a.id == id then { a with value := some (extendLoad a v) } else a) s

/-- R152, R194, R354: one line of a load has brought its bytes; with the last of them its value is known. -/
def resolvePart (id : Nat) (v : W1024) (last : Bool) (s : State) : State :=
  upAwaits (fun l => l.map fun a =>
    if a.id == id then { a with part := a.part ||| v, value := if last then some (extendLoad a (a.part ||| v)) else a.value } else a) s

/-- R198, R334, R335: a MEM_ERROR pends, after those that do already; errors of one bundle with the same INFO are one: FMASK marks the slot
of each, and FADDR is the lowest address of all. -/
def addMemErr (va : W64) (slot : Nat) (iaddr : W64) (info : BitVec 16) (a : Asyncs) : Asyncs :=
  let m : BitVec 12 := BitVec.ofNat 12 (2 ^ slot)
  { a with memErr :=
    if a.memErr.any fun e => e.iaddr == iaddr && e.info == info then
      a.memErr.map fun e =>
        if e.iaddr == iaddr && e.info == info then
          { e with va := if va.toNat < e.va.toNat then va else e.va, fmask := e.fmask ||| m } else e
    else a.memErr ++ [⟨va, m, iaddr, info⟩] }
/-- R198, R354: the same for a task that has been saved. -/
def imageError (id : Nat) (info : BitVec 16) (x : W64 × Ctx) : W64 × Ctx :=
  match x.2.awaits.find? fun a => a.id == id with
  | none => x
  | some a => (x.1, { x.2 with
      awaits := x.2.awaits.filter fun y => !(y.id == id)
      asyncs := addMemErr a.va a.slot a.iaddr info x.2.asyncs })

/-- R198: an uncorrectable or unmapped answer: the destination keeps its value and MEM_ERROR becomes pending. -/
def loadError (id : Nat) (info : BitVec 16) (s : State) : State :=
  match s.core.awaits.find? fun a => a.id == id with
  | none =>
    { s with
      core := { s.core with saveArea := s.core.saveArea.map (imageError id info) }
      die := { s.die with disp := { s.die.disp with slots := s.die.disp.slots.map (imageError id info) } } }
  | some a =>
    s.upCore fun c =>
      { c with
        awaits := c.awaits.filter fun x => !(x.id == id)
        latch := true
        asyncs := addMemErr a.va a.slot a.iaddr info c.asyncs }

/-- R46: the L1 state a read brings. Where the die holds the line exclusively the L2 may give E or S: S (DESIGN CHOICE, log entry
82). -/
def readL1 (s : State) (l : BitVec 50) : L1State :=
  match s.core.l1.find? fun x => x.1 == l with
  | some x => x.2
  | none => .shared

/-- R24, R60: an atomic runs at the home slice: one of die scope or wider, and any on a second-tier line. -/
def atHome (s : State) (g : GAcc) : Bool :=
  g.op.isAtomic && (decide (2 ≤ g.scope.toNat) || inTier2 s (lineIa g.line) || farTier2 s (lineIa g.line))

/-- R60, R63: the line an access leaves in the L1. -/
def touchAll (g : GAcc) (s : State) : State :=
  if atHome s g then l2Touch false g.line (s.upCore fun c => { c with l1 := c.l1.filter fun x => !(x.1 == g.line) })
  else touchL1 g.line (if g.op.isLoad then readL1 s g.line else .modified) s

/-- The other lines of a load have all brought their bytes. -/
def lastPart (s : State) (g : GAcc) : Bool := !s.core.accs.any fun x => x.op == g.op

/-- R198: what the Error of its line does to an access: a load or atomic raises MEM_ERROR, once for all its lines, and a store is
dropped. -/
def failAccess (info : BitVec 16) (g : GAcc) (s : State) : State :=
  let drop := fun (st : State) => st.upCore fun c => { c with accs := c.accs.filter fun x => !(x.op == g.op) }
  match g.op with
  | .load id => loadError id info (drop s)
  | .store => discard s info g.line
  | .atomic _ _ _ (some id) => loadError id info s
  | .atomic _ _ _ none =>
    match g.org with
    | some (va, slot, ia) => s.upCore fun c => { c with latch := true, asyncs := addMemErr va slot ia info c.asyncs }
    | none => s

/-- R88, R281: bytes that engines have read uncached, or asked for, before an acquire or DRAIN of the core has completed are for work that
was issued before its access with this number alone. -/
def engBarrier (seq : Nat) (s : State) : State :=
  let low := fun (b : Option Nat) => match b with | some x => some (min x seq) | none => some seq
  let mark := fun (t : Txn) => if t.eng && t.kind == .readUnc then { t with bar := low t.bar } else t
  if s.die.coh.uncLines.isEmpty && s.die.coh.requests.isEmpty && s.die.coh.txns.isEmpty && s.die.coh.waiting.isEmpty then s
  else upCoh (fun c => { c with
    uncLines := c.uncLines.map fun u => { u with bar := low u.bar }
    requests := c.requests.map mark, txns := c.txns.map mark, waiting := c.waiting.map mark }) s

/-- R194 to R203: what an access does at its line, the state as it stands when it does; an acquire has its value then. -/
def perform (g : GAcc) (s0 : State) : State :=
  let s := if g.acq then engBarrier g.seq s0 else s0
  match g.op with
  | .load id => resolvePart id (gatherValue s.die.mem g.cells) (lastPart s g) s
  | .store => storeCells g.cells s
  | .atomic op x y id =>
    let a := (g.cells.map (·.1)).headD 0
    let n := g.cells.length
    let old := s.die.mem.readNum a n
    let s1 := match atomResult op n old x.toNat y.toNat with
      | some v => storeCells ((List.range n).map fun i => (a + i, v >>> (8 * i) % 256)) s
      | none => s
    match id with
    | some i => resolve i (BitVec.ofNat 1024 old) s1
    | none => s1

/-- R21: a store that covers its whole line, which needs none of the old bytes. -/
def wholeLine (g : GAcc) : Bool := g.op == .store && coversLine g.line g.cells

/-- R60: an atomic that runs at the home slice of another agent. -/
def atHomeElsewhere (s : State) (g : GAcc) : Bool := atHome s g && !isLocal s (lineIa g.line)

/-- R45, R57, R59, R60: the line of an access is held so that it can be performed, or its Error has come. -/
def accLinesOk (s : State) (g : GAcc) : Bool :=
  if lineBad s g.line && !wholeLine g then true
  else if g.op.isLoad then lineReadable s g.line
  else !atHomeElsewhere s g && lineWritable s g.line

/-- R197: writes of engines that were sent to their homes before an access issued are not performed yet. A release waits for
all of them, among them those of every copy whose completion the core had observed (log entry 83). -/
def engWritesOut (s : State) (seq : Nat) : Bool :=
  (s.die.coh.requests ++ s.die.coh.later ++ s.die.coh.txns ++ s.die.coh.waiting).any fun t =>
    t.eng && t.kind == .ownUnc && t.src == s.core.agent && decide (t.acc.getD 0 < seq)

/-- R196, R208: a DCWB or DCINV that has not worked yet, before an access to one of its lines. -/
def hintBefore (g : GAcc) (h : Hint) : Bool :=
  decide (h.seq < g.seq) && decide (h.ia.toNat / 64 ≤ g.line.toNat) && decide (g.line.toNat ≤ (h.ia.toNat + h.len - 1) / 64) && match h.kind with
    | .clean _ | .drop _ => true
    | _ => false
/-- R196, R197: no earlier unperformed access touches the bytes of an access, before a release every earlier one has been performed, and
no earlier DCWB or DCINV of its line is outstanding. -/
def ordOk (s : State) (earlier : List GAcc) (g : GAcc) : Bool :=
  !(s.core.hints.any (hintBefore g)) && (!g.rel || (earlier.isEmpty && !engWritesOut s g.seq))
    && earlier.all fun e => (accBytes e).all fun a => !(accBytes g).contains a

def canPerform (s : State) (earlier : List GAcc) (g : GAcc) : Bool := accLinesOk s g && ordOk s earlier g

/-- The unperformed accesses before one. -/
def before (s : State) (g : GAcc) : List GAcc := s.core.accs.takeWhile fun x => !(x == g)
def dropAcc (g : GAcc) (s : State) : State := s.upCore fun c => { c with accs := c.accs.filter fun x => !(x == g) }

/-- An access that leaves the list: performed, or ended by the Error of its line. -/
def finishAcc (g : GAcc) (s : State) : State :=
  let s1 := dropAcc g s
  if lineBad s g.line && !wholeLine g then failAccess (badInfo s g.line) g s1 else perform g (touchAll g s1)

/-- The accesses in issue order, each performed where it may be. -/
def performEach : List GAcc → State → State
  | [], s => s
  | g :: gs, s =>
    performEach gs (if s.core.accs.contains g && canPerform s (before s g) g then finishAcc g s else s)

/-- R206: the lines a PREF asked for that are there now; .l1 puts them into the L1. -/
def servePrefs (s : State) : State :=
  let got := s.core.prefs.filter fun p => lineReadable s p.line
  got.foldl (fun st p => if p.l1 then touchL1 p.line (readL1 st p.line) st else st)
    (s.upCore fun c => { c with prefs := c.prefs.filter fun p => !lineReadable s p.line })

/-- R20: an Error that an access of the core has taken is told; one that an engine or a fetch asked for stays until it takes it. -/
def toldBad (was : List GAcc) (s : State) : State :=
  let lines := (was.map (·.line)).filter fun l => !s.core.accs.any fun g => g.line == l
  upCoh (fun c => { c with badLines := c.badLines.filter fun b => b.eng || !lines.contains b.line }) s

/-- Every access that can be performed now is. -/
def performReady (s : State) : State :=
  let s1 := if s.core.accs.isEmpty then s else
    let bad := s.core.accs.filter fun g => lineBad s g.line
    let s2 := performEach s.core.accs s
    if bad.isEmpty then s2 else toldBad bad s2
  if s1.core.prefs.isEmpty then s1 else servePrefs s1

/-- R195: the request entries in use: one for each line of each outstanding access. -/
def entriesUsed (s : State) : Nat := s.core.accs.length + s.core.prefs.length

/-- The lines that unperformed accesses wait for, with whether they must be written: those that nothing but their line holds up. -/
def neededLines (s : State) : List (BitVec 50 × Bool) :=
  ((s.core.accs.filter fun g => ordOk s (before s g) g).map fun g => (g.line, !g.op.isLoad)) ++ s.core.prefs.map fun p => (p.line, false)

/-- R38: the pages of a global access in the filter are used. -/
def touchPages (ias : List Nat) (s : State) : State :=
  if s.core.mon then s else ias.foldl (fun st a => filterTouch (BitVec.ofNat 56 a) st) s

/-- A new outstanding access: a part for each line (R195). -/
def pushAcc (op : GOp) (cells : List (Nat × Nat)) (rel acq : Bool) (scope : BitVec 3) (s : State) (org : Option (W64 × Nat × W64) := none) :
    State :=
  let parts := byLine (fun c => if op.isLoad then c.2 else c.1) cells
  touchPages (parts.map fun p => (p.headD (0, 0)) |> fun c => if op.isLoad then c.2 else c.1) <| s.upCore fun c =>
    { c with accs := c.accs ++ parts.map (fun p => ⟨op, p, rel, acq, scope, c.accSeq + 1, org⟩), accSeq := c.accSeq + 1 }

/-- R152: a new scoreboarded destination; the entry's number is nextId as it stood. -/
def pushAwait (a : Await) (s : State) : State :=
  s.upCore fun c => { c with awaits := c.awaits ++ [{ a with id := c.nextId }], nextId := c.nextId + 1 }

/-- A scoreboard entry for a scalar register of the running level, value not known. -/
def scalarAwait (s : State) (r : BitVec 6) (slot : Nat) : Await :=
  { id := 0, mon := s.core.mon, vec := false, reg := r, mask := lowMask 8, value := none, part := 0, load := false, va := 0
    bytes := [], size := 8, sext := false, acq := false, slot := slot, syl := 0, iaddr := pc s, probe := none, grot := none, held := none }

/-- R152, R165: a C-slot or system result that is known and travels to its scalar register. -/
def pushResult (s0 : State) (r : BitVec 6) (slot : Nat) (v : W64) (s : State) : State :=
  pushAwait { scalarAwait s0 r slot with value := some (v.setWidth 1024) } s

end Sys2Proof.Machine
end

