-- ==== Sys2Proof/Machine/Pipeline.lean ====
section
/-! DEFINITION. The issue of a bundle (R150 to R158, R334, R335, R342 to R344): what a syllable answers, and how the
answers of a bundle's syllables become one step of the core. -/
namespace Sys2Proof.Machine

/-- A register a syllable names, as far as the scoreboard watches it (R152). -/
inductive RegRef where
  | s (r : BitVec 6)
  | v (r : BitVec 6)
deriving DecidableEq, Repr

/-- What a syllable does when its bundle commits: exposed results, effects at commit, and its part in the stream. -/
structure Eff where
  pend : List Pend
  post : State → State
  ctl : Ctl

/-- A syllable that does nothing. -/
def Eff.none : Eff := ⟨[], id, Ctl.none⟩

/-- The answer of a syllable at issue: it holds the bundle (R153, R167), raises a cause at an address (R334), or runs. -/
inductive SylOut where
  | stall (w : WaitKind) (f : State → State)
  | raise (c : Cause) (addr : W64)
  | ok (e : Eff)

/-- A syllable ready to issue: its slot by PRESENT bit, the registers it names, its PRIV condition (R140), its answer, what
later slots of its bundle see of it before they answer (the counts of R117 and R226, and the queue of R348), and what it does at commit before
the effects of any slot (R226, and the loads of R154). -/
structure Act where
  slot : Nat
  regs : List RegRef
  priv : State → Bool
  run : State → SylOut
  shadow : State → State
  early : State → State
  /-- the 64-byte rows of the scratchpad it accesses (R69) -/
  rows : State → List Nat
  /-- the syllable itself, as records of the scoreboard and of posts keep it (R350, R351) -/
  word : W32

/-- A syllable of which later slots see nothing at issue. -/
def mkAct (slot : Nat) (regs : List RegRef) (priv : State → Bool) (run : State → SylOut) : Act :=
  ⟨slot, regs, priv, run, id, id, fun _ => [], 0⟩

/-- A syllable with the word that encodes it. -/
def Act.of (a : Act) (i : Instr) : Act := { a with word := ((encode i).map (·.1)).getD 0 }

def noPriv (_ : State) : Bool := false

/-- A syllable with effects at commit alone. -/
def SylOut.now (f : State → State) : SylOut := .ok ⟨[], f, Ctl.none⟩
/-- A syllable with exposed results alone. -/
def SylOut.later (ps : List Pend) : SylOut := .ok ⟨ps, id, Ctl.none⟩
/-- A syllable whose guard is false (R138). -/
def SylOut.skip : SylOut := .ok Eff.none

/-- R148: an all-zero syllable of a slot. -/
def actNop (slot : BitVec 4) : Act := mkAct slot.toNat [] noPriv fun _ => .skip

/-- The answers of a bundle's syllables, in slot order. -/
def runAll : List Act → State → List (Nat × SylOut)
  | [], _ => []
  | a :: as, s => (a.slot, a.run s) :: runAll as (a.shadow s)

/-! ## Results -/

/-- An exposed scalar result of latency lat (R151); one for s0 is discarded, its flags are not (R254). -/
def pendS (r : BitVec 6) (x : W64) (lat slot : Nat) (fl : Flags) : Pend :=
  ⟨if r = 0 then .flagsOnly else .s r, x.setWidth 1024, lowMask 8, lat - 1, slot, fl, 1⟩
/-- An exposed predicate result; mask has a bit per bit that lands. -/
def pendP (r : BitVec 5) (x mask : W128) (lat slot : Nat) (fl : Flags) : Pend :=
  ⟨.p r, x.setWidth 1024, mask, lat - 1, slot, fl, 1⟩
/-- An exposed vector result of a width in bytes; mask has a bit per byte that lands. -/
def pendV (r : BitVec 6) (x : W1024) (mask : W128) (bytes lat slot : Nat) (fl : Flags) : Pend :=
  ⟨.v r, x, mask, lat - 1, slot, fl, (bytes + 31) / 32⟩

/-! ## Boundaries (R167, R267, R335) -/

/-- R335: an asynchronous cause is pending. -/
def asyncPending (a : Asyncs) : Bool :=
  !a.memErr.isEmpty || a.debugHalt.isSome || a.copyFault || a.grottoFault.isSome || a.operator.isSome
    || a.barTimeout.isSome || a.mailbox || a.timer || a.preempt.isSome

/-- R335: PREEMPT is the cause to take: every other one comes before it. -/
def preemptFirst (a : Asyncs) : Bool :=
  a.preempt.isSome && !(asyncPending { a with preempt := none })

/-- R2, R96, R97: the fields of a sequence word, and the other die of the package. -/
def handleGen (w : W64) : BitVec 6 := w.extractLsb' 26 6
def handleAgent (w : W64) : BitVec 10 := w.extractLsb' 16 10
def handleIndex (w : W64) : BitVec 16 := w.extractLsb' 0 16
def otherDie (s : State) : BitVec 10 := s.core.agent ^^^ 1
/-- R97: the open sequence of this die that a sequence word names. -/
def seqFind (s : State) (w : W64) : Option Seq :=
  if handleAgent w == s.core.agent then
    s.die.grotto.seqs.find? fun q => q.handle == (0#4 ++ handleIndex w : BitVec (4 + 16)) && q.gen == handleGen w
  else none

/-- R105, R299: the running task restarts from its position instead of being saved: its handle is not stale and its sequence holds a
snapshot; of a sequence of the other die that controller says so, and is asked first. -/
def restartable (s : State) : Bool :=
  match s.core.task with
  | none => false
  | some t =>
    t.record.w4.getLsbD 16 &&
      if handleAgent t.record.w5 == otherDie s then s.core.posr != some (some false)
      else match seqFind s t.record.w5 with | some q => !q.ring.isEmpty | none => false

/-- The step that the boundary before the next bundle belongs to, if any: an end that is due (R267, R270, R272), a stop for
the scheduler (R186, R303), or an asynchronous cause (R335); a held gang is not pre-empted (R358). -/
def boundary (s : State) : Option Instr :=
  if s.core.run != .running then none
  else if s.core.mEnd != .none && s.core.mDue == 0 then some .pendingEndEffect
  else if s.core.joinReq.isSome then some .contextSave
  else if s.core.mon then none
  else if pendEnd s != 0 then (if pendDue s == 0 then some .pendingEndEffect else none)
  else if asyncPending s.core.asyncs then
    (if !preemptFirst s.core.asyncs then some .trapEntry
     else if (match s.core.task with | some t => t.gang && heldGang s t.domain | none => false) then none
     else if restartable s then some .positionPreempt else some .contextSave)
  else none

/-! ## The scoreboard (R152) -/

def refAwaited (s : State) : RegRef → Bool
  | .s r => r != 0 && s.core.awaits.any fun a => !a.vec && a.mon == s.core.mon && a.reg == r
  | .v r => s.core.awaits.any fun a => a.vec && a.reg == r

def scoreStall (acts : List Act) (s : State) : Bool := acts.any fun a => a.regs.any (refAwaited s)

/-! ## Faults of a bundle (R158, R334) -/

def slotBit (k : Nat) : BitVec 12 := BitVec.ofNat 12 (2 ^ k)
def maskOf (ks : List Nat) : BitVec 12 := ks.foldl (fun m k => m ||| slotBit k) 0

/-- R334: the order among the execution faults of one bundle; decode faults come before them. -/
def causeRank : Cause → Nat
  | .illegalOp => 0
  | .range => 1
  | .scratchBounds => 2
  | .page => 3
  | .protect => 4
  | .align => 5
  | .mixedSize => 6
  | .trap => 7
  | .breakpoint => 8
  | _ => 9

/-- R334: FADDR names an access for these causes, and the bundle for the others. -/
def causeHasAddr : Cause → Bool
  | .range | .page | .protect | .align | .mixedSize | .scratchBounds => true
  | _ => false

/-- The raised causes of a bundle: slot, cause, address. -/
def raisesOf (outs : List (Nat × SylOut)) : List (Nat × Cause × W64) :=
  outs.filterMap fun o => match o.2 with
    | .raise c a => some (o.1, c, a)
    | _ => none

/-- The stalls of a bundle. -/
def stallsOf (outs : List (Nat × SylOut)) : List (WaitKind × (State → State)) :=
  outs.filterMap fun o => match o.2 with
    | .stall w f => some (w, f)
    | _ => none

def effsOf (outs : List (Nat × SylOut)) : List Eff :=
  outs.filterMap fun o => match o.2 with
    | .ok e => some e
    | _ => none

/-- R334: the trap for the first-ranked of the raised causes, with every slot that raises it and the lowest address. -/
def faultOf (rs : List (Nat × Cause × W64)) (s : State) : TrapReq :=
  let best := rs.foldl (fun acc r => if causeRank r.2.1 < causeRank acc then r.2.1 else acc)
    (match rs with | [] => Cause.illegalOp | r :: _ => r.2.1)
  let mine := rs.filter fun r => r.2.1 == best
  let lo := mine.foldl (fun acc r => if r.2.2.toNat < acc.toNat then r.2.2 else acc)
    (match mine with | [] => 0 | r :: _ => r.2.2)
  { cause := best, info := 0, async := false, fmask := maskOf (mine.map (·.1))
    faddr := if causeHasAddr best then lo else pc s, iaddr := 0, keep := false }

/-- A precise trap of the bundle at the head of the stream. -/
def bundleTrap (c : Cause) (info : BitVec 16) (fmask : BitVec 12) (s : State) : TrapReq :=
  ⟨c, info, false, fmask, pc s, 0, false⟩

/-! ## Holding and committing -/

/-- R303: whether a wait counts towards parking. -/
def parkable : WaitKind → Bool
  | .sem | .bar | .recv | .wfe => true
  | _ => false

/-- R167, R266, R303: a bundle held in this cycle. -/
def holdBundle (w : WaitKind) (s : State) : State :=
  s.upCore fun c =>
    { c with
      waiting := w
      waitCycles := if parkable w then c.waitCycles + 1 else c.waitCycles
      wfeCycles := if w == .wfe then c.wfeCycles + 1 else c.wfeCycles
      barCycles := if w == .bar && !(match c.task with | some t => t.gang && heldGang s t.domain | none => false)
        then c.barCycles + 1 else c.barCycles }

/-- The counts of a bundle that has issued: waits end, and the delay bundles of a pending end are counted (R267, R272). -/
def countBundle (s : State) : State :=
  let s1 := s.upCore fun c =>
    { c with waiting := .none, waitCycles := 0, wfeCycles := 0, barCycles := if c.mon then c.barCycles else 0
             bankWait := 0, probes := [], strong := []
             mDue := c.mDue - 1
             linkDue := c.linkDue.map fun d => if d.mon == c.mon then { d with left := d.left - 1 } else d
             bundlesSince := if c.mon then c.bundlesSince else c.bundlesSince + 1 }
  if !s1.core.mon && pendEnd s1 != 0 then setPend s1 (pendEnd s1).toNat (pendDue s1 - 1) else s1

/-- R340: single step makes DEBUG_HALT pending after a task bundle that commits. -/
def singleStep (s : State) : State :=
  if !s.core.mon && stepOn s then
    s.upCore fun c => { c with latch := true, asyncs := { c.asyncs with debugHalt := match c.asyncs.debugHalt with
      | some i => some i
      | none => some 2 } }
  else s

/-- The stream part of a bundle: that of its B syllable. -/
def ctlOf (es : List Eff) : Ctl :=
  es.foldl (fun acc e => if e.ctl.target.isSome || e.ctl.annul then e.ctl else acc) Ctl.none

/-- The word of the syllable in a slot. -/
def wordAt (acts : List Act) (slot : Nat) : W32 := match acts.find? fun a => a.slot == slot with | some a => a.word | none => 0

/-- R350, R351: what a bundle has left with the scoreboard and in the post queue keeps its syllable. -/
def noteWords (acts : List Act) (before : State) (s : State) : State :=
  s.upCore fun c =>
    { c with
      awaits := c.awaits.map fun a => if before.core.nextId ≤ a.id then { a with syl := wordAt acts a.slot } else a
      posts := c.posts.zipIdx.map fun p => if before.core.posts.length ≤ p.2 then { p.1 with syl := wordAt acts 9 } else p.1 }

/-- R7, R150, R154: a bundle commits: its syllables' effects in slot order, results, and the stream. -/
def commit (acts : List Act) (es : List Eff) (s : State) : State :=
  let s0 := acts.foldl (fun st a => a.early st) (countBundle s)
  let s1 := es.foldl (fun st e => e.post st) s0
  let s2 := settle (es.map (·.pend)).flatten (noteWords acts s s1)
  advance (ctlOf es) s2

/-- R344: more than 64 pieces would stay pending at the next boundary. -/
def tooManyPieces (es : List Eff) (s : State) : Bool :=
  decide (64 < pieceSum ((s.core.pipe.map age ++ (es.map (·.pend)).flatten).filter fun r => r.left != 0))

/-- A bundle held by its waits and structural stalls. A wait's own act (R265) is made only once the structural stalls of
its bundle are over. -/
def holdAll (ws : List (WaitKind × (State → State))) (s : State) : State :=
  let st := ws.filter fun w => w.1 == .structural || w.1 == .engine
  let ws' := if st.isEmpty then ws else st
  holdBundle ((ws'.map (·.1)).headD .structural) (ws'.foldl (fun st x => x.2 st) s)

/-- R205: lines of a PREF that find no free request entry beside the accesses of their bundle, which commitOrHold has found room for beside
the lines of earlier ones, are skipped. -/
def trimPrefs (s : State) : State :=
  if entriesUsed s ≤ 1024 then s else s.upCore fun c => { c with prefs := c.prefs.take (1024 - c.accs.length) }

/-- R344, R195: a bundle commits, unless its scoreboarded destinations or request entries do not fit: a structural stall. -/
def commitOrHold (acts : List Act) (es : List Eff) (s : State) : State :=
  let s' := singleStep (commit acts es s)
  if (16 < s'.core.awaits.length && s.core.awaits.length < s'.core.awaits.length)
      || (1024 < s'.core.accs.length + s.core.prefs.length && s.core.accs.length < s'.core.accs.length) then
    holdBundle .structural s
  else trimPrefs s'

/-- R69: the largest number of distinct rows that the accesses of a bundle name in one bank. -/
def bankRows (acts : List Act) (s : State) : Nat :=
  let rows := ((acts.map fun a => a.rows s).flatten).eraseDups
  if rows.length ≤ 1 then rows.length
  else (rows.map fun r => (rows.filter fun q => q % 32 == r % 32).length).foldl max 0

/-- R344: a scale-latch write would land with this bundle and may not yet. -/
def latchDue (s : State) : Bool := (s.core.pipe.filter fun r => r.left == 0).any isLatch && latchHeld s
/-- One bundle's syllables at the head of the stream (R150 to R158). A failed window or region check comes before any probe
(R38); a bundle whose probes are out waits for every answer before PAGE and PROTECT are told. In debug mode a collision of the
results that land with the bundle is its last fault (R155, R158, R334): whatever else happens leaves them latched. Results that would not
fit the snapshot buffer make it an ILLEGAL_BUNDLE before any other cause (R158, R344). -/
def attempt (acts : List Act) (s0 : State) : State :=
  let due := s0.core.pipe.filter fun r => r.left == 0
  if latchDue s0 then holdBundle .structural s0
  else
    let s := if due.isEmpty then s0
      else landDue due (s0.upCore fun c => { c with pipe := c.pipe.filter fun r => r.left != 0 })
    let coll := collides s0
    let base := if coll then s0 else s
    let outs := runAll acts s
    let rs := raisesOf outs
    let ill := rs.filter fun r => r.2.1 == .illegalOp
    let pv := acts.filter fun a => a.priv s
    if tooManyPieces (effsOf outs) s then takeTrap (bundleTrap .illegalBundle 0 0 s) base
    else if !ill.isEmpty then takeTrap (faultOf ill s) base
    else if !pv.isEmpty then takeTrap (bundleTrap .priv 0 (maskOf (pv.map (·.slot))) s) base
    else if scoreStall acts s then holdBundle .structural base
    else if rs.any (fun r => decide (causeRank r.2.1 ≤ 2)) then takeTrap (faultOf rs s) base
    else
      let ws := stallsOf outs
      if ws.any (fun w => w.1 == .engine) then holdAll ws base
      else if !rs.isEmpty then takeTrap (faultOf rs s) base
      else if coll then takeTrap { bundleTrap .breakpoint 1 0 s0 with keep := true } s0
      else if s.core.bankWait + 1 < bankRows acts s then
        holdBundle .structural (s.upCore fun c => { c with bankWait := c.bankWait + 1 })
      else if !ws.isEmpty then holdAll ws s
      else commitOrHold acts (effsOf outs) s

/-- R157, R344: an annulled bundle issues in its turn and has no effect; it waits where a latch write may not land yet. -/
def issueAnnulled (s : State) : State := if latchDue s then holdBundle .structural s else commit [] [] s

/-- The end of a cycle: accesses that can be performed are, and the counters move. -/
def finishCycle (s : State) : State := tickCycle (performReady s)

/-- The bundle at the head of the stream holds exactly these syllables: it issues, waits, or traps. A core that does not
issue, or whose boundary belongs to another step, lets the cycle pass. -/
def issueActs (acts : List Act) (s : State) : State :=
  finishCycle <|
    if s.core.run != .running || (boundary s).isSome then s
    else if (stream s).annul.getLsbD 0 then issueAnnulled s
    else attempt acts s

/-! ## Execution -/

/-- NOP (R148): the bundle of this syllable alone issues. -/
def execNop (slot : BitVec 4) (s : State) : Host.Outcome State Fault Refusal :=
  .next (issueActs [(actNop slot).of (.nop slot)] s)

end Sys2Proof.Machine
end

