-- ==== Sys2Proof/Machine/Operands.lean ====
section
/-! DEFINITION. The operand forms of the classes (R147, R188, R189, R211, R253). -/
namespace Sys2Proof.Machine

/-- R253: op2 of an integer S syllable. -/
def op2Val (s : State) : Op2 → W64
  | .reg b => readS s b
  | .imm b => sext64 b.toNat 6
  | .ext w => sext64 w.toNat 32

/-- The registers op2 names. -/
def op2Refs : Op2 → List RegRef
  | .reg b => [.s b]
  | _ => []

/-- R147: a 32-bit FP32 pattern in a float format: RNE, canonical NaN, an infinity kept where the format has one. -/
def immFloat (f : Fmt) (w : W32) : Nat := (convF fp32 f .rne w.toNat).1

/-- R258: the precision of a scalar FP syllable. -/
def fpFmt (dbl : Bool) : Fmt := if dbl then fp64 else fp32

/-- R258: a scalar FP operand: single precision ignores bits above 31. -/
def fpBits (dbl : Bool) (x : W64) : Nat := if dbl then x.toNat else x.toNat % 2 ^ 32

/-- R253, R258: op2 of a scalar FP syllable, as bits of its precision. -/
def fop2Val (s : State) (dbl : Bool) : FOp2 → Nat
  | .reg b => fpBits dbl (readS s b)
  | .ext w => immFloat (fpFmt dbl) w

def fop2Refs : FOp2 → List RegRef
  | .reg b => [.s b]
  | _ => []

/-- R144: bytes of an element of a V or F type. -/
def VT.bytes : VT → Nat
  | .i8 => 1
  | .i16 => 2
  | .i32 => 4
  | .bf16 => 2
  | .f16 => 2
  | .f32 => 4
  | .e4m3 => 1
  | .e5m2 => 1

/-- The float format of a V or F type, if it is one. -/
def VT.fmt : VT → Option Fmt
  | .bf16 => some bf16
  | .f16 => some fp16
  | .f32 => some fp32
  | .e4m3 => some e4m3
  | .e5m2 => some e5m2
  | _ => none

/-- R144: the width of a V or F operation in bytes. -/
def VW.bytes : VW → Nat
  | .w256 => 32
  | .w512 => 64
  | .w1024 => 128

/-- R147, R211: the element that an extension word gives to a vector operation of a type. -/
def vimmLane (t : VT) (w : W32) : Nat :=
  match VT.fmt t with
  | some f => immFloat f w
  | none => w.toNat % 2 ^ (8 * VT.bytes t)

/-- R211: a vector operand: a register of the cluster, or the immediate in every element. -/
def vopVal (s : State) (c : Cl) (t : VT) : VOp → W1024
  | .reg b => readV s (clV c b)
  | .imm w => packLanes (8 * VT.bytes t) (List.replicate (128 / VT.bytes t) (vimmLane t w))

def vopRefs (c : Cl) : VOp → List RegRef
  | .reg b => [.v (clV c b)]
  | .imm _ => []

/-- R188, R189: the address of an M access: base and displacement, off5 in units or a signed extension word. -/
def memAddr (s : State) (base : BitVec 6) (unit : Nat) : MOff → W64
  | .short o => readS s base + BitVec.ofNat 64 (o.toNat * unit)
  | .ext w => readS s base + sext64 w.toNat 32

/-- R188: bytes of a scalar size code. -/
def sizeBytes (w : BitVec 2) : Nat := 2 ^ w.toNat
/-- R144, R188: bytes of a vector width code. -/
def widthBytes (w : BitVec 2) : Nat := 32 * 2 ^ w.toNat

/-- The lowest of the addresses that a check refuses. -/
def lowestBad (bad : W64 → Bool) (as : List W64) : Option W64 :=
  (as.filter bad).foldl (fun acc a => match acc with
    | none => some a
    | some b => some (if a.toNat < b.toNat then a else b)) none

end Sys2Proof.Machine
end

