-- ==== Sys2Proof/Machine/Flags.lean ====
section
/-! DEFINITION. The status registers that instructions write by a rule of their own (R116, R117, R119, R120, R141), and the
flags of results. -/
namespace Sys2Proof.Machine

/-- R6, R119: an MTS to FPSR stores its defined bits. -/
def fpsrWrite (x : W64) : W64 := x &&& 0x7F

/-- R116: VRM.RM. -/
def vrmMode (w : W64) : Nat := (w.extractLsb' 0 3).toNat
def vrmSrc (w : W64) : BitVec 32 := w.extractLsb' 32 32

/-- R116: an MTS to VRM writes SRC, and RM where the value is 0 to 4. -/
def vrmWrite (old x : W64) : W64 :=
  let rm := if vrmMode x ≤ 4 then vrmMode x else vrmMode old
  setField (x &&& 0xFFFFFFFF00000000) 0 3 rm

/-- R117: SRC advances by the stochastic syllables of a bundle, modulo 2^32. -/
def vrmAdvance (w : W64) (n : Nat) : W64 := setField w 32 32 ((vrmSrc w).toNat + n)

/-- R141: an MTS to SCHED_COLLIDE stores COUNT and clears the SLOTS bits that are written as one. -/
def collideWrite (old x : W64) : W64 := (x &&& 0xFFFF0000) ||| (old &&& ~~~x &&& 0xFFF)

/-- R117: the mixing function. -/
def mix64 (z0 : Nat) : Nat :=
  let m := 2 ^ 64
  let z1 := z0 ^^^ (z0 >>> 30)
  let z2 := (z1 * 0xBF58476D1CE4E5B9) % m
  let z3 := z2 ^^^ (z2 >>> 27)
  let z4 := (z3 * 0x94D049BB133111EB) % m
  z4 ^^^ (z4 >>> 31)

/-- R117: the draw h[23:0] of a lane. -/
def draw (taskid addr : W64) (count lane : Nat) : Nat :=
  mix64 (taskid.toNat ^^^ mix64 ((addr.extractLsb' 0 52).toNat ^^^ mix64 ((count <<< 16) ^^^ lane))) % 2 ^ 24

/-- The OR of the flags of the lanes whose guard is true (R120). -/
def orAll (fs : List Flags) : Flags := fs.foldl (· ||| ·) 0

/-- R119: DZ, NV and the others from a scalar result whose guard is true. -/
def scalarFlags (on : Bool) (f : Flags) : Flags := if on then f else 0

end Sys2Proof.Machine
end

