-- ==== Sys2Proof/Machine/Scalar.lean ====
section
/-! DEFINITION. The S class but MFS, MTS and PROBE (R253 to R258). -/
namespace Sys2Proof.Machine

def sNo (x : SSlot) : Nat := sSlotNo x

/-- An integer S syllable with one exposed scalar result (R151, R255). -/
def sAct (slot : SSlot) (g : Guard) (d : BitVec 6) (refs : List RegRef) (lat : Nat) (f : State → W64) : Act :=
  mkAct (sNo slot) (.s d :: refs) noPriv fun s => if guardOn g s then .later [pendS d (f s) lat (sNo slot) 0] else .skip

/-- The two-operand form of R255. -/
def binAct (f : SBin) (lat : Nat) (op : W64 → W64 → W64) : Act :=
  sAct f.slot f.g f.d (.s f.a :: op2Refs f.op2) lat fun s => op (readS s f.a) (op2Val s f.op2)

def unAct (f : SUn) (op : W64 → W64) : Act := sAct f.slot f.g f.d [.s f.a] 1 fun s => op (readS s f.a)

/-- R255: the shifts by op2 read as an unsigned count. -/
def shlVal (a c : W64) : W64 := if c.toNat < 64 then a <<< c.toNat else 0
def shrVal (a c : W64) : W64 := if c.toNat < 64 then a >>> c.toNat else 0
def sraVal (a c : W64) : W64 := a.sshiftRight (Nat.min c.toNat 63)
def rolVal (a c : W64) : W64 := a.rotateLeft (c.toNat % 64)

/-- R255: bits [127:64] of the signed and of the unsigned product. -/
def mulhVal (a b : W64) : W64 := BitVec.ofInt 64 (a.toInt * b.toInt / 2 ^ 64)
def mulhnVal (a b : W64) : W64 := BitVec.ofNat 64 (a.toNat * b.toNat / 2 ^ 64)

/-- R123, R255: quotients and remainders. -/
def divVal (a b : W64) : W64 := if b = 0 then BitVec.allOnes 64 else BitVec.ofInt 64 (a.toInt.tdiv b.toInt)
def divnVal (a b : W64) : W64 := if b = 0 then BitVec.allOnes 64 else BitVec.ofNat 64 (a.toNat / b.toNat)
def remVal (a b : W64) : W64 := if b = 0 then a else BitVec.ofInt 64 (a.toInt.tmod b.toInt)
def remnVal (a b : W64) : W64 := if b = 0 then a else BitVec.ofNat 64 (a.toNat % b.toNat)

def minVal (a b : W64) : W64 := if b.toInt < a.toInt then b else a
def maxVal (a b : W64) : W64 := if a.toInt < b.toInt then b else a
def minnVal (a b : W64) : W64 := if b.toNat < a.toNat then b else a
def maxnVal (a b : W64) : W64 := if a.toNat < b.toNat then b else a

/-- R255: MOVH. -/
def movhVal (a b : W64) : W64 := (b <<< 32) + (a &&& 0xFFFFFFFF)
/-- R255: n of SEXT and ZEXT: op2 mod 64 with 0 read as 64. -/
def extCount (b : W64) : Nat := if b.toNat % 64 = 0 then 64 else b.toNat % 64
def sextVal (a b : W64) : W64 := sext64 a.toNat (extCount b)
def zextVal (a b : W64) : W64 := BitVec.ofNat 64 (a.toNat % 2 ^ extCount b)
def clzVal (a : W64) : W64 := BitVec.ofNat 64 (leadZeros 64 a.toNat)
def ctzVal (a : W64) : W64 := BitVec.ofNat 64 (trailZeros 64 a.toNat)
def popcVal (a : W64) : W64 := BitVec.ofNat 64 (popCount 64 a.toNat)

def actAdd (f : SBin) : Act := binAct f 1 (· + ·)
def actSub (f : SBin) : Act := binAct f 1 (· - ·)
def actMul (f : SBin) : Act := binAct f 3 (· * ·)
def actMulh (f : SBin) : Act := binAct f 3 mulhVal
def actMulhn (f : SBin) : Act := binAct f 3 mulhnVal
def actAnd (f : SBin) : Act := binAct f 1 (· &&& ·)
def actOr (f : SBin) : Act := binAct f 1 (· ||| ·)
def actXor (f : SBin) : Act := binAct f 1 (· ^^^ ·)
def actAndn (f : SBin) : Act := binAct f 1 fun a b => a &&& ~~~b
def actShl (f : SBin) : Act := binAct f 1 shlVal
def actShr (f : SBin) : Act := binAct f 1 shrVal
def actSra (f : SBin) : Act := binAct f 1 sraVal
def actRol (f : SBin) : Act := binAct f 1 rolVal
def actMin (f : SBin) : Act := binAct f 1 minVal
def actMax (f : SBin) : Act := binAct f 1 maxVal
def actMinn (f : SBin) : Act := binAct f 1 minnVal
def actMaxn (f : SBin) : Act := binAct f 1 maxnVal
def actMovh (f : SBin) : Act := binAct f 1 movhVal
def actSext (f : SBin) : Act := binAct f 1 sextVal
def actZext (f : SBin) : Act := binAct f 1 zextVal
def actShadd1 (f : SBin) : Act := binAct f 1 fun a b => (a <<< 1) + b
def actShadd2 (f : SBin) : Act := binAct f 1 fun a b => (a <<< 2) + b
def actShadd3 (f : SBin) : Act := binAct f 1 fun a b => (a <<< 3) + b
def actClz (f : SUn) : Act := unAct f clzVal
def actCtz (f : SUn) : Act := unAct f ctzVal
def actPopc (f : SUn) : Act := unAct f popcVal
def actMov (f : SMov) : Act := sAct f.slot f.g f.d (op2Refs f.op2) 1 fun s => op2Val s f.op2

/-- R153: an operation of the integer divider, which is busy for 20 cycles from its issue. -/
def divAct (f : SBin) (op : W64 → W64 → W64) : Act :=
  mkAct (sNo f.slot) (.s f.d :: .s f.a :: op2Refs f.op2) noPriv fun s =>
    if guardOn f.g s then
      if s.core.divBusy = 0 then
        .ok ⟨[pendS f.d (op (readS s f.a) (op2Val s f.op2)) 20 (sNo f.slot) 0],
          fun st => st.upCore fun c => { c with divBusy := 20 }, Ctl.none⟩
      else .stall .structural id
    else .skip
def actDiv (f : SBin) : Act := divAct f divVal
def actDivn (f : SBin) : Act := divAct f divnVal
def actRem (f : SBin) : Act := divAct f remVal
def actRemn (f : SBin) : Act := divAct f remnVal

/-! ## Compares and predicates (R256, R257) -/

/-- R138: a scalar truth value as a whole predicate. -/
def allP (b : Bool) : W128 := if b then BitVec.allOnes 128 else 0

/-- An S syllable with one exposed predicate result. -/
def pAct (slot : SSlot) (g : Guard) (p : BitVec 5) (refs : List RegRef) (f : State → W128) (mask : W128) : Act :=
  mkAct (sNo slot) refs noPriv fun s => if guardOn g s then .later [pendP p (f s) mask 1 (sNo slot) 0] else .skip

def cmpAct (f : SCmp) (op : W64 → W64 → Bool) : Act :=
  pAct f.slot f.g f.p (.s f.a :: op2Refs f.op2) (fun s => allP (op (readS s f.a) (op2Val s f.op2))) (BitVec.allOnes 128)

def actCmpeq (f : SCmp) : Act := cmpAct f fun a b => a == b
def actCmpne (f : SCmp) : Act := cmpAct f fun a b => a != b
def actCmplt (f : SCmp) : Act := cmpAct f fun a b => decide (a.toInt < b.toInt)
def actCmple (f : SCmp) : Act := cmpAct f fun a b => decide (a.toInt ≤ b.toInt)
def actCmpltn (f : SCmp) : Act := cmpAct f fun a b => decide (a.toNat < b.toNat)
def actCmplen (f : SCmp) : Act := cmpAct f fun a b => decide (a.toNat ≤ b.toNat)

def predAct (f : SPred) (op : W128 → W128 → W128) : Act :=
  pAct f.slot f.g f.p [] (fun s => op (readP s f.a) (readP s f.b)) (BitVec.allOnes 128)

def actPand (f : SPred) : Act := predAct f (· &&& ·)
def actPor (f : SPred) : Act := predAct f (· ||| ·)
def actPxor (f : SPred) : Act := predAct f (· ^^^ ·)
def actPandn (f : SPred) : Act := predAct f fun a b => a &&& ~~~b
def actPall (f : SPred) : Act := predAct f fun a b => allP (b &&& ~~~a == 0)
def actPget (f : SPget) : Act :=
  sAct f.slot f.g f.d [] 1 fun s => if f.h then (readP s f.a).extractLsb' 64 64 else (readP s f.a).extractLsb' 0 64
def actPset (f : SPset) : Act :=
  pAct f.slot f.g f.p [.s f.a, .s f.b] (fun s => (readS s f.b ++ readS s f.a : BitVec (64 + 64))) (BitVec.allOnes 128)

/-! ## Scalar floating point (R258) -/

/-- An FP S syllable whose result is bits and flags, at latency 4 (R151). -/
def fpAct (slot : SSlot) (g : Guard) (d : BitVec 6) (refs : List RegRef) (f : State → Nat × Flags) : Act :=
  mkAct (sNo slot) (.s d :: refs) noPriv fun s =>
    if guardOn g s then
      let r := f s
      .later [pendS d (BitVec.ofNat 64 r.1) 4 (sNo slot) r.2]
    else .skip

/-- The two-operand form on decoded operands. -/
def fbinAct (f : SFBin) (op : FVal → FVal → Exact) : Act :=
  fpAct f.slot f.g f.d (.s f.a :: fop2Refs f.op2) fun s =>
    let fm := fpFmt f.dbl
    deliver fm .rne (op (decodeF fm (fpBits f.dbl (readS s f.a))) (decodeF fm (fop2Val s f.dbl f.op2)))

def actFadd (f : SFBin) : Act := fbinAct f (addF .rne)
def actFsub (f : SFBin) : Act := fbinAct f fun x y => addF .rne x (negF y)
def actFmul (f : SFBin) : Act := fbinAct f mulF
/-- R258: FMA reads s(sd) as its addend. -/
def actFma (f : SFBin) : Act :=
  fpAct f.slot f.g f.d (.s f.a :: fop2Refs f.op2) fun s =>
    let fm := fpFmt f.dbl
    deliver fm .rne (fmaF .rne (decodeF fm (fpBits f.dbl (readS s f.a))) (decodeF fm (fop2Val s f.dbl f.op2))
      (decodeF fm (fpBits f.dbl (readS s f.d))))
def actFmin (f : SFBin) : Act :=
  fpAct f.slot f.g f.d (.s f.a :: fop2Refs f.op2) fun s =>
    (minF (fpFmt f.dbl) (fpBits f.dbl (readS s f.a)) (fop2Val s f.dbl f.op2), 0)
def actFmax (f : SFBin) : Act :=
  fpAct f.slot f.g f.d (.s f.a :: fop2Refs f.op2) fun s =>
    (maxF (fpFmt f.dbl) (fpBits f.dbl (readS s f.a)) (fop2Val s f.dbl f.op2), 0)

/-- R153: an operation of the FP divider, busy for 12 cycles, with latency 12. -/
def fdivAct (slot : SSlot) (g : Guard) (d : BitVec 6) (refs : List RegRef) (f : State → Nat × Flags) : Act :=
  mkAct (sNo slot) (.s d :: refs) noPriv fun s =>
    if guardOn g s then
      if s.core.fdivBusy = 0 then
        let r := f s
        .ok ⟨[pendS d (BitVec.ofNat 64 r.1) 12 (sNo slot) r.2], fun st => st.upCore fun c => { c with fdivBusy := 12 },
          Ctl.none⟩
      else .stall .structural id
    else .skip
def actFdiv (f : SFBin) : Act :=
  fdivAct f.slot f.g f.d (.s f.a :: fop2Refs f.op2) fun s =>
    let fm := fpFmt f.dbl
    deliver fm .rne (divF (decodeF fm (fpBits f.dbl (readS s f.a))) (decodeF fm (fop2Val s f.dbl f.op2)))
def actFsqrt (f : SFUn) : Act :=
  fdivAct f.slot f.g f.d [.s f.a] fun s =>
    let fm := fpFmt f.dbl
    deliver fm .rne (sqrtF (decodeF fm (fpBits f.dbl (readS s f.a))))

/-- R124, R258: an FP compare writes all 128 bits at latency 4. -/
def fcmpAct (f : SFCmp) (op : FVal → FVal → Bool) (fl : FVal → FVal → Flags) : Act :=
  mkAct (sNo f.slot) (.s f.a :: fop2Refs f.op2) noPriv fun s =>
    if guardOn f.g s then
      let fm := fpFmt f.dbl
      let x := decodeF fm (fpBits f.dbl (readS s f.a))
      let y := decodeF fm (fop2Val s f.dbl f.op2)
      .later [pendP f.p (allP (op x y)) (BitVec.allOnes 128) 4 (sNo f.slot) (fl x y)]
    else .skip
def actFcmpeq (f : SFCmp) : Act := fcmpAct f feq fun _ _ => 0
def actFcmplt (f : SFCmp) : Act := fcmpAct f flt cmpFlags
def actFcmple (f : SFCmp) : Act := fcmpAct f fle cmpFlags
def actFcmpun (f : SFCmp) : Act := fcmpAct f funord fun _ _ => 0

/-- R258: FTOI, toward zero, saturating (R122). -/
def actFtoi (f : SFConv) : Act :=
  fpAct f.slot f.g f.d [.s f.a] fun s =>
    let lo : Int := if f.u then 0 else -(2 ^ 63 : Nat)
    let hi : Int := if f.u then (2 ^ 64 - 1 : Nat) else (2 ^ 63 - 1 : Nat)
    let r := toIntSat .rz lo hi (exactVal (decodeF (fpFmt f.dbl) (fpBits f.dbl (readS s f.a))))
    (wrapInt r.1 64, r.2)
def actItof (f : SFConv) : Act :=
  fpAct f.slot f.g f.d [.s f.a] fun s =>
    intToF (fpFmt f.dbl) .rne (if f.u then ((readS s f.a).toNat : Int) else (readS s f.a).toInt)
/-- R258: FCVT converts to its precision from the other. -/
def actFcvt (f : SFUn) : Act :=
  fpAct f.slot f.g f.d [.s f.a] fun s =>
    if f.dbl then convF fp32 fp64 .rne (fpBits false (readS s f.a)) else convF fp64 fp32 .rne (readS s f.a).toNat

/-- R258: the class of a number, one bit of nine. -/
def fclassVal (fm : Fmt) (x : Nat) : Nat :=
  let e := x >>> fm.fb % 2 ^ fm.eb
  match decodeF fm x with
  | .nan => 2 ^ 8
  | .inf neg => if neg then 1 else 2 ^ 7
  | .fin neg m _ =>
    if m = 0 then (if neg then 2 ^ 3 else 2 ^ 4)
    else if e = 0 then (if neg then 2 ^ 2 else 2 ^ 5)
    else if neg then 2 else 2 ^ 6
def actFclass (f : SFUn) : Act :=
  fpAct f.slot f.g f.d [.s f.a] fun s => (fclassVal (fpFmt f.dbl) (fpBits f.dbl (readS s f.a)), 0)

/-! ## Execution -/

/-- ADD (R255): the bundle of this syllable alone issues. -/
def execAdd (f : SBin) (s : State) : Host.Outcome State Fault Refusal :=
  .next (issueActs [(actAdd f).of (.add f)] s)
/-- SUB (R255): the bundle of this syllable alone issues. -/
def execSub (f : SBin) (s : State) : Host.Outcome State Fault Refusal :=
  .next (issueActs [(actSub f).of (.sub f)] s)
/-- MUL (R255): the bundle of this syllable alone issues. -/
def execMul (f : SBin) (s : State) : Host.Outcome State Fault Refusal :=
  .next (issueActs [(actMul f).of (.mul f)] s)
/-- MULH (R255): the bundle of this syllable alone issues. -/
def execMulh (f : SBin) (s : State) : Host.Outcome State Fault Refusal :=
  .next (issueActs [(actMulh f).of (.mulh f)] s)
/-- MULHN (R255): the bundle of this syllable alone issues. -/
def execMulhn (f : SBin) (s : State) : Host.Outcome State Fault Refusal :=
  .next (issueActs [(actMulhn f).of (.mulhn f)] s)
/-- DIV (R255): the bundle of this syllable alone issues. -/
def execDiv (f : SBin) (s : State) : Host.Outcome State Fault Refusal :=
  .next (issueActs [(actDiv f).of (.div f)] s)
/-- DIVN (R255): the bundle of this syllable alone issues. -/
def execDivn (f : SBin) (s : State) : Host.Outcome State Fault Refusal :=
  .next (issueActs [(actDivn f).of (.divn f)] s)
/-- REM (R255): the bundle of this syllable alone issues. -/
def execRem (f : SBin) (s : State) : Host.Outcome State Fault Refusal :=
  .next (issueActs [(actRem f).of (.rem f)] s)
/-- REMN (R255): the bundle of this syllable alone issues. -/
def execRemn (f : SBin) (s : State) : Host.Outcome State Fault Refusal :=
  .next (issueActs [(actRemn f).of (.remn f)] s)
/-- AND (R255): the bundle of this syllable alone issues. -/
def execAnd (f : SBin) (s : State) : Host.Outcome State Fault Refusal :=
  .next (issueActs [(actAnd f).of (.and f)] s)
/-- OR (R255): the bundle of this syllable alone issues. -/
def execOr (f : SBin) (s : State) : Host.Outcome State Fault Refusal :=
  .next (issueActs [(actOr f).of (.or f)] s)
/-- XOR (R255): the bundle of this syllable alone issues. -/
def execXor (f : SBin) (s : State) : Host.Outcome State Fault Refusal :=
  .next (issueActs [(actXor f).of (.xor f)] s)
/-- ANDN (R255): the bundle of this syllable alone issues. -/
def execAndn (f : SBin) (s : State) : Host.Outcome State Fault Refusal :=
  .next (issueActs [(actAndn f).of (.andn f)] s)
/-- SHL (R255): the bundle of this syllable alone issues. -/
def execShl (f : SBin) (s : State) : Host.Outcome State Fault Refusal :=
  .next (issueActs [(actShl f).of (.shl f)] s)
/-- SHR (R255): the bundle of this syllable alone issues. -/
def execShr (f : SBin) (s : State) : Host.Outcome State Fault Refusal :=
  .next (issueActs [(actShr f).of (.shr f)] s)
/-- SRA (R255): the bundle of this syllable alone issues. -/
def execSra (f : SBin) (s : State) : Host.Outcome State Fault Refusal :=
  .next (issueActs [(actSra f).of (.sra f)] s)
/-- ROL (R255): the bundle of this syllable alone issues. -/
def execRol (f : SBin) (s : State) : Host.Outcome State Fault Refusal :=
  .next (issueActs [(actRol f).of (.rol f)] s)
/-- MIN (R255): the bundle of this syllable alone issues. -/
def execMin (f : SBin) (s : State) : Host.Outcome State Fault Refusal :=
  .next (issueActs [(actMin f).of (.min f)] s)
/-- MAX (R255): the bundle of this syllable alone issues. -/
def execMax (f : SBin) (s : State) : Host.Outcome State Fault Refusal :=
  .next (issueActs [(actMax f).of (.max f)] s)
/-- MINN (R255): the bundle of this syllable alone issues. -/
def execMinn (f : SBin) (s : State) : Host.Outcome State Fault Refusal :=
  .next (issueActs [(actMinn f).of (.minn f)] s)
/-- MAXN (R255): the bundle of this syllable alone issues. -/
def execMaxn (f : SBin) (s : State) : Host.Outcome State Fault Refusal :=
  .next (issueActs [(actMaxn f).of (.maxn f)] s)
/-- CLZ (R255): the bundle of this syllable alone issues. -/
def execClz (f : SUn) (s : State) : Host.Outcome State Fault Refusal :=
  .next (issueActs [(actClz f).of (.clz f)] s)
/-- CTZ (R255): the bundle of this syllable alone issues. -/
def execCtz (f : SUn) (s : State) : Host.Outcome State Fault Refusal :=
  .next (issueActs [(actCtz f).of (.ctz f)] s)
/-- POPC (R255): the bundle of this syllable alone issues. -/
def execPopc (f : SUn) (s : State) : Host.Outcome State Fault Refusal :=
  .next (issueActs [(actPopc f).of (.popc f)] s)
/-- MOV (R255): the bundle of this syllable alone issues. -/
def execMov (f : SMov) (s : State) : Host.Outcome State Fault Refusal :=
  .next (issueActs [(actMov f).of (.mov f)] s)
/-- MOVH (R255): the bundle of this syllable alone issues. -/
def execMovh (f : SBin) (s : State) : Host.Outcome State Fault Refusal :=
  .next (issueActs [(actMovh f).of (.movh f)] s)
/-- SEXT (R255): the bundle of this syllable alone issues. -/
def execSext (f : SBin) (s : State) : Host.Outcome State Fault Refusal :=
  .next (issueActs [(actSext f).of (.sext f)] s)
/-- ZEXT (R255): the bundle of this syllable alone issues. -/
def execZext (f : SBin) (s : State) : Host.Outcome State Fault Refusal :=
  .next (issueActs [(actZext f).of (.zext f)] s)
/-- SHADD1 (R255): the bundle of this syllable alone issues. -/
def execShadd1 (f : SBin) (s : State) : Host.Outcome State Fault Refusal :=
  .next (issueActs [(actShadd1 f).of (.shadd1 f)] s)
/-- SHADD2 (R255): the bundle of this syllable alone issues. -/
def execShadd2 (f : SBin) (s : State) : Host.Outcome State Fault Refusal :=
  .next (issueActs [(actShadd2 f).of (.shadd2 f)] s)
/-- SHADD3 (R255): the bundle of this syllable alone issues. -/
def execShadd3 (f : SBin) (s : State) : Host.Outcome State Fault Refusal :=
  .next (issueActs [(actShadd3 f).of (.shadd3 f)] s)
/-- CMPEQ (R256): the bundle of this syllable alone issues. -/
def execCmpeq (f : SCmp) (s : State) : Host.Outcome State Fault Refusal :=
  .next (issueActs [(actCmpeq f).of (.cmpeq f)] s)
/-- CMPNE (R256): the bundle of this syllable alone issues. -/
def execCmpne (f : SCmp) (s : State) : Host.Outcome State Fault Refusal :=
  .next (issueActs [(actCmpne f).of (.cmpne f)] s)
/-- CMPLT (R256): the bundle of this syllable alone issues. -/
def execCmplt (f : SCmp) (s : State) : Host.Outcome State Fault Refusal :=
  .next (issueActs [(actCmplt f).of (.cmplt f)] s)
/-- CMPLE (R256): the bundle of this syllable alone issues. -/
def execCmple (f : SCmp) (s : State) : Host.Outcome State Fault Refusal :=
  .next (issueActs [(actCmple f).of (.cmple f)] s)
/-- CMPLTN (R256): the bundle of this syllable alone issues. -/
def execCmpltn (f : SCmp) (s : State) : Host.Outcome State Fault Refusal :=
  .next (issueActs [(actCmpltn f).of (.cmpltn f)] s)
/-- CMPLEN (R256): the bundle of this syllable alone issues. -/
def execCmplen (f : SCmp) (s : State) : Host.Outcome State Fault Refusal :=
  .next (issueActs [(actCmplen f).of (.cmplen f)] s)
/-- PAND (R257): the bundle of this syllable alone issues. -/
def execPand (f : SPred) (s : State) : Host.Outcome State Fault Refusal :=
  .next (issueActs [(actPand f).of (.pand f)] s)
/-- POR (R257): the bundle of this syllable alone issues. -/
def execPor (f : SPred) (s : State) : Host.Outcome State Fault Refusal :=
  .next (issueActs [(actPor f).of (.por f)] s)
/-- PXOR (R257): the bundle of this syllable alone issues. -/
def execPxor (f : SPred) (s : State) : Host.Outcome State Fault Refusal :=
  .next (issueActs [(actPxor f).of (.pxor f)] s)
/-- PANDN (R257): the bundle of this syllable alone issues. -/
def execPandn (f : SPred) (s : State) : Host.Outcome State Fault Refusal :=
  .next (issueActs [(actPandn f).of (.pandn f)] s)
/-- PGET (R257): the bundle of this syllable alone issues. -/
def execPget (f : SPget) (s : State) : Host.Outcome State Fault Refusal :=
  .next (issueActs [(actPget f).of (.pget f)] s)
/-- PSET (R257): the bundle of this syllable alone issues. -/
def execPset (f : SPset) (s : State) : Host.Outcome State Fault Refusal :=
  .next (issueActs [(actPset f).of (.pset f)] s)
/-- PALL (R257): the bundle of this syllable alone issues. -/
def execPall (f : SPred) (s : State) : Host.Outcome State Fault Refusal :=
  .next (issueActs [(actPall f).of (.pall f)] s)
/-- FADD (R258): the bundle of this syllable alone issues. -/
def execFadd (f : SFBin) (s : State) : Host.Outcome State Fault Refusal :=
  .next (issueActs [(actFadd f).of (.fadd f)] s)
/-- FSUB (R258): the bundle of this syllable alone issues. -/
def execFsub (f : SFBin) (s : State) : Host.Outcome State Fault Refusal :=
  .next (issueActs [(actFsub f).of (.fsub f)] s)
/-- FMUL (R258): the bundle of this syllable alone issues. -/
def execFmul (f : SFBin) (s : State) : Host.Outcome State Fault Refusal :=
  .next (issueActs [(actFmul f).of (.fmul f)] s)
/-- FMA (R258): the bundle of this syllable alone issues. -/
def execFma (f : SFBin) (s : State) : Host.Outcome State Fault Refusal :=
  .next (issueActs [(actFma f).of (.fma f)] s)
/-- FDIV (R258): the bundle of this syllable alone issues. -/
def execFdiv (f : SFBin) (s : State) : Host.Outcome State Fault Refusal :=
  .next (issueActs [(actFdiv f).of (.fdiv f)] s)
/-- FSQRT (R258): the bundle of this syllable alone issues. -/
def execFsqrt (f : SFUn) (s : State) : Host.Outcome State Fault Refusal :=
  .next (issueActs [(actFsqrt f).of (.fsqrt f)] s)
/-- FMIN (R258): the bundle of this syllable alone issues. -/
def execFmin (f : SFBin) (s : State) : Host.Outcome State Fault Refusal :=
  .next (issueActs [(actFmin f).of (.fmin f)] s)
/-- FMAX (R258): the bundle of this syllable alone issues. -/
def execFmax (f : SFBin) (s : State) : Host.Outcome State Fault Refusal :=
  .next (issueActs [(actFmax f).of (.fmax f)] s)
/-- FCMPEQ (R258): the bundle of this syllable alone issues. -/
def execFcmpeq (f : SFCmp) (s : State) : Host.Outcome State Fault Refusal :=
  .next (issueActs [(actFcmpeq f).of (.fcmpeq f)] s)
/-- FCMPLT (R258): the bundle of this syllable alone issues. -/
def execFcmplt (f : SFCmp) (s : State) : Host.Outcome State Fault Refusal :=
  .next (issueActs [(actFcmplt f).of (.fcmplt f)] s)
/-- FCMPLE (R258): the bundle of this syllable alone issues. -/
def execFcmple (f : SFCmp) (s : State) : Host.Outcome State Fault Refusal :=
  .next (issueActs [(actFcmple f).of (.fcmple f)] s)
/-- FCMPUN (R258): the bundle of this syllable alone issues. -/
def execFcmpun (f : SFCmp) (s : State) : Host.Outcome State Fault Refusal :=
  .next (issueActs [(actFcmpun f).of (.fcmpun f)] s)
/-- FTOI (R258): the bundle of this syllable alone issues. -/
def execFtoi (f : SFConv) (s : State) : Host.Outcome State Fault Refusal :=
  .next (issueActs [(actFtoi f).of (.ftoi f)] s)
/-- ITOF (R258): the bundle of this syllable alone issues. -/
def execItof (f : SFConv) (s : State) : Host.Outcome State Fault Refusal :=
  .next (issueActs [(actItof f).of (.itof f)] s)
/-- FCVT (R258): the bundle of this syllable alone issues. -/
def execFcvt (f : SFUn) (s : State) : Host.Outcome State Fault Refusal :=
  .next (issueActs [(actFcvt f).of (.fcvt f)] s)
/-- FCLASS (R258): the bundle of this syllable alone issues. -/
def execFclass (f : SFUn) (s : State) : Host.Outcome State Fault Refusal :=
  .next (issueActs [(actFclass f).of (.fclass f)] s)

end Sys2Proof.Machine
end

