-- ==== Sys2Proof/Machine/Special.lean ====
section
/-! DEFINITION. The special functions of the F slot (R130 to R135): each a single rounding of a value that the rules state
exactly. -/
namespace Sys2Proof.Machine

/-! ## Dyadic numbers m × 2^e -/

structure Dy where
  m : Int
  e : Int
deriving DecidableEq, Repr

/-- The mantissa at a lower exponent. -/
def Dy.at (x : Dy) (e : Int) : Int := x.m * (2 : Int) ^ (x.e - e).toNat
def Dy.ofInt (z : Int) : Dy := ⟨z, 0⟩
def Dy.add (x y : Dy) : Dy := let e := if x.e < y.e then x.e else y.e; ⟨x.at e + y.at e, e⟩
def Dy.mul (x y : Dy) : Dy := ⟨x.m * y.m, x.e + y.e⟩
def Dy.neg (x : Dy) : Dy := ⟨-x.m, x.e⟩
def Dy.sub (x y : Dy) : Dy := x.add y.neg
def Dy.scale (x : Dy) (k : Int) : Dy := ⟨x.m, x.e + k⟩
/-- floor of a dyadic number. -/
def Dy.floor (x : Dy) : Int := match x.e with
  | .ofNat k => x.m * (2 : Int) ^ k
  | .negSucc k => x.m / (2 : Int) ^ (k + 1)
/-- The k-th power. -/
def Dy.pow (x : Dy) : Nat → Dy
  | 0 => Dy.ofInt 1
  | k + 1 => x.mul (x.pow k)
/-- A polynomial by Horner's scheme, lowest coefficient first. -/
def Dy.poly (w : Dy) : List Dy → Dy
  | [] => Dy.ofInt 0
  | c :: cs => c.add (w.mul (Dy.poly w cs))
/-- Every second element negated, the second one first. -/
def alternate (neg : Bool) : List Dy → List Dy
  | [] => []
  | c :: cs => (if neg then c.neg else c) :: alternate (!neg) cs

/-- x ÷ y as an exact result; y is not zero. -/
def Dy.quot (x y : Dy) : Exact :=
  let neg := decide (x.m < 0) != decide (y.m < 0)
  if x.m = 0 then .zero neg
  else match x.e - y.e with
    | .ofNat k => .val neg (x.m.natAbs <<< k) y.m.natAbs
    | .negSucc k => .val neg x.m.natAbs (y.m.natAbs <<< (k + 1))

/-- R130: y rounded to 64 significant bits, ties to even. -/
def Dy.q64 (y : Dy) : Dy :=
  let a := y.m.natAbs
  let len := Nat.log2 a + 1
  if len ≤ 64 then y
  else
    let k := len - 64
    let n := a >>> k
    let r := a % 2 ^ k
    let n' := if 2 ^ k < 2 * r || (2 ^ k == 2 * r && n % 2 == 1) then n + 1 else n
    ⟨if y.m < 0 then -(n' : Int) else n', y.e + k⟩

/-! ## Tables (R130) -/

/-- q64(2^(i/64)) × 2^63, part. -/
def exp2Tab0 : List Nat :=
  [0x8000000000000000, 0x8164D1F3BC030773, 0x82CD8698AC2BA1D7, 0x843A28C3ACDE4046, 0x85AAC367CC487B15,
   0x871F61969E8D1010, 0x88980E8092DA8527, 0x8A14D575496EFD9A, 0x8B95C1E3EA8BD6E7, 0x8D1ADF5B7E5BA9E6,
   0x8EA4398B45CD53C0, 0x9031DC431466B1DC, 0x91C3D373AB11C336, 0x935A2B2F13E6E92C, 0x94F4EFA8FEF70961,
   0x96942D3720185A00, 0x9837F0518DB8A96F, 0x99E0459320B7FA65, 0x9B8D39B9D54E5539, 0x9D3ED9A72CFFB751,
   0x9EF5326091A111AE, 0xA0B0510FB9714FC2, 0xA27043030C496819, 0xA43515AE09E6809E, 0xA5FED6A9B15138EA,
   0xA7CD93B4E965356A, 0xA9A15AB4EA7C0EF8, 0xAB7A39B5A93ED337, 0xAD583EEA42A14AC6, 0xAF3B78AD690A4375,
   0xB123F581D2AC2590, 0xB311C412A9112489]
/-- q64(2^(i/64)) × 2^63, part. -/
def exp2Tab1 : List Nat :=
  [0xB504F333F9DE6484, 0xB6FD91E328D17791, 0xB8FBAF4762FB9EE9, 0xBAFF5AB2133E45FB, 0xBD08A39F580C36BF,
   0xBF1799B67A731083, 0xC12C4CCA66709456, 0xC346CCDA24976407, 0xC5672A115506DADD, 0xC78D74C8ABB9B15D,
   0xC9B9BD866E2F27A3, 0xCBEC14FEF2727C5D, 0xCE248C151F8480E4, 0xD06333DAEF2B2595, 0xD2A81D91F12AE45A,
   0xD4F35AABCFEDFA1F, 0xD744FCCAD69D6AF4, 0xD99D15C278AFD7B6, 0xDBFBB797DAF23755, 0xDE60F4825E0E9124,
   0xE0CCDEEC2A94E111, 0xE33F8972BE8A5A51, 0xE5B906E77C8348A8, 0xE8396A503C4BDC68, 0xEAC0C6E7DD24392F,
   0xED4F301ED9942B84, 0xEFE4B99BDCDAF5CB, 0xF281773C59FFB13A, 0xF5257D152486CC2C, 0xF7D0DF730AD13BB9,
   0xFA83B2DB722A033A, 0xFD3E0C0CF486C175]
def exp2Tab : List Nat := exp2Tab0 ++ exp2Tab1
/-- q64((ln 2)^k / k!) for k = 0 to 6. -/
def lnCoef : List Dy :=
  [⟨0x8000000000000000, -63⟩, ⟨0xB17217F7D1CF79AC, -64⟩, ⟨0xF5FDEFFC162C7543, -66⟩, ⟨0xE35846B82505FC5A, -68⟩,
   ⟨0x9D955B7DD273B94E, -70⟩, ⟨0xAEC3FF3C53398884, -73⟩, ⟨0xA184897C363C3B7A, -76⟩]
/-- q64(1 / (1 + i/64)), part. -/
def recTab0 : List Dy :=
  [⟨0x8000000000000000, -63⟩, ⟨0xFC0FC0FC0FC0FC10, -64⟩, ⟨0xF83E0F83E0F83E10, -64⟩, ⟨0xF4898D5F85BB3950, -64⟩,
   ⟨0xF0F0F0F0F0F0F0F1, -64⟩, ⟨0xED7303B5CC0ED730, -64⟩, ⟨0xEA0EA0EA0EA0EA0F, -64⟩, ⟨0xE6C2B4481CD85689, -64⟩,
   ⟨0xE38E38E38E38E38E, -64⟩, ⟨0xE070381C0E070382, -64⟩, ⟨0xDD67C8A60DD67C8A, -64⟩, ⟨0xDA740DA740DA740E, -64⟩,
   ⟨0xD79435E50D79435E, -64⟩, ⟨0xD4C77B03531DEC0D, -64⟩, ⟨0xD20D20D20D20D20D, -64⟩, ⟨0xCF6474A8819EC8E9, -64⟩,
   ⟨0xCCCCCCCCCCCCCCCD, -64⟩, ⟨0xCA4587E6B74F0329, -64⟩, ⟨0xC7CE0C7CE0C7CE0C, -64⟩, ⟨0xC565C87B5F9D4D1C, -64⟩,
   ⟨0xC30C30C30C30C30C, -64⟩, ⟨0xC0C0C0C0C0C0C0C1, -64⟩, ⟨0xBE82FA0BE82FA0BF, -64⟩, ⟨0xBC52640BC52640BC, -64⟩,
   ⟨0xBA2E8BA2E8BA2E8C, -64⟩, ⟨0xB81702E05C0B8170, -64⟩, ⟨0xB60B60B60B60B60B, -64⟩, ⟨0xB40B40B40B40B40B, -64⟩,
   ⟨0xB21642C8590B2164, -64⟩, ⟨0xB02C0B02C0B02C0B, -64⟩, ⟨0xAE4C415C9882B931, -64⟩, ⟨0xAC7691840AC76918, -64⟩]
/-- q64(1 / (1 + i/64)), part. -/
def recTab1 : List Dy :=
  [⟨0xAAAAAAAAAAAAAAAB, -64⟩, ⟨0xA8E83F5717C0A8E8, -64⟩, ⟨0xA72F05397829CBC1, -64⟩, ⟨0xA57EB50295FAD40A, -64⟩,
   ⟨0xA3D70A3D70A3D70A, -64⟩, ⟨0xA237C32B16CFD772, -64⟩, ⟨0xA0A0A0A0A0A0A0A1, -64⟩, ⟨0x9F1165E7254813E2, -64⟩,
   ⟨0x9D89D89D89D89D8A, -64⟩, ⟨0x9C09C09C09C09C0A, -64⟩, ⟨0x9A90E7D95BC609A9, -64⟩, ⟨0x991F1A515885FB37, -64⟩,
   ⟨0x97B425ED097B425F, -64⟩, ⟨0x964FDA6C0964FDA7, -64⟩, ⟨0x94F2094F2094F209, -64⟩, ⟨0x939A85C40939A85C, -64⟩,
   ⟨0x9249249249249249, -64⟩, ⟨0x90FDBC090FDBC091, -64⟩, ⟨0x8FB823EE08FB823F, -64⟩, ⟨0x8E78356D1408E783, -64⟩,
   ⟨0x8D3DCB08D3DCB08D, -64⟩, ⟨0x8C08C08C08C08C09, -64⟩, ⟨0x8AD8F2FBA9386823, -64⟩, ⟨0x89AE4089AE4089AE, -64⟩,
   ⟨0x8888888888888889, -64⟩, ⟨0x8767AB5F34E47EF1, -64⟩, ⟨0x864B8A7DE6D1D608, -64⟩, ⟨0x8534085340853408, -64⟩,
   ⟨0x8421084210842108, -64⟩, ⟨0x83126E978D4FDF3B, -64⟩, ⟨0x8208208208208208, -64⟩, ⟨0x8102040810204081, -64⟩]
def recTab : List Dy := recTab0 ++ recTab1
/-- q64(-log2(c)) for the c of recTab, part. -/
def logTab0 : List Dy :=
  [⟨0x0, 0⟩, ⟨0xB73CB42E16914C48, -69⟩, ⟨0xB5D69BAC77EC397E, -68⟩, ⟨0x8759C4FD14FCD5A1, -67⟩,
   ⟨0xB31FB7D64898B3E6, -67⟩, ⟨0xDE4212056D5DD320, -67⟩, ⟨0x8462C466D3CF1CAF, -66⟩, ⟨0x99574F13C570D0FB, -66⟩,
   ⟨0xAE00D1CFDEB43CFE, -66⟩, ⟨0xC2615E81781D97ED, -66⟩, ⟨0xD67AF16DA7649F82, -66⟩, ⟨0xEA4F726192CB7E45, -66⟩,
   ⟨0xFDE0B5C81340511F, -66⟩, ⟨0x88983ED6985BAE59, -65⟩, ⟨0x92203D587039CC13, -65⟩, ⟨0x9B892675266F66CE, -65⟩,
   ⟨0xA4D3C25E68DC57F2, -65⟩, ⟨0xAE00D1CFDEB43CFD, -65⟩, ⟨0xB7110E6CE866F2BE, -65⟩, ⟨0xC0052B18B0E2A195, -65⟩,
   ⟨0xC8DDD448F8B845A6, -65⟩, ⟨0xD19BB053FB0284EB, -65⟩, ⟨0xDA3F5FB9C415051F, -65⟩, ⟨0xE2C97D694ADAB3F5, -65⟩,
   ⟨0xEB3A9F01975077F1, -65⟩, ⟨0xF393550F3AA69063, -65⟩, ⟨0xFBD42B4658367672, -65⟩, ⟨0x81FED45CBCCBF99D, -64⟩,
   ⟨0x86082806B1D532C4, -64⟩, ⟨0x8A064FD50F2A1CF1, -64⟩, ⟨0x8DF988F4AE806F1E, -64⟩, ⟨0x91E20EA1393E4041, -64⟩]
/-- q64(-log2(c)) for the c of recTab, part. -/
def logTab1 : List Dy :=
  [⟨0x95C01A39FBD6879F, -64⟩, ⟨0x9993E355A4E53644, -64⟩, ⟨0x9D5D9FD5010B3667, -64⟩, ⟨0xA11D83F4C3554B39, -64⟩,
   ⟨0xA4D3C25E68DC57F3, -64⟩, ⟨0xA8808C384547C6EF, -64⟩, ⟨0xAC241134C4E99E1C, -64⟩, ⟨0xAFBE7FA0F04D75C7, -64⟩,
   ⟨0xB35004723C465E69, -64⟩, ⟨0xB6D8CB53B0CA4ECB, -64⟩, ⟨0xBA58FEB2703A9E37, -64⟩, ⟨0xBDD0C7C9A817204F, -64⟩,
   ⟨0xC1404EADF38396DE, -64⟩, ⟨0xC4A7BA58377C5A03, -64⟩, ⟨0xC80730B0001667F3, -64⟩, ⟨0xCB5ED69565AFAF80, -64⟩,
   ⟨0xCEAECFEA80859B34, -64⟩, ⟨0xD1F73F9C70C0F684, -64⟩, ⟨0xD53847AC00A69BE7, -64⟩, ⟨0xD8720935E6435EBE, -64⟩,
   ⟨0xDBA4A47AA996D25B, -64⟩, ⟨0xDED038E633F36DA8, -64⟩, ⟨0xE1F4E5170D02A99B, -64⟩, ⟨0xE512C6E54998B1B1, -64⟩,
   ⟨0xE829FB693044B398, -64⟩, ⟨0xEB3A9F01975077F2, -64⟩, ⟨0xEE44CD59FFAB62F4, -64⟩, ⟨0xF148A170700A00FF, -64⟩,
   ⟨0xF446359B13539552, -64⟩, ⟨0xF73DA38D9D4A83ED, -64⟩, ⟨0xFA2F045E7832AA73, -64⟩, ⟨0xFD1A708BBE119B15, -64⟩]
def logTab : List Dy := logTab0 ++ logTab1
/-- q64(1 / (k × ln 2)) for k = 1 to 8; even terms are subtracted. -/
def logCoef : List Dy :=
  [⟨0xB8AA3B295C17F0BC, -63⟩, ⟨0xB8AA3B295C17F0BC, -64⟩, ⟨0xF6384EE1D01FEBA5, -65⟩, ⟨0xB8AA3B295C17F0BC, -65⟩,
   ⟨0x93BB62877CDFF3C9, -65⟩, ⟨0xF6384EE1D01FEBA5, -66⟩, ⟨0xD30BB153D6F6C9FB, -66⟩, ⟨0xB8AA3B295C17F0BC, -66⟩]
/-- q64(2 / (sqrt(pi) × n! × (2n + 1))), part; odd terms are subtracted. -/
def erfCoef0 : List Dy :=
  [⟨0x906EBA8214DB688D, -63⟩, ⟨0xC093A3581BCF3612, -65⟩, ⟨0xE71790D0215F0DAF, -67⟩, ⟨0xDC167189445A86F0, -69⟩,
   ⟨0xAB2DE6873529F72C, -71⟩, ⟨0xE016DA00205C2C4D, -74⟩, ⟨0xFCD1937CDC4DBBD3, -77⟩, ⟨0xFA692E1F06175AF3, -80⟩,
   ⟨0xDCF364EE328D1404, -83⟩, ⟨0xAFBA17621F38CF8B, -86⟩, ⟨0xFE62B9031260DE6D, -90⟩, ⟨0xA8EB8C0E2E9B6424, -93⟩,
   ⟨0xCF356AF2AD397E41, -97⟩, ⟨0xEC229E5862374EF7, -101⟩, ⟨0xFB41D7254B8035C2, -105⟩,
   ⟨0xFAB7838D442E7467, -109⟩, ⟨0xEB859A9BFA3B2788, -113⟩, ⟨0xD1003D79A23FAE0D, -117⟩,
   ⟨0xAFBC8CDE33DC5E12, -121⟩, ⟨0x8C6645030E23CAA3, -125⟩]
/-- q64(2 / (sqrt(pi) × n! × (2n + 1))), part; odd terms are subtracted. -/
def erfCoef1 : List Dy :=
  [⟨0xD5AE618A44F94863, -130⟩, ⟨0x9B3B7E246099E13D, -134⟩, ⟨0xD7C1E17D8CFD2EB6, -139⟩,
   ⟨0x8FB4861593A9D0F7, -143⟩, ⟨0xB7C944BBD0013C02, -148⟩, ⟨0xE2055FF93E732979, -153⟩,
   ⟨0x85D756ED823D81B5, -157⟩, ⟨0x98DBBBB72A093841, -162⟩, ⟨0xA890C9DF2894C0EC, -167⟩,
   ⟨0xB3B2BD2B8A451ADE, -172⟩, ⟨0xB964BFCEE9DC6B2D, -177⟩, ⟨0xB94C72A2809D6320, -182⟩,
   ⟨0xB398DD626CE75052, -187⟩, ⟨0xA8F4C59D8C8B5690, -192⟩, ⟨0x9A6888F380A93E4D, -197⟩,
   ⟨0x8932560A878A87EB, -202⟩, ⟨0xED39081B8ECAE71E, -208⟩, ⟨0xC7B1CEEB9018AD27, -213⟩,
   ⟨0xA3CBC371F2F49186, -218⟩, ⟨0x82FE85DEFE4AC74E, -223⟩]
/-- q64(2 / (sqrt(pi) × n! × (2n + 1))), part; odd terms are subtracted. -/
def erfCoef2 : List Dy :=
  [⟨0xCC6A6A814606B4CD, -229⟩, ⟨0x9BB313A967AA3BA0, -234⟩, ⟨0xE7AC8517078869EF, -240⟩,
   ⟨0xA871F0673DA8A411, -245⟩, ⟨0xEF8151A2BEB29837, -251⟩, ⟨0xA69253E8671E9FC0, -256⟩,
   ⟨0xE2C4934354BBB406, -262⟩, ⟨0x97250C8D6DDAD992, -267⟩, ⟨0xC55F016FAAB97EA5, -273⟩,
   ⟨0xFC953C26D627B2B2, -279⟩, ⟨0x9E73B8A4AE7E7E17, -284⟩, ⟨0xC2FB1374EC5BE8CB, -290⟩,
   ⟨0xEB67C4F870D1FD1D, -296⟩, ⟨0x8B7990EA97CD43DA, -301⟩, ⟨0xA2453C7A4650AC31, -307⟩,
   ⟨0xB96BEC0A66117536, -313⟩, ⟨0xD028E4BD0775A973, -319⟩, ⟨0xE5A89132A7F62808, -325⟩,
   ⟨0xF9159710FD649C97, -331⟩, ⟨0x84D3788E5D7BEA0E, -336⟩]
/-- q64(2 / (sqrt(pi) × n! × (2n + 1))), part; odd terms are subtracted. -/
def erfCoef3 : List Dy :=
  [⟨0x8B56DBD7370C7F9E, -342⟩, ⟨0x8FD09FC1290504B0, -348⟩, ⟨0x9214305FC86B19D6, -354⟩,
   ⟨0x920F83D87DE8188E, -360⟩, ⟨0x8FCBCD36602BF07C, -366⟩, ⟨0x8B6C19AD9C8848BE, -372⟩,
   ⟨0x852A100280644DA5, -378⟩, ⟨0xFAA26F5CB3B9A4CA, -385⟩, ⟨0xE872984E0FA7E2CE, -391⟩,
   ⟨0xD4805B67790D6DAE, -397⟩, ⟨0xBF87F929063D6249, -403⟩, ⟨0xAA3BAEFBF179B41F, -409⟩,
   ⟨0x953B2FA944AD62DA, -415⟩, ⟨0x810D83B3F2335207, -421⟩, ⟨0xDC3AE93431D1C04F, -428⟩,
   ⟨0xB970C911128218A1, -434⟩, ⟨0x9A1E81974DA49239, -440⟩, ⟨0xFCE46E7578FD65E9, -447⟩,
   ⟨0xCCDBA9605F5550EC, -453⟩, ⟨0xA3DF96D640B9A3AE, -459⟩]
def erfCoef : List Dy := erfCoef0 ++ erfCoef1 ++ erfCoef2 ++ erfCoef3
/-- LOG2E of R130. -/
def dyLog2e : Dy := ⟨0x171547652B82FE178, -64⟩
/-- LN2 of R130. -/
def dyLn2 : Dy := ⟨0xB17217F7D1CF79AC, -64⟩
/-- q64(1/√2). -/
def dyRsqrt2 : Dy := ⟨0xB504F333F9DE6484, -64⟩
/-- floor(pi × 2^700): enough of pi for every reduction of an FP32 operand. -/
def pi700 : Nat := 0x3243F6A8885A308D313198A2E03707344A4093822299F31D0082EFA98EC4E6C89452821E638D01377BE5466CF34E90C6CC0AC29B7C97C50DD3F84D5B5B54709179216D5D98979FB1BD1310BA698DFB5AC2FFD72DBD01ADFB

/-! ## The defined values (R132 to R134) -/

/-- R132: X(y). Beyond ±4,096 its power of two is cut: every format has over- or underflowed long before. -/
def expX (y : Dy) : Dy :=
  let n := y.floor
  let f := y.sub (Dy.ofInt n)
  let i := (f.scale 6).floor
  let w := f.sub ⟨i, -6⟩
  let n' := if 4096 < n then 4096 else if n < -4096 then -4096 else n
  ((Dy.mk (exp2Tab.getD i.toNat 0) (-63)).mul (w.poly lnCoef)).scale n'

/-- R133: Y(x) for x = m × 2^e above zero. -/
def logY (m : Nat) (e : Int) : Dy :=
  let len := Nat.log2 m
  let one : Dy := ⟨m, -(len : Int)⟩
  let ex := e + len
  let i := ((one.sub (Dy.ofInt 1)).scale 6).floor.toNat
  let z := (one.mul (recTab.getD i ⟨1, 0⟩)).sub (Dy.ofInt 1)
  ((Dy.ofInt ex).add (logTab.getD i ⟨0, 0⟩)).add (z.mul (z.poly (alternate false logCoef)))

/-- R134: D(x). -/
def erfD (x : Dy) : Dy := x.mul ((x.mul x).poly (alternate false erfCoef))

/-- |x| ≥ 4. -/
def atLeast4 (x : Dy) : Bool := let a : Dy := ⟨x.m.natAbs, x.e⟩; decide (4 ≤ a.floor)

/-- R134: κ and ρ. -/
def piReduce (x : Dy) : Int × Dy :=
  let num : Dy := (x.scale 701)
  let q : Int := match num.e with
    | .ofNat k => (2 * (num.m * (2 : Int) ^ k) + pi700) / (2 * (pi700 : Int))
    | .negSucc k => (2 * num.m + (pi700 : Int) * (2 : Int) ^ (k + 1)) / (2 * (pi700 : Int) * (2 : Int) ^ (k + 1))
  (q, (x.sub ((Dy.ofInt q).mul ⟨pi700, -701⟩)).q64)

def factorial : Nat → Nat
  | 0 => 1
  | n + 1 => (n + 1) * factorial n

/-- R134: s × 21! and c × 20! of a reduced angle. -/
def sinS (r : Dy) : Dy :=
  r.mul ((r.mul r).poly (alternate false ((List.range 11).map fun j => Dy.ofInt (factorial 21 / factorial (2 * j + 1) : Nat))))
def cosC (r : Dy) : Dy :=
  (r.mul r).poly (alternate false ((List.range 11).map fun j => Dy.ofInt (factorial 20 / factorial (2 * j) : Nat)))

/-- ± s or ± c by the quadrant. -/
def quadrant (k : Int) (r : Dy) : Exact :=
  match (k % 4).toNat with
  | 0 => (sinS r).quot (Dy.ofInt (factorial 21))
  | 1 => (cosC r).quot (Dy.ofInt (factorial 20))
  | 2 => (sinS r).neg.quot (Dy.ofInt (factorial 21))
  | _ => (cosC r).neg.quot (Dy.ofInt (factorial 20))

/-- A value that rounds as 1 ÷ √(m × 2^e) does. -/
def rsqrtExact (m : Nat) (e : Int) : Exact :=
  let m1 := if e % 2 = 0 then m else 2 * m
  let e1 := if e % 2 = 0 then e else e - 1
  let r := isqrt (2 ^ 320 / m1)
  exactOf false (2 * r + (if r * r * m1 = 2 ^ 320 then 0 else 1)) (-161 - e1 / 2)

/-! ## The functions (R131, R134) -/

def Dy.one : Dy := Dy.ofInt 1
def dyExact (x : Dy) : Exact := exactOf (decide (x.m < 0)) x.m.natAbs x.e
/-- A finite operand as a dyadic number. -/
def finDy (neg : Bool) (m : Nat) (e : Int) : Dy := ⟨if neg then -(m : Int) else m, e⟩

def fnExp2 : FVal → Exact
  | .nan => .nan 0
  | .inf n => if n then .zero false else .inf false 0
  | .fin n m e => if m = 0 then .val false 1 1 else dyExact (expX (finDy n m e))
def fnExp : FVal → Exact
  | .nan => .nan 0
  | .inf n => if n then .zero false else .inf false 0
  | .fin n m e => if m = 0 then .val false 1 1 else dyExact (expX ((finDy n m e).mul dyLog2e))
def fnLog2 : FVal → Exact
  | .nan => .nan 0
  | .inf n => if n then .nan fNV else .inf false 0
  | .fin n m e => if m = 0 then .inf true fDZ else if n then .nan fNV else dyExact (logY m e)
def fnLn : FVal → Exact
  | .nan => .nan 0
  | .inf n => if n then .nan fNV else .inf false 0
  | .fin n m e => if m = 0 then .inf true fDZ else if n then .nan fNV else dyExact ((logY m e).mul dyLn2)
def fnRcp : FVal → Exact
  | .nan => .nan 0
  | .inf n => .zero n
  | .fin n m e => if m = 0 then .inf n fDZ else (Dy.one).quot (finDy n m e)
def fnRsq : FVal → Exact
  | .nan => .nan 0
  | .inf n => if n then .nan fNV else .zero false
  | .fin n m e => if m = 0 then .inf n fDZ else if n then .nan fNV else rsqrtExact m e
def fnSqrt : FVal → Exact := sqrtF
def fnTanh : FVal → Exact
  | .nan => .nan 0
  | .inf n => .val n 1 1
  | .fin n m e =>
    if m = 0 then .zero n
    else
      let x := finDy n m e
      let a : Dy := ⟨m, e⟩
      if (a.scale 12).floor = 0 then
        -- |x| < 2^-12: (15x - 5x^3 + 2x^5) / 15
        let x2 := x.mul x
        (x.mul (x2.poly [Dy.ofInt 15, Dy.ofInt (-5), Dy.ofInt 2])).quot (Dy.ofInt 15)
      else
        let t := expX ((a.scale 1).neg.mul dyLog2e)
        let u := Dy.one.sub t
        (if n then u.neg else u).quot (Dy.one.add t)
def fnSigm : FVal → Exact
  | .nan => .nan 0
  | .inf n => if n then .zero false else .val false 1 1
  | .fin n m e => if m = 0 then .val false 1 2 else Dy.one.quot (Dy.one.add (expX ((finDy n m e).neg.mul dyLog2e)))
def fnErf : FVal → Exact
  | .nan => .nan 0
  | .inf n => .val n 1 1
  | .fin n m e =>
    let x := finDy n m e
    if m = 0 then .zero n else if atLeast4 x then .val n 1 1 else dyExact (erfD x)
def fnGelu : FVal → Exact
  | .nan => .nan 0
  | .inf n => if n then .zero true else .inf false 0
  | .fin n m e =>
    if m = 0 then .zero n
    else
      let x := finDy n m e
      let u := x.mul dyRsqrt2
      let d := if atLeast4 u then Dy.ofInt (if n then -1 else 1) else erfD u
      let v := (x.scale (-1)).mul (Dy.one.add d)
      if v.m = 0 then .zero n else dyExact v
def fnSin : FVal → Exact
  | .nan => .nan 0
  | .inf _ => .nan fNV
  | .fin n m e => if m = 0 then .zero n else let r := piReduce (finDy n m e); quadrant r.1 r.2
def fnCos : FVal → Exact
  | .nan => .nan 0
  | .inf _ => .nan fNV
  | .fin n m e => if m = 0 then .val false 1 1 else let r := piReduce (finDy n m e); quadrant (r.1 + 1) r.2

end Sys2Proof.Machine
end

