-- ==== Sys2Proof/Machine/Vector.lean ====
section
/-! DEFINITION. The V and F classes (R209 to R232). -/
namespace Sys2Proof.Machine

/-- The V slots' PRESENT bits (R142). -/
def vNo : VSlot → Nat
  | .v0 => 2
  | .v1 => 3
  | .v2w => 4
  | .v2e => 4

/-- R116, R117: the bundle rounds stochastically. -/
def stochastic (s : State) : Bool := vrmMode s.core.sys.vrm == 4

/-- R115, R117: the rounding mode of a lane; the count is SRC as it stood before the bundle and the syllable's number in it. -/
def vMode (s : State) (lane : Nat) : RMode :=
  match vrmMode s.core.sys.vrm with
  | 0 => .rne
  | 1 => .rz
  | 2 => .rd
  | 3 => .ru
  | _ => .sr (draw s.core.sys.taskid (pc s) ((vrmSrc s.core.sys.vrm).toNat + s.core.drawn) lane)

/-- R117: one more stochastic syllable. -/
def countDraw (s : State) : State := s.upSys fun y => { y with vrm := vrmAdvance y.vrm 1 }

/-- A V syllable: its results, and its part in the count of R117 where its operation rounds under VRM. -/
def vAct (slot : VSlot) (refs : List RegRef) (rounds : Bool) (f : State → List Pend) : Act :=
  { mkAct (vNo slot) refs noPriv fun s => .ok ⟨f s, if rounds && stochastic s then countDraw else id, Ctl.none⟩ with
    shadow := fun s => if rounds && stochastic s then s.upCore fun c => { c with drawn := c.drawn + 1 } else s }

/-- The elements of e bytes below n whose guard is true (R209). -/
def activeElems (lanes : W128) (e n : Nat) : List Nat := (List.range n).filter fun i => lanes.getLsbD (i * e)

/-- Elements of w bits at their places. -/
def placeElems (w : Nat) (xs : List (Nat × Nat)) : W1024 :=
  BitVec.ofNat 1024 (xs.foldl (fun acc x => acc ||| (x.2 % 2 ^ w) <<< (w * x.1)) 0)

/-- The byte mask of a list of elements of e bytes. -/
def elemsMask (e : Nat) (is : List Nat) : W128 :=
  BitVec.ofNat 128 (is.foldl (fun m i => m ||| (2 ^ e - 1) <<< (i * e)) 0)

/-- A vector result from the elements that are written, with their flags. bytes is the width it may write. -/
def vecPend (d : BitVec 6) (e bytes lat slot : Nat) (xs : List (Nat × Nat × Flags)) : Pend :=
  pendV d (placeElems (8 * e) (xs.map fun x => (x.1, x.2.1))) (elemsMask e (xs.map (·.1))) bytes lat slot
    (orAll (xs.map fun x => x.2.2))

/-- An element-wise operation: the value of element i from the state at issue. -/
def elemAct (slot : VSlot) (g : VGuard) (d : BitVec 5) (w : VW) (t : VT) (refs : List RegRef) (lat : Nat) (rounds : Bool)
    (f : State → Nat → Nat × Flags) : Act :=
  let c := slotCl slot
  vAct slot (.v (clV c d) :: refs) rounds fun s =>
    let is := activeElems (vLanes g c s) (VT.bytes t) (VW.bytes w / VT.bytes t)
    [vecPend (clV c d) (VT.bytes t) (VW.bytes w) lat (vNo slot) (is.map fun i => (i, f s i))]

/-- A signed element. -/
def sx (w x : Nat) : Int := sextInt x w

/-- An integer result of w bits with no flag. -/
def iwrap (w : Nat) (z : Int) : Nat × Flags := (wrapInt z w, 0)
/-- A signed result clamped to w bits (R112). -/
def clampS (w : Nat) (z : Int) : Nat × Flags :=
  let hi : Int := 2 ^ (w - 1) - 1
  let lo : Int := -(2 ^ (w - 1))
  if hi < z then (wrapInt hi w, fSAT) else if z < lo then (wrapInt lo w, fSAT) else (wrapInt z w, 0)
/-- A result clamped to unsigned w bits. -/
def clampU (w : Nat) (z : Int) : Nat × Flags :=
  if (2 ^ w - 1 : Int) < z then (2 ^ w - 1, fSAT) else if z < 0 then (0, fSAT) else (wrapInt z w, 0)

/-- Two-operand forms: an integer function of width and elements, a float function of mode, format and elements. -/
def vbinAct (f : VBin) (latI latF : Nat) (roundsF : Bool) (fi : Nat → Nat → Nat → Nat → Nat × Flags)
    (ff : RMode → Fmt → Nat → Nat → Nat → Nat × Flags) : Act :=
  let c := slotCl f.slot
  let w := 8 * VT.bytes f.t
  elemAct f.slot f.g f.d f.w f.t (.v (clV c f.a) :: vopRefs c f.b) (if (VT.fmt f.t).isSome then latF else latI)
    (roundsF && (VT.fmt f.t).isSome) fun s i =>
      let a := lane (readV s (clV c f.a)) i w
      let b := lane (vopVal s c f.t f.b) i w
      let d := lane (readV s (clV c f.d)) i w
      match VT.fmt f.t with
      | some fm => ff (vMode s i) fm d a b
      | none => fi w d a b

/-- An integer-only form. -/
def vintAct (f : VBin) (lat : Nat) (fi : Nat → Nat → Nat → Nat × Flags) : Act :=
  vbinAct f lat lat false (fun w _ a b => fi w a b) fun _ fm _ a b => fi fm.width a b

/-! ## Arithmetic (R213) -/

def fl2 (op : RMode → FVal → FVal → Exact) (md : RMode) (fm : Fmt) (_ a b : Nat) : Nat × Flags :=
  deliver fm md (op md (decodeF fm a) (decodeF fm b))

def actVadd (f : VBin) : Act := vbinAct f 1 4 true (fun w _ a b => iwrap w (a + b)) (fl2 addF)
def actVsub (f : VBin) : Act :=
  vbinAct f 1 4 true (fun w _ a b => iwrap w (a - b)) (fl2 fun md x y => addF md x (negF y))
def actVmul (f : VBin) : Act := vbinAct f 3 4 true (fun w _ a b => iwrap w (a * b)) (fl2 fun _ => mulF)
def actVfma (f : VBin) : Act :=
  vbinAct f 3 4 true (fun w d a b => iwrap w (a * b + d)) fun md fm d a b =>
    deliver fm md (fmaF md (decodeF fm a) (decodeF fm b) (decodeF fm d))
/-- d − a × b, the product negated exactly. -/
def actVfms (f : VBin) : Act :=
  vbinAct f 3 4 true (fun w d a b => iwrap w (d - a * b)) fun md fm d a b =>
    deliver fm md (fmaF md (negF (decodeF fm a)) (decodeF fm b) (decodeF fm d))
def actVmin (f : VBin) : Act :=
  vbinAct f 1 4 false (fun w _ a b => (if sx w b < sx w a then b else a, 0)) fun _ fm _ a b => (minF fm a b, 0)
def actVmax (f : VBin) : Act :=
  vbinAct f 1 4 false (fun w _ a b => (if sx w a < sx w b then b else a, 0)) fun _ fm _ a b => (maxF fm a b, 0)
def actVminn (f : VBin) : Act := vintAct f 1 fun _ a b => (Nat.min a b, 0)
def actVmaxn (f : VBin) : Act := vintAct f 1 fun _ a b => (Nat.max a b, 0)
def actVmulh (f : VBin) : Act := vintAct f 3 fun w a b => iwrap w (sx w a * sx w b / (2 : Int) ^ w)
def actVmulhn (f : VBin) : Act := vintAct f 3 fun w a b => (a * b / 2 ^ w, 0)
def actVsadd (f : VBin) : Act := vintAct f 1 fun w a b => clampS w (sx w a + sx w b)
def actVssub (f : VBin) : Act := vintAct f 1 fun w a b => clampS w (sx w a - sx w b)

/-- One-operand forms. -/
def vunAct (f : VUn) (lat : Nat) (op : VT → Nat → Nat → Nat × Flags) : Act :=
  let c := slotCl f.slot
  let w := 8 * VT.bytes f.t
  elemAct f.slot f.g f.d f.w f.t [.v (clV c f.a)] lat false fun s i => op f.t w (lane (readV s (clV c f.a)) i w)

/-- R213: the sign bit of a float cleared or inverted; an integer's absolute value or negation. -/
def actVabs (f : VUn) : Act :=
  vunAct f 1 fun t w a => if (VT.fmt t).isSome then (a % 2 ^ (w - 1), 0) else iwrap w (sx w a).natAbs
def actVneg (f : VUn) : Act :=
  vunAct f 1 fun t w a => if (VT.fmt t).isSome then (a ^^^ 2 ^ (w - 1), 0) else iwrap w (-(sx w a))

/-! ## Logic, shifts, counts (R211, R214) -/

/-- R211: the operand of a logic operation; an immediate is not converted. -/
def logicOp (s : State) (c : Cl) (t : VT) (i : Nat) : VOp → Nat
  | .reg b => lane (readV s (clV c b)) i (8 * VT.bytes t)
  | .imm w => w.toNat % 2 ^ (8 * VT.bytes t)

def vlogicAct (f : VBin) (op : Nat → Nat → Nat → Nat) : Act :=
  let c := slotCl f.slot
  let w := 8 * VT.bytes f.t
  elemAct f.slot f.g f.d f.w f.t (.v (clV c f.a) :: vopRefs c f.b) 1 false fun s i =>
    (op w (lane (readV s (clV c f.a)) i w) (logicOp s c f.t i f.b), 0)
def actVand (f : VBin) : Act := vlogicAct f fun _ a b => a &&& b
def actVor (f : VBin) : Act := vlogicAct f fun _ a b => a ||| b
def actVxor (f : VBin) : Act := vlogicAct f fun _ a b => a ^^^ b
def actVandn (f : VBin) : Act := vlogicAct f fun w a b => a &&& (b ^^^ (2 ^ w - 1))
def actVnot (f : VUn) : Act := vunAct f 1 fun _ w a => (a ^^^ (2 ^ w - 1), 0)
def actVshl (f : VBin) : Act := vlogicAct f fun w a c => if c < w then a <<< c % 2 ^ w else 0
def actVshr (f : VBin) : Act := vlogicAct f fun w a c => if c < w then a >>> c else 0
def actVsra (f : VBin) : Act := vlogicAct f fun w a c => wrapInt (sx w a / (2 : Int) ^ (Nat.min c (w - 1))) w
def actVclz (f : VUn) : Act := vunAct f 1 fun _ w a => (leadZeros w a, 0)
def actVpopc (f : VUn) : Act := vunAct f 1 fun _ w a => (popCount w a, 0)

/-! ## Compares (R215) -/

def vcmpAct (f : VCmp) (fi : Nat → Nat → Nat → Bool) (ff : FVal → FVal → Bool) (fl : FVal → FVal → Flags) : Act :=
  let c := slotCl f.slot
  let e := VT.bytes f.t
  let w := 8 * e
  vAct f.slot (.v (clV c f.a) :: vopRefs c f.b) false fun s =>
    let is := activeElems (vLanes f.g c s) e (VW.bytes f.w / e)
    let rs := is.map fun i =>
      let a := lane (readV s (clV c f.a)) i w
      let b := lane (vopVal s c f.t f.b) i w
      match VT.fmt f.t with
      | some fm => (i, ff (decodeF fm a) (decodeF fm b), fl (decodeF fm a) (decodeF fm b))
      | none => (i, fi w a b, (0 : Flags))
    [pendP (clP c f.p) (elemsMask e ((rs.filter fun r => r.2.1).map (·.1))) (elemsMask e is) 1 (vNo f.slot)
      (orAll (rs.map fun r => r.2.2))]

def noFlags (_ _ : FVal) : Flags := 0
def actVcmpeq (f : VCmp) : Act := vcmpAct f (fun _ a b => a == b) feq noFlags
def actVcmpne (f : VCmp) : Act := vcmpAct f (fun _ a b => a != b) (fun x y => !funord x y && !feq x y) noFlags
def actVcmplt (f : VCmp) : Act := vcmpAct f (fun w a b => decide (sx w a < sx w b)) flt cmpFlags
def actVcmple (f : VCmp) : Act := vcmpAct f (fun w a b => decide (sx w a ≤ sx w b)) fle cmpFlags
def actVcmpltn (f : VCmp) : Act := vcmpAct f (fun _ a b => decide (a < b)) flt cmpFlags
def actVcmplen (f : VCmp) : Act := vcmpAct f (fun _ a b => decide (a ≤ b)) fle cmpFlags
def actVcmpun (f : VCmp) : Act := vcmpAct f (fun _ _ _ => false) funord noFlags

/-! ## Selection and moves (R216) -/

def actVsel (f : VTer) : Act :=
  let c := slotCl f.slot
  let e := VT.bytes f.t
  let w := 8 * e
  vAct f.slot [.v (clV c f.d), .v (clV c f.a), .v (clV c f.b)] false fun s =>
    [vecPend (clV c f.d) e (VW.bytes f.w) 1 (vNo f.slot) ((List.range (VW.bytes f.w / e)).map fun i =>
      (i, lane (readV s (clV c (if (vLanes f.g c s).getLsbD (i * e) then f.a else f.b))) i w, 0))]

def actVmov (f : VMov) : Act :=
  let c := slotCl f.slot
  elemAct f.slot f.g f.d f.w f.t (vopRefs c f.src) 1 false fun s i => (lane (vopVal s c f.t f.src) i (8 * VT.bytes f.t), 0)
def actVbcast (f : VBcast) : Act :=
  elemAct f.slot f.g f.d f.w f.t [.s f.x] 1 false fun s _ => ((readS s f.x).toNat % 2 ^ (8 * VT.bytes f.t), 0)

/-- R216: the other cluster. -/
def otherCl : Cl → Cl
  | .west => .east
  | .east => .west

def actVxmov (f : VUn) : Act :=
  let c := otherCl (slotCl f.slot)
  elemAct f.slot f.g f.d f.w f.t [.v (clV c f.a)] 2 false fun s i => (lane (readV s (clV c f.a)) i (8 * VT.bytes f.t), 0)
def actViota (f : VIota) : Act :=
  elemAct f.slot f.g f.d f.w f.t [] 1 false fun _ i => ((i + (f.imm.getD 0).toNat) % 2 ^ (8 * VT.bytes f.t), 0)

/-! ## Permutes, slides, interleaves (R217, R218) -/

/-- An operation that places elements of a, b and the old d. -/
def placeAct (slot : VSlot) (g : VGuard) (d a b : BitVec 5) (w : VW) (t : VT)
    (f : Nat → (Nat → Nat) → (Nat → Nat) → (Nat → Nat) → Nat → Nat) : Act :=
  let c := slotCl slot
  let k := 8 * VT.bytes t
  elemAct slot g d w t [.v (clV c a), .v (clV c b)] 2 false fun s i =>
    (f (VW.bytes w / VT.bytes t) (fun j => lane (readV s (clV c d)) j k) (fun j => lane (readV s (clV c a)) j k)
      (fun j => lane (readV s (clV c b)) j k) i, 0)

def actVperm (f : VTer) : Act := placeAct f.slot f.g f.d f.a f.b f.w f.t fun n _ a b i => a (b i % n)
def actVperm2 (f : VTer) : Act :=
  placeAct f.slot f.g f.d f.a f.b f.w f.t fun n d a b i => let j := b i % (2 * n); if j < n then a j else d (j - n)
def actVslideup (f : VSlide) : Act :=
  let k := f.k.toNat
  placeAct f.slot f.g f.d f.a f.b f.w f.t fun n _ a b i => if k ≤ i then a (i - k) else b (n - k + i)
def actVslidedn (f : VSlide) : Act :=
  let k := f.k.toNat
  placeAct f.slot f.g f.d f.a f.b f.w f.t fun n _ a b i => if i + k < n then a (i + k) else b (i + k - n)
def hNat (h : Option Bool) : Nat := if h == some true then 1 else 0
def actVzip (f : VZip) : Act :=
  placeAct f.slot f.g f.d f.a f.b f.w f.t fun n _ a b i =>
    let j := i / 2 + hNat f.h * (n / 2)
    if i % 2 = 0 then a j else b j
def actVunzip (f : VZip) : Act :=
  placeAct f.slot f.g f.d f.a f.b f.w f.t fun n _ a b i =>
    if i < n / 2 then a (2 * i + hNat f.h) else b (2 * (i - n / 2) + hNat f.h)

/-- R218. -/
def packAct (f : VUn) (place : List Nat → List (Nat × Nat)) : Act :=
  let c := slotCl f.slot
  let e := VT.bytes f.t
  vAct f.slot [.v (clV c f.d), .v (clV c f.a)] false fun s =>
    let is := activeElems (vLanes f.g c s) e (VW.bytes f.w / e)
    [vecPend (clV c f.d) e (VW.bytes f.w) 2 (vNo f.slot) ((place is).map fun p =>
      (p.1, lane (readV s (clV c f.a)) p.2 (8 * e), 0))]
def numbered (is : List Nat) : List (Nat × Nat) := List.zip (List.range is.length) is
def actVcompress (f : VUn) : Act := packAct f numbered
def actVexpand (f : VUn) : Act := packAct f fun is => (numbered is).map fun p => (p.2, p.1)

/-- R219. -/
def actVextract (f : VExtract) : Act :=
  let c := slotCl f.slot
  let e := VT.bytes f.t
  vAct f.slot [.s f.x, .v (clV c f.a)] false fun s =>
    if (vLanes f.g c s).getLsbD (f.n.toNat * e) then
      let x := lane (readV s (clV c f.a)) f.n.toNat (8 * e)
      [pendS f.x (if (VT.fmt f.t).isNone && !f.u then sext64 x (8 * e) else BitVec.ofNat 64 x) 2 (vNo f.slot) 0]
    else []

/-! ## Reductions, scans, arg-selection (R220 to R222) -/

/-- R220: the exact sum of a list. -/
def sumF (md : RMode) (xs : List FVal) : Exact :=
  if xs.any FVal.isNan then .nan 0
  else if xs.contains (.inf true) && xs.contains (.inf false) then .nan fNV
  else if xs.contains (.inf true) then .inf true 0
  else if xs.contains (.inf false) then .inf false 0
  else if xs.isEmpty then .zero false
  else sumFin md (xs.filterMap fun x => match x with | .fin n m e => some (n, m, e) | _ => none)

/-- The elements a reduction takes, with their indices. -/
def taken (f : VUn) (s : State) : List (Nat × Nat) :=
  let c := slotCl f.slot
  let e := VT.bytes f.t
  (activeElems (vLanes f.g c s) e (VW.bytes f.w / e)).map fun i => (i, lane (readV s (clV c f.a)) i (8 * e))

/-- A reduction writes one element of bytes bytes at the bottom of vd. -/
def redAct (f : VUn) (bytes : Nat) (rounds : Bool) (r : State → List (Nat × Nat) → Nat × Flags) : Act :=
  let c := slotCl f.slot
  vAct f.slot [.v (clV c f.d), .v (clV c f.a)] rounds fun s =>
    let x := r s (taken f s)
    [vecPend (clV c f.d) bytes bytes 4 (vNo f.slot) [(0, x)]]

def intSum (w : Nat) (xs : List (Nat × Nat)) : Int := xs.foldl (fun acc x => acc + sx w x.2) 0

def actVredadd (f : VUn) : Act :=
  match VT.fmt f.t with
  | some fm => redAct f (VT.bytes f.t) true fun s xs => deliver fm (vMode s 0) (sumF (vMode s 0) (xs.map fun x => decodeF fm x.2))
  | none => redAct f 4 false fun _ xs => iwrap 32 (intSum (8 * VT.bytes f.t) xs)

/-- R220: the result of an empty maximum: minus infinity, or minus the largest value; of an empty minimum, the other sign. -/
def emptyBound (fm : Fmt) (neg : Bool) : Nat :=
  signBits fm neg + (if fm.inf then (2 ^ fm.eb - 1) * 2 ^ fm.fb else fm.maxBits)

def foldF (fm : Fmt) (op : Fmt → Nat → Nat → Nat) (neg : Bool) (xs : List (Nat × Nat)) : Nat :=
  match xs with
  | [] => emptyBound fm neg
  | x :: rest => rest.foldl (fun acc y => op fm acc y.2) (op fm x.2 x.2)

def actVredmax (f : VUn) : Act :=
  let w := 8 * VT.bytes f.t
  redAct f (VT.bytes f.t) false fun _ xs =>
    match VT.fmt f.t with
    | some fm => (foldF fm maxF true xs, 0)
    | none => (xs.foldl (fun acc x => if sx w acc < sx w x.2 then x.2 else acc) (2 ^ (w - 1)), 0)
def actVredmin (f : VUn) : Act :=
  let w := 8 * VT.bytes f.t
  redAct f (VT.bytes f.t) false fun _ xs =>
    match VT.fmt f.t with
    | some fm => (foldF fm minF false xs, 0)
    | none => (xs.foldl (fun acc x => if sx w x.2 < sx w acc then x.2 else acc) (2 ^ (w - 1) - 1), 0)

/-- R221. -/
def actVscan (f : VUn) : Act :=
  let c := slotCl f.slot
  let e := VT.bytes f.t
  let w := 8 * e
  vAct f.slot [.v (clV c f.d), .v (clV c f.a)] (VT.fmt f.t).isSome fun s =>
    let xs := taken f s
    [vecPend (clV c f.d) e (VW.bytes f.w) 4 (vNo f.slot) (xs.map fun x =>
      let upto := xs.filter fun y => y.1 ≤ x.1
      (x.1, match VT.fmt f.t with
        | some fm => deliver fm (vMode s x.1) (sumF (vMode s x.1) (upto.map fun y => decodeF fm y.2))
        | none => iwrap w (intSum w upto)))]

/-- R222: the order of two elements, −0 below +0. -/
def argCmp (t : VT) (x y : Nat) : Int :=
  match VT.fmt t with
  | none => let w := 8 * VT.bytes t; if sx w x < sx w y then -1 else if sx w y < sx w x then 1 else 0
  | some fm =>
    let a := decodeF fm x
    let b := decodeF fm y
    let c := cmpVal a b
    if c != 0 then c else if a.neg && !b.neg then -1 else if b.neg && !a.neg then 1 else 0

def isNanEl (t : VT) (x : Nat) : Bool := match VT.fmt t with | some fm => (decodeF fm x).isNan | none => false

/-- R222: the index of the first element that no other beats; better says whether a difference beats. -/
def argBest (t : VT) (better : Int → Bool) (xs : List (Nat × Nat)) : Nat :=
  let nums := xs.filter fun x => !isNanEl t x.2
  match (if nums.isEmpty then xs.take 1 else nums) with
  | [] => 0xFFFFFFFF
  | x :: rest => (rest.foldl (fun acc y => if better (argCmp t y.2 acc.2) then y else acc) x).1

def actVargmax (f : VUn) : Act := redAct f 4 false fun _ xs => (argBest f.t (fun c => decide (0 < c)) xs, 0)
def actVargmin (f : VUn) : Act := redAct f 4 false fun _ xs => (argBest f.t (fun c => decide (c < 0)) xs, 0)

/-! ## Conversions (R223 to R230) -/

/-- R223: one element converted. -/
def cvtElem (st dt : VT) (u : Bool) (md : RMode) (x : Nat) : Nat × Flags :=
  let dw := 8 * VT.bytes dt
  let sw := 8 * VT.bytes st
  match VT.fmt st, VT.fmt dt with
  | some a, some b => convF a b md x
  | some a, none =>
    let lo : Int := if u then 0 else -(2 ^ (dw - 1))
    let hi : Int := if u then 2 ^ dw - 1 else 2 ^ (dw - 1) - 1
    let r := toIntSat md lo hi (exactVal (decodeF a x))
    (wrapInt r.1 dw, r.2)
  | none, some b => intToF b md (if u then (x : Int) else sx sw x)
  | none, none => if u then clampU dw x else clampS dw (sx sw x)

def actVcvt (f : VCvt) : Act :=
  let c := slotCl f.slot
  let ss := VT.bytes f.st
  let ds := VT.bytes f.t
  let n := VW.bytes f.w / Nat.max ss ds
  vAct f.slot [.v (clV c f.d), .v (clV c f.a)] ((VT.fmt f.st).isSome || (VT.fmt f.t).isSome) fun s =>
    let is := activeElems (vLanes f.g c s) ds n
    [vecPend (clV c f.d) ds (n * ds) 3 (vNo f.slot) (is.map fun i =>
      (i, cvtElem f.st f.t f.u (vMode s i) (lane (readV s (clV c f.a)) i (8 * ss))))]

/-- R225: an element of the source that goes to the side list. -/
def outlier (fm : Fmt) (thr : Nat) (x : Nat) : Bool :=
  let v := decodeF fm x
  let a := match v with | .fin _ m e => FVal.fin false m e | .inf _ => .inf false | .nan => .nan
  v.isNan || flt (decodeF fp32 thr) a

/-- R225: the source format and its size. -/
def qSrc (f : VCvtq) : Fmt × Nat := if f.bf then (bf16, 2) else (fp32, 4)
/-- The elements of a VCVTQ whose guard is true, with whether each is an outlier. -/
def qElems (f : VCvtq) (s : State) : List (Nat × Nat × Bool) :=
  let c := slotCl f.slot
  let (fm, e) := qSrc f
  (activeElems (vLanes f.g c s) 1 (VW.bytes f.w / e)).map fun i =>
    let x := lane (readV s (clV c f.a)) i (8 * e)
    (i, x, outlier fm (s.core.sys.thr.toNat % 2 ^ 32) x)
def qCount (s : State) : Nat := (s.core.sys.qcnt.extractLsb' 0 7).toNat

/-- R225, R226: QCNT after a VCVTQ. -/
def qAdvance (f : VCvtq) (s : State) : State :=
  let n := ((qElems f s).filter fun x => x.2.2).length
  let c := qCount s
  s.upSys fun y => { y with qcnt := setField (if 64 < c + n then y.qcnt ||| 0x100 else y.qcnt) 0 7 (min 64 (c + n)) }

/-- R225: the lane of the side list that each element takes, where it is an outlier and there is room: c is the count so far. -/
def sideLanes : Nat → List (Bool × Nat) → List (Option (Nat × Nat))
  | _, [] => []
  | c, (o, v) :: xs => if o && decide (c < 64) then some (c, v) :: sideLanes (c + 1) xs else none :: sideLanes c xs
/-- Writes of bytes in order: a later one of a byte replaces an earlier one. -/
def lastWrites (ws : List (Nat × Nat)) : List (Nat × Nat) := ws.foldl (fun acc w => acc.filter (fun x => x.1 != w.1) ++ [w]) []

/-- R225; where vd and vb name one register, its bytes are those that the elements in order leave. -/
def actVcvtq (f : VCvtq) : Act :=
  let c := slotCl f.slot
  let base := vAct f.slot [.v (clV c f.d), .v (clV c f.a), .v (clV c f.b)] true fun s =>
    let xs := qElems f s
    let (fm, e) := qSrc f
    let narrow := fun (x : Nat × Nat × Bool) =>
      if x.2.2 then (x.1, 0, (0 : Flags))
      else if f.t == .i8 then
        let r := toIntSat (vMode s x.1) (-128) 127 (exactVal (decodeF fm x.2.1))
        (x.1, wrapInt r.1 8, r.2)
      else (x.1, convF fm e4m3 (vMode s x.1) x.2.1)
    let bytes := xs.map narrow
    let side := sideLanes (qCount s) (xs.map fun x => (x.2.2, (convF fm bf16 .rne x.2.1).1))
    let q := clP c f.q
    let vecs :=
      if f.d == f.b then
        let ws := lastWrites ((bytes.zip side).flatMap fun x => (x.1.1, x.1.2.1) :: match x.2 with
          | some (l, v) => [(2 * l, v % 256), (2 * l + 1, v / 256 % 256)]
          | none => [])
        [{ vecPend (clV c f.d) 1 128 5 (vNo f.slot) (ws.map fun w => (w.1, w.2, 0)) with flags := orAll (bytes.map fun x => x.2.2) }]
      else
        [vecPend (clV c f.d) 1 (VW.bytes f.w / e) 5 (vNo f.slot) bytes,
         vecPend (clV c f.b) 2 128 5 (vNo f.slot) ((side.filterMap id).map fun p => (p.1, p.2, 0))]
    vecs ++ [pendP q (elemsMask 1 ((xs.filter fun x => x.2.2).map (·.1))) (elemsMask 1 (xs.map (·.1))) 5 (vNo f.slot) 0]
  { base with shadow := fun s => qAdvance f (base.shadow s), early := qAdvance f }

/-- R227: nibbles of bytes; a nibble whose neighbour is not written keeps the neighbour as it stood at issue (R113). -/
def actVpack4 (f : VUn) : Act :=
  let c := slotCl f.slot
  let e := VT.bytes f.t
  let n := VW.bytes f.w / e
  vAct f.slot [.v (clV c f.d), .v (clV c f.a)] (VT.fmt f.t).isSome fun s =>
    let is := activeElems (vLanes f.g c s) e n
    let conv := fun i =>
      let x := lane (readV s (clV c f.a)) i (8 * e)
      match VT.fmt f.t with
      | some fm => convF fm e2m1 (vMode s i) x
      | none => clampS 4 (sx (8 * e) x)
    let nib := fun i => if is.contains i then (conv i).1 else lane (readV s (clV c f.d)) i 4
    let bytes := (is.map fun i => i / 2).eraseDups
    [vecPend (clV c f.d) 1 (n / 2) 3 (vNo f.slot) (bytes.map fun b =>
      (b, nib (2 * b) + 16 * nib (2 * b + 1), orAll ((is.filter fun i => i / 2 == b).map fun i => (conv i).2)))]
def actVunpack4 (f : VUn) : Act :=
  let c := slotCl f.slot
  elemAct f.slot f.g f.d f.w f.t [.v (clV c f.a)] 3 false fun s i =>
    let x := lane (readV s (clV c f.a)) i 4
    match VT.fmt f.t with
    | some fm => ((convF e2m1 fm .rne x).1, 0)
    | none => iwrap (8 * VT.bytes f.t) (sx 4 x)

/-- R228. -/
def scaleF (x : FVal) (sc : Nat) : Exact :=
  if sc = 255 then .nan 0
  else match x with
    | .nan => .nan 0
    | .inf n => .inf n 0
    | .fin n m e => exactOf n m (e + (sc : Int) - 127)
def actVscale (f : VTer) : Act :=
  let c := slotCl f.slot
  let w := 8 * VT.bytes f.t
  elemAct f.slot f.g f.d f.w f.t [.v (clV c f.a), .v (clV c f.b)] 3 true fun s i =>
    match VT.fmt f.t with
    | some fm => deliver fm (vMode s i) (scaleF (decodeF fm (lane (readV s (clV c f.a)) i w)) (lane (readV s (clV c f.b)) (i / 32) 8))
    | none => (0, 0)

/-- R229. -/
def actVdot4 (f : VDot) : Act :=
  let c := slotCl f.slot
  vAct f.slot [.v (clV c f.d), .v (clV c f.a), .v (clV c f.b)] false fun s =>
    let is := activeElems (vLanes f.g c s) 4 (VW.bytes f.w / 4)
    let byte := fun (r : BitVec 5) i => sx 8 (lane (readV s (clV c r)) i 8)
    [vecPend (clV c f.d) 4 (VW.bytes f.w) 3 (vNo f.slot) (is.map fun i =>
      (i, iwrap 32 ((List.range 4).foldl (fun acc k => acc + byte f.a (4 * i + k) * byte f.b (4 * i + k))
        (lane (readV s (clV c f.d)) i 32 : Int))))]

/-- R230: a transposition of bits. -/
def planeAct (f : VUn) (src : Nat → Nat → Nat → Nat) : Act :=
  let c := slotCl f.slot
  let b := 8 * VT.bytes f.t
  let m := 8 * VW.bytes f.w / b
  vAct f.slot [.v (clV c f.d), .v (clV c f.a)] false fun s =>
    if (vLanes f.g c s).getLsbD 0 then
      let v := readV s (clV c f.a)
      let x := (List.range (b * m)).foldl (fun acc k => if v.getLsbD (src b m k) then acc ||| 2 ^ k else acc) 0
      [pendV (clV c f.d) (BitVec.ofNat 1024 x) (lowMask (VW.bytes f.w)) (VW.bytes f.w) 5 (vNo f.slot) 0]
    else []
/-- Bit p·M + i of the result is bit i·b + p of the source. -/
def actVplane (f : VUn) : Act := planeAct f fun b m k => k % m * b + k / m
def actVunplane (f : VUn) : Act := planeAct f fun b m k => k % b * m + k / b

/-! ## The F slot (R231, R153) -/

def fAct (f : FUn) (fn : FVal → Exact) : Act :=
  mkAct 5 [.v (clV f.cl f.d), .v (clV f.cl f.a)] noPriv fun s =>
    if s.core.fBusy = 0 then
      let e := VT.bytes f.t
      let is := activeElems (vLanes f.g f.cl s) e (VW.bytes f.w / e)
      let fm := (VT.fmt f.t).getD fp32
      .ok ⟨[vecPend (clV f.cl f.d) e (VW.bytes f.w) 8 5 (is.map fun i =>
          (i, deliver fm .rne (fn (decodeF fm (lane (readV s (clV f.cl f.a)) i (8 * e))))))],
        fun st => st.upCore fun c => { c with fBusy := Nat.max 1 (8 * VW.bytes f.w / 512) }, Ctl.none⟩
    else .stall .structural id

def actVexp2 (f : FUn) : Act := fAct f fnExp2
def actVexp (f : FUn) : Act := fAct f fnExp
def actVlog2 (f : FUn) : Act := fAct f fnLog2
def actVln (f : FUn) : Act := fAct f fnLn
def actVrcp (f : FUn) : Act := fAct f fnRcp
def actVrsq (f : FUn) : Act := fAct f fnRsq
def actVsqrt (f : FUn) : Act := fAct f fnSqrt
def actVtanh (f : FUn) : Act := fAct f fnTanh
def actVsigm (f : FUn) : Act := fAct f fnSigm
def actVsin (f : FUn) : Act := fAct f fnSin
def actVcos (f : FUn) : Act := fAct f fnCos
def actVerf (f : FUn) : Act := fAct f fnErf
def actVgelu (f : FUn) : Act := fAct f fnGelu

/-! ## Execution -/

/-- VADD (R213): the bundle of this syllable alone issues. -/
def execVadd (f : VBin) (s : State) : Host.Outcome State Fault Refusal :=
  .next (issueActs [(actVadd f).of (.vadd f)] s)
/-- VSUB (R213): the bundle of this syllable alone issues. -/
def execVsub (f : VBin) (s : State) : Host.Outcome State Fault Refusal :=
  .next (issueActs [(actVsub f).of (.vsub f)] s)
/-- VMUL (R213): the bundle of this syllable alone issues. -/
def execVmul (f : VBin) (s : State) : Host.Outcome State Fault Refusal :=
  .next (issueActs [(actVmul f).of (.vmul f)] s)
/-- VFMA (R213): the bundle of this syllable alone issues. -/
def execVfma (f : VBin) (s : State) : Host.Outcome State Fault Refusal :=
  .next (issueActs [(actVfma f).of (.vfma f)] s)
/-- VFMS (R213): the bundle of this syllable alone issues. -/
def execVfms (f : VBin) (s : State) : Host.Outcome State Fault Refusal :=
  .next (issueActs [(actVfms f).of (.vfms f)] s)
/-- VMIN (R213): the bundle of this syllable alone issues. -/
def execVmin (f : VBin) (s : State) : Host.Outcome State Fault Refusal :=
  .next (issueActs [(actVmin f).of (.vmin f)] s)
/-- VMAX (R213): the bundle of this syllable alone issues. -/
def execVmax (f : VBin) (s : State) : Host.Outcome State Fault Refusal :=
  .next (issueActs [(actVmax f).of (.vmax f)] s)
/-- VMINN (R213): the bundle of this syllable alone issues. -/
def execVminn (f : VBin) (s : State) : Host.Outcome State Fault Refusal :=
  .next (issueActs [(actVminn f).of (.vminn f)] s)
/-- VMAXN (R213): the bundle of this syllable alone issues. -/
def execVmaxn (f : VBin) (s : State) : Host.Outcome State Fault Refusal :=
  .next (issueActs [(actVmaxn f).of (.vmaxn f)] s)
/-- VABS (R213): the bundle of this syllable alone issues. -/
def execVabs (f : VUn) (s : State) : Host.Outcome State Fault Refusal :=
  .next (issueActs [(actVabs f).of (.vabs f)] s)
/-- VNEG (R213): the bundle of this syllable alone issues. -/
def execVneg (f : VUn) (s : State) : Host.Outcome State Fault Refusal :=
  .next (issueActs [(actVneg f).of (.vneg f)] s)
/-- VMULH (R213): the bundle of this syllable alone issues. -/
def execVmulh (f : VBin) (s : State) : Host.Outcome State Fault Refusal :=
  .next (issueActs [(actVmulh f).of (.vmulh f)] s)
/-- VMULHN (R213): the bundle of this syllable alone issues. -/
def execVmulhn (f : VBin) (s : State) : Host.Outcome State Fault Refusal :=
  .next (issueActs [(actVmulhn f).of (.vmulhn f)] s)
/-- VSADD (R213): the bundle of this syllable alone issues. -/
def execVsadd (f : VBin) (s : State) : Host.Outcome State Fault Refusal :=
  .next (issueActs [(actVsadd f).of (.vsadd f)] s)
/-- VSSUB (R213): the bundle of this syllable alone issues. -/
def execVssub (f : VBin) (s : State) : Host.Outcome State Fault Refusal :=
  .next (issueActs [(actVssub f).of (.vssub f)] s)
/-- VAND (R214): the bundle of this syllable alone issues. -/
def execVand (f : VBin) (s : State) : Host.Outcome State Fault Refusal :=
  .next (issueActs [(actVand f).of (.vand f)] s)
/-- VOR (R214): the bundle of this syllable alone issues. -/
def execVor (f : VBin) (s : State) : Host.Outcome State Fault Refusal :=
  .next (issueActs [(actVor f).of (.vor f)] s)
/-- VXOR (R214): the bundle of this syllable alone issues. -/
def execVxor (f : VBin) (s : State) : Host.Outcome State Fault Refusal :=
  .next (issueActs [(actVxor f).of (.vxor f)] s)
/-- VANDN (R214): the bundle of this syllable alone issues. -/
def execVandn (f : VBin) (s : State) : Host.Outcome State Fault Refusal :=
  .next (issueActs [(actVandn f).of (.vandn f)] s)
/-- VNOT (R214): the bundle of this syllable alone issues. -/
def execVnot (f : VUn) (s : State) : Host.Outcome State Fault Refusal :=
  .next (issueActs [(actVnot f).of (.vnot f)] s)
/-- VSHL (R214): the bundle of this syllable alone issues. -/
def execVshl (f : VBin) (s : State) : Host.Outcome State Fault Refusal :=
  .next (issueActs [(actVshl f).of (.vshl f)] s)
/-- VSHR (R214): the bundle of this syllable alone issues. -/
def execVshr (f : VBin) (s : State) : Host.Outcome State Fault Refusal :=
  .next (issueActs [(actVshr f).of (.vshr f)] s)
/-- VSRA (R214): the bundle of this syllable alone issues. -/
def execVsra (f : VBin) (s : State) : Host.Outcome State Fault Refusal :=
  .next (issueActs [(actVsra f).of (.vsra f)] s)
/-- VCLZ (R214): the bundle of this syllable alone issues. -/
def execVclz (f : VUn) (s : State) : Host.Outcome State Fault Refusal :=
  .next (issueActs [(actVclz f).of (.vclz f)] s)
/-- VPOPC (R214): the bundle of this syllable alone issues. -/
def execVpopc (f : VUn) (s : State) : Host.Outcome State Fault Refusal :=
  .next (issueActs [(actVpopc f).of (.vpopc f)] s)
/-- VCMPEQ (R215): the bundle of this syllable alone issues. -/
def execVcmpeq (f : VCmp) (s : State) : Host.Outcome State Fault Refusal :=
  .next (issueActs [(actVcmpeq f).of (.vcmpeq f)] s)
/-- VCMPNE (R215): the bundle of this syllable alone issues. -/
def execVcmpne (f : VCmp) (s : State) : Host.Outcome State Fault Refusal :=
  .next (issueActs [(actVcmpne f).of (.vcmpne f)] s)
/-- VCMPLT (R215): the bundle of this syllable alone issues. -/
def execVcmplt (f : VCmp) (s : State) : Host.Outcome State Fault Refusal :=
  .next (issueActs [(actVcmplt f).of (.vcmplt f)] s)
/-- VCMPLE (R215): the bundle of this syllable alone issues. -/
def execVcmple (f : VCmp) (s : State) : Host.Outcome State Fault Refusal :=
  .next (issueActs [(actVcmple f).of (.vcmple f)] s)
/-- VCMPLTN (R215): the bundle of this syllable alone issues. -/
def execVcmpltn (f : VCmp) (s : State) : Host.Outcome State Fault Refusal :=
  .next (issueActs [(actVcmpltn f).of (.vcmpltn f)] s)
/-- VCMPLEN (R215): the bundle of this syllable alone issues. -/
def execVcmplen (f : VCmp) (s : State) : Host.Outcome State Fault Refusal :=
  .next (issueActs [(actVcmplen f).of (.vcmplen f)] s)
/-- VCMPUN (R215): the bundle of this syllable alone issues. -/
def execVcmpun (f : VCmp) (s : State) : Host.Outcome State Fault Refusal :=
  .next (issueActs [(actVcmpun f).of (.vcmpun f)] s)
/-- VSEL (R216): the bundle of this syllable alone issues. -/
def execVsel (f : VTer) (s : State) : Host.Outcome State Fault Refusal :=
  .next (issueActs [(actVsel f).of (.vsel f)] s)
/-- VMOV (R216): the bundle of this syllable alone issues. -/
def execVmov (f : VMov) (s : State) : Host.Outcome State Fault Refusal :=
  .next (issueActs [(actVmov f).of (.vmov f)] s)
/-- VBCAST (R216): the bundle of this syllable alone issues. -/
def execVbcast (f : VBcast) (s : State) : Host.Outcome State Fault Refusal :=
  .next (issueActs [(actVbcast f).of (.vbcast f)] s)
/-- VXMOV (R216): the bundle of this syllable alone issues. -/
def execVxmov (f : VUn) (s : State) : Host.Outcome State Fault Refusal :=
  .next (issueActs [(actVxmov f).of (.vxmov f)] s)
/-- VPERM (R217): the bundle of this syllable alone issues. -/
def execVperm (f : VTer) (s : State) : Host.Outcome State Fault Refusal :=
  .next (issueActs [(actVperm f).of (.vperm f)] s)
/-- VPERM2 (R217): the bundle of this syllable alone issues. -/
def execVperm2 (f : VTer) (s : State) : Host.Outcome State Fault Refusal :=
  .next (issueActs [(actVperm2 f).of (.vperm2 f)] s)
/-- VSLIDEUP (R217): the bundle of this syllable alone issues. -/
def execVslideup (f : VSlide) (s : State) : Host.Outcome State Fault Refusal :=
  .next (issueActs [(actVslideup f).of (.vslideup f)] s)
/-- VSLIDEDN (R217): the bundle of this syllable alone issues. -/
def execVslidedn (f : VSlide) (s : State) : Host.Outcome State Fault Refusal :=
  .next (issueActs [(actVslidedn f).of (.vslidedn f)] s)
/-- VZIP (R217): the bundle of this syllable alone issues. -/
def execVzip (f : VZip) (s : State) : Host.Outcome State Fault Refusal :=
  .next (issueActs [(actVzip f).of (.vzip f)] s)
/-- VUNZIP (R217): the bundle of this syllable alone issues. -/
def execVunzip (f : VZip) (s : State) : Host.Outcome State Fault Refusal :=
  .next (issueActs [(actVunzip f).of (.vunzip f)] s)
/-- VIOTA (R216): the bundle of this syllable alone issues. -/
def execViota (f : VIota) (s : State) : Host.Outcome State Fault Refusal :=
  .next (issueActs [(actViota f).of (.viota f)] s)
/-- VCOMPRESS (R218): the bundle of this syllable alone issues. -/
def execVcompress (f : VUn) (s : State) : Host.Outcome State Fault Refusal :=
  .next (issueActs [(actVcompress f).of (.vcompress f)] s)
/-- VEXPAND (R218): the bundle of this syllable alone issues. -/
def execVexpand (f : VUn) (s : State) : Host.Outcome State Fault Refusal :=
  .next (issueActs [(actVexpand f).of (.vexpand f)] s)
/-- VEXTRACT (R219): the bundle of this syllable alone issues. -/
def execVextract (f : VExtract) (s : State) : Host.Outcome State Fault Refusal :=
  .next (issueActs [(actVextract f).of (.vextract f)] s)
/-- VREDADD (R220): the bundle of this syllable alone issues. -/
def execVredadd (f : VUn) (s : State) : Host.Outcome State Fault Refusal :=
  .next (issueActs [(actVredadd f).of (.vredadd f)] s)
/-- VREDMAX (R220): the bundle of this syllable alone issues. -/
def execVredmax (f : VUn) (s : State) : Host.Outcome State Fault Refusal :=
  .next (issueActs [(actVredmax f).of (.vredmax f)] s)
/-- VREDMIN (R220): the bundle of this syllable alone issues. -/
def execVredmin (f : VUn) (s : State) : Host.Outcome State Fault Refusal :=
  .next (issueActs [(actVredmin f).of (.vredmin f)] s)
/-- VSCAN (R221): the bundle of this syllable alone issues. -/
def execVscan (f : VUn) (s : State) : Host.Outcome State Fault Refusal :=
  .next (issueActs [(actVscan f).of (.vscan f)] s)
/-- VARGMAX (R222): the bundle of this syllable alone issues. -/
def execVargmax (f : VUn) (s : State) : Host.Outcome State Fault Refusal :=
  .next (issueActs [(actVargmax f).of (.vargmax f)] s)
/-- VARGMIN (R222): the bundle of this syllable alone issues. -/
def execVargmin (f : VUn) (s : State) : Host.Outcome State Fault Refusal :=
  .next (issueActs [(actVargmin f).of (.vargmin f)] s)
/-- VCVT (R223): the bundle of this syllable alone issues. -/
def execVcvt (f : VCvt) (s : State) : Host.Outcome State Fault Refusal :=
  .next (issueActs [(actVcvt f).of (.vcvt f)] s)
/-- VCVTQ (R225): the bundle of this syllable alone issues. -/
def execVcvtq (f : VCvtq) (s : State) : Host.Outcome State Fault Refusal :=
  .next (issueActs [(actVcvtq f).of (.vcvtq f)] s)
/-- VPACK4 (R227): the bundle of this syllable alone issues. -/
def execVpack4 (f : VUn) (s : State) : Host.Outcome State Fault Refusal :=
  .next (issueActs [(actVpack4 f).of (.vpack4 f)] s)
/-- VUNPACK4 (R227): the bundle of this syllable alone issues. -/
def execVunpack4 (f : VUn) (s : State) : Host.Outcome State Fault Refusal :=
  .next (issueActs [(actVunpack4 f).of (.vunpack4 f)] s)
/-- VSCALE (R228): the bundle of this syllable alone issues. -/
def execVscale (f : VTer) (s : State) : Host.Outcome State Fault Refusal :=
  .next (issueActs [(actVscale f).of (.vscale f)] s)
/-- VPLANE (R230): the bundle of this syllable alone issues. -/
def execVplane (f : VUn) (s : State) : Host.Outcome State Fault Refusal :=
  .next (issueActs [(actVplane f).of (.vplane f)] s)
/-- VUNPLANE (R230): the bundle of this syllable alone issues. -/
def execVunplane (f : VUn) (s : State) : Host.Outcome State Fault Refusal :=
  .next (issueActs [(actVunplane f).of (.vunplane f)] s)
/-- VDOT4 (R229): the bundle of this syllable alone issues. -/
def execVdot4 (f : VDot) (s : State) : Host.Outcome State Fault Refusal :=
  .next (issueActs [(actVdot4 f).of (.vdot4 f)] s)
/-- VEXP2 (R231): the bundle of this syllable alone issues. -/
def execVexp2 (f : FUn) (s : State) : Host.Outcome State Fault Refusal :=
  .next (issueActs [(actVexp2 f).of (.vexp2 f)] s)
/-- VEXP (R231): the bundle of this syllable alone issues. -/
def execVexp (f : FUn) (s : State) : Host.Outcome State Fault Refusal :=
  .next (issueActs [(actVexp f).of (.vexp f)] s)
/-- VLOG2 (R231): the bundle of this syllable alone issues. -/
def execVlog2 (f : FUn) (s : State) : Host.Outcome State Fault Refusal :=
  .next (issueActs [(actVlog2 f).of (.vlog2 f)] s)
/-- VLN (R231): the bundle of this syllable alone issues. -/
def execVln (f : FUn) (s : State) : Host.Outcome State Fault Refusal :=
  .next (issueActs [(actVln f).of (.vln f)] s)
/-- VRCP (R231): the bundle of this syllable alone issues. -/
def execVrcp (f : FUn) (s : State) : Host.Outcome State Fault Refusal :=
  .next (issueActs [(actVrcp f).of (.vrcp f)] s)
/-- VRSQ (R231): the bundle of this syllable alone issues. -/
def execVrsq (f : FUn) (s : State) : Host.Outcome State Fault Refusal :=
  .next (issueActs [(actVrsq f).of (.vrsq f)] s)
/-- VSQRT (R231): the bundle of this syllable alone issues. -/
def execVsqrt (f : FUn) (s : State) : Host.Outcome State Fault Refusal :=
  .next (issueActs [(actVsqrt f).of (.vsqrt f)] s)
/-- VTANH (R231): the bundle of this syllable alone issues. -/
def execVtanh (f : FUn) (s : State) : Host.Outcome State Fault Refusal :=
  .next (issueActs [(actVtanh f).of (.vtanh f)] s)
/-- VSIGM (R231): the bundle of this syllable alone issues. -/
def execVsigm (f : FUn) (s : State) : Host.Outcome State Fault Refusal :=
  .next (issueActs [(actVsigm f).of (.vsigm f)] s)
/-- VSIN (R231): the bundle of this syllable alone issues. -/
def execVsin (f : FUn) (s : State) : Host.Outcome State Fault Refusal :=
  .next (issueActs [(actVsin f).of (.vsin f)] s)
/-- VCOS (R231): the bundle of this syllable alone issues. -/
def execVcos (f : FUn) (s : State) : Host.Outcome State Fault Refusal :=
  .next (issueActs [(actVcos f).of (.vcos f)] s)
/-- VERF (R231): the bundle of this syllable alone issues. -/
def execVerf (f : FUn) (s : State) : Host.Outcome State Fault Refusal :=
  .next (issueActs [(actVerf f).of (.verf f)] s)
/-- VGELU (R231): the bundle of this syllable alone issues. -/
def execVgelu (f : FUn) (s : State) : Host.Outcome State Fault Refusal :=
  .next (issueActs [(actVgelu f).of (.vgelu f)] s)

end Sys2Proof.Machine
end

