-- ==== Sys2Proof/Machine/Matrix.lean ====
section
/-! DEFINITION. The X and K classes and the matrix unit (R125 to R129, R233 to R252). -/
namespace Sys2Proof.Machine

/-- PRESENT bits of the X and K slots (R142). -/
def xSlot : Nat := 8
def kSlot : Nat := 10

/-! ## Formats (R125, R239) -/

/-- The float format of a tile code. -/
def mxFmt : Nat → Option Fmt
  | 0 => some bf16
  | 1 => some fp16
  | 2 => some e4m3
  | 3 => some e5m2
  | 4 => some e2m1
  | _ => none
/-- Bits of an element. -/
def mxBits : Nat → Nat
  | 0 => 16
  | 1 => 16
  | 4 => 4
  | 6 => 4
  | _ => 8
/-- R125: planes(B). -/
def mxPlanes : Nat → Nat
  | 0 => 8
  | 1 => 11
  | 2 => 4
  | 3 => 3
  | 4 => 2
  | 5 => 8
  | _ => 4
/-- R125: k per cycle as A. -/
def mxKpc : Nat → Nat
  | 0 => 8
  | 1 => 8
  | 5 => 8
  | _ => 16
/-- R239: exponent sections. -/
def mxEb (f : Nat) : Nat := match mxFmt f with | some fm => fm.eb | none => 0
/-- R239: sections and bytes of a B image. -/
def imgSections (f : Nat) : Nat := 2 + mxEb f + mxPlanes f
def imgBytes (f : Nat) : Nat := 512 * imgSections f
/-- Bytes of n packed elements. -/
def packedBytes (f n : Nat) : Nat := n * mxBits f / 8

/-! ## Tile parameters (R235, R236) -/

def tConv (t : W64) : Bool := t.getLsbD 63
def tFmt (t : W64) : Nat := (t.extractLsb' 60 3).toNat
def tW32 (t : W64) : Bool := t.getLsbD 59
def tAcc (t : W64) : Bool := t.getLsbD 58
def tSrc (t : W64) : Nat := (t.extractLsb' 36 22).toNat
def tPitch (t : W64) : Nat := (t.extractLsb' 22 14).toNat
def tAddr (t : W64) : Nat := (t.extractLsb' 0 22).toNat
/-- PITCH, or the row length where it is 0. -/
def pitchOr (t : W64) (row : Nat) : Nat := if tPitch t = 0 then row else tPitch t

def cPls (t : W64) : BitVec 3 := t.extractLsb' 57 3
def cTs (t : W64) : Nat := (t.extractLsb' 53 4).toNat
def cTr (t : W64) : Nat := (t.extractLsb' 49 4).toNat
def cO0 (t : W64) : Nat := (t.extractLsb' 36 13).toNat
def cKs (u : W64) : Nat := (u.extractLsb' 60 4).toNat
def cKr (u : W64) : Nat := (u.extractLsb' 56 4).toNat
def cStr (u : W64) : Nat := (u.extractLsb' 54 2).toNat
def cDil (u : W64) : Nat := (u.extractLsb' 52 2).toNat
def cPad (u : W64) : Nat := (u.extractLsb' 48 4).toNat
def cOw (u : W64) : Nat := (u.extractLsb' 38 10).toNat
def cOh (u : W64) : Nat := (u.extractLsb' 28 10).toNat
def cIw (u : W64) : Nat := (u.extractLsb' 18 10).toNat
def cIh (u : W64) : Nat := (u.extractLsb' 8 10).toNat
def cNb (u : W64) : Nat := (u.extractLsb' 0 8).toNat

/-- Where an A row comes from (R238, R242): a scratchpad address, the padding value, or nowhere. -/
inductive ARow where
  | at (a : Nat)
  | pad
  | dead
deriving DecidableEq, Repr

/-- R242: row i of a convolution descriptor. -/
def convRow (t u : W64) (i : Nat) : ARow :=
  let o := cO0 t + i
  let area := cOh u * cOw u
  if cNb u * area ≤ o then .dead
  else
    let n := o / area
    let y := o % area / cOw u
    let x := o % cOw u
    let iy : Int := y * (cStr u + 1) + cTr t * (cDil u + 1) - cPad u
    let ix : Int := x * (cStr u + 1) + cTs t * (cDil u + 1) - cPad u
    if iy < 0 ∨ ix < 0 ∨ (cIh u : Int) ≤ iy ∨ (cIw u : Int) ≤ ix then .pad
    else .at (tAddr t + ((n * cIh u + iy.toNat) * cIw u + ix.toNat) * tPitch t)

/-- R238, R242: row i of an A operand. -/
def aRow (conv : Bool) (t u : W64) (i : Nat) : ARow :=
  if conv then convRow t u i else .at (tAddr t + i * pitchOr t (packedBytes (tFmt t) 32))

/-! ## Bit-plane images (R239) -/

/-- The bit of section sec for an element given by its packed bits. -/
def sectionBit (f x sec : Nat) : Bool :=
  match mxFmt f with
  | some fm =>
    let e := x >>> fm.fb % 2 ^ fm.eb
    if sec = 0 then x.testBit (fm.eb + fm.fb)
    else if sec = 1 then (decodeF fm x).isNan
    else if sec < 2 + fm.eb then e.testBit (fm.eb - 1 - (sec - 2))
    else if sec = 2 + fm.eb then e != 0
    else x.testBit (fm.fb - 1 - (sec - 3 - fm.eb))
  | none =>
    let z := sextInt x (mxBits f)
    if sec = 0 then decide (z < 0)
    else if sec = 1 then false
    else z.natAbs.testBit (mxPlanes f - 1 - (sec - 2))

/-- R239, R249, R84: the image of a 32 × 128 tile given by its elements. -/
def planeImage (f : Nat) (elem : Nat → Nat → Nat) : List Byte :=
  ((List.range (imgSections f)).map fun sec => ((List.range 32).map fun k => (List.range 16).map fun b =>
    BitVec.ofNat 8 ((List.range 8).foldl (fun acc i =>
      if sectionBit f (elem k (8 * b + i)) sec then acc + 2 ^ i else acc) 0)).flatten).flatten

/-- A value of the array: an integer is a fin with exponent 0. -/
abbrev MVal := FVal

/-- R126, R239: element (k, j) of an image, given as a number with byte 0 lowest, under a budget of p planes. -/
def imageElem (f p img k j : Nat) : MVal :=
  let bitAt := fun sec => img.testBit (8 * (512 * sec + 16 * k) + j)
  let num := fun lo n => (List.range n).foldl (fun acc i => 2 * acc + (if bitAt (lo + i) then 1 else 0)) 0
  let planes := mxPlanes f
  let cut := fun (m : Nat) => m * 2 ^ (planes - p)
  match mxFmt f with
  | some fm =>
    let e := num 2 fm.eb
    if bitAt 1 then .nan
    else if fm.inf && e == 2 ^ fm.eb - 1 then .inf (bitAt 0)
    else .fin (bitAt 0) (cut (num (2 + fm.eb) p)) ((Nat.max e 1 : Int) - fm.bias - fm.fb)
  | none => .fin (bitAt 0) (cut (num 2 p)) 0

/-- R126: the planes of a budget. -/
def budgetPlanes (f : Nat) (b : BitVec 4) : Nat := if b = 0 then mxPlanes f else min b.toNat (mxPlanes f)

/-- Element k of packed bytes given as a number. -/
def packedElem (f row k : Nat) : Nat := row >>> (k * mxBits f) % 2 ^ mxBits f

/-- A packed element as a value of the array. -/
def packedVal (f x : Nat) : MVal :=
  match mxFmt f with
  | some fm => decodeF fm x
  | none => let z := sextInt x (mxBits f); .fin (decide (z < 0)) z.natAbs 0

/-! ## Products (R128, R129) -/

/-- A product of the array: a value, or ∞ × 0. -/
inductive Prod where
  | val (v : MVal)
  | bad
deriving DecidableEq, Repr

def mulM : MVal → MVal → Prod
  | .nan, _ => .val .nan
  | _, .nan => .val .nan
  | .inf a, .inf b => .val (.inf (a != b))
  | .inf a, .fin b m _ => if m = 0 then .bad else .val (.inf (a != b))
  | .fin a m _, .inf b => if m = 0 then .bad else .val (.inf (a != b))
  | .fin a m e, .fin b n k => .val (.fin (a != b) (m * n) (e + k))

/-- The exponent of a nonzero product. -/
def topExp (m : Nat) (e : Int) : Int := e + Nat.log2 m

/-- R128: the sum of a group of finite products: its value, and whether a truncation discarded a nonzero bit. -/
def groupSum (ps : List (Bool × Nat × Int)) : MVal × Bool :=
  let nz := ps.filter fun p => p.2.1 != 0
  match nz with
  | [] => (.fin (ps.all fun p => p.1) 0 0, false)
  | p :: rest =>
    let top := rest.foldl (fun acc q => let x := topExp q.2.1 q.2.2; if acc < x then x else acc) (topExp p.2.1 p.2.2)
    let unit := top - 40
    let parts := nz.map fun q =>
      if unit ≤ q.2.2 then ((q.1, q.2.1 <<< (q.2.2 - unit).toNat), false)
      else let k := (unit - q.2.2).toNat; ((q.1, q.2.1 >>> k), q.2.1 % 2 ^ k != 0)
    let z := parts.foldl (fun acc x => if x.1.1 then acc - (x.1.2 : Int) else acc + (x.1.2 : Int)) (0 : Int)
    (.fin (decide (z < 0)) z.natAbs unit, parts.any (·.2))

/-- R128: one k-group of a float product added to an accumulator pattern. -/
def groupFloat (acc : Nat) (ps : List Prod) (scaleNan : Bool) : Nat × Flags :=
  let vals := ps.filterMap fun p => match p with | .val v => some v | .bad => none
  let bad := ps.contains .bad
  if scaleNan || bad || vals.any FVal.isNan then (fp32.qnan, if bad then fNV else 0)
  else
    let pos := vals.contains (.inf false)
    let neg := vals.contains (.inf true)
    if pos && neg then (fp32.qnan, fNV)
    else if pos || neg then deliver fp32 .rne (addF .rne (decodeF fp32 acc) (.inf neg))
    else
      let r := groupSum (vals.filterMap fun v => match v with | .fin n m e => some (n, m, e) | _ => none)
      let x := deliver fp32 .rne (addF .rne (decodeF fp32 acc) r.1)
      (x.1, x.2 ||| (if r.2 then fNX else 0))

/-- R129: one k-group of an integer product. -/
def groupInt (acc : Nat) (ps : List Prod) : Nat × Flags :=
  let s := ps.foldl (fun t p => match p with
    | .val (.fin n m _) => if n then t - (m : Int) else t + (m : Int)
    | _ => t) (0 : Int)
  let z := sextInt acc 32 + s
  (wrapInt z 32, if z < -(2 ^ 31) ∨ (2 ^ 31 - 1 : Int) < z then fIOV else 0)

/-- The k-groups of a list of products, in ascending order, with fuel. -/
def groups (g : Nat) : Nat → List Prod → List (List Prod)
  | 0, _ => []
  | n + 1, ps => if ps.isEmpty then [] else ps.take g :: groups g n (ps.drop g)

/-- R128, R129: one accumulator element. -/
def mmaElem (int : Bool) (g : Nat) (sa sb : Nat) (scaleNan : Bool) (acc : Nat) (arow bcol : List MVal) : Nat × Flags :=
  let ps := List.zipWith mulM arow bcol
  let sh : Int := (sa : Int) + sb - 254
  let ps' := if int then ps else ps.map fun p => match p with
    | .val (.fin n m e) => .val (.fin n m (e + sh))
    | q => q
  (groups g 32 ps').foldl (fun st grp =>
    let r := if int then groupInt st.1 grp else groupFloat st.1 grp scaleNan
    (r.1, st.2 ||| r.2)) (acc, 0)

/-! ## The work of the unit at completion (R241 to R249) -/

/-- The scratchpad as an X instruction sees it (R245): without the stores of its own bundle. -/
def mxSpad (s : State) (e : MxEntry) : Memory :=
  if e.old.isEmpty then s.core.spad else s.core.spad.writeCells e.old

def mxLook (e : MxEntry) (a : Nat) : Option Nat :=
  if 2 ^ 22 ≤ a then none else if e.phys then some a else spadMap e.spw a

/-- n bytes as a number. -/
def mxRead (m : Memory) (e : MxEntry) (a n : Nat) : Nat :=
  ofBytes ((List.range n).map fun i => match mxLook e (a + i) with | some p => m.read p | none => 0)

/-- Bytes written to the scratchpad by an X instruction, which every later entry of the queue sees (R245). -/
def mxWrite (e : MxEntry) (a : Nat) (bs : List Byte) (s : State) : State :=
  let cells := (List.zip (List.range bs.length) bs).filterMap fun x => (mxLook e (a + x.1)).map fun p => (p, x.2)
  (s.setSpad (s.core.spad.writeCells cells)).upCore fun c =>
    { c with mxQueue := c.mxQueue.map fun q => { q with old := q.old.filter fun x => !cells.any fun y => y.1 == x.1 } }

def bankOf (s : State) (acc : Bool) : Vector (BitVec 4096) 128 := if acc then s.core.regs.acc1 else s.core.regs.acc0
def setBank (acc : Bool) (v : Vector (BitVec 4096) 128) (s : State) : State :=
  s.upRegs fun g => if acc then { g with acc1 := v } else { g with acc0 := v }
/-- R345: MXLIVE. -/
def setLive (acc on : Bool) (s : State) : State :=
  s.upSys fun y =>
    let b : BitVec 2 := if acc then 2 else 1
    { y with mxlive := if on then y.mxlive ||| b else y.mxlive &&& ~~~b }

/-- An accumulator row from its 32-bit elements. -/
def packRow (xs : List Nat) : BitVec 4096 := BitVec.ofNat 4096 (xs.foldr (fun x acc => acc <<< 32 ||| x % 2 ^ 32) 0)
def rowElem (r : BitVec 4096) (j : Nat) : Nat := r.toNat >>> (32 * j) % 2 ^ 32

/-- R241, R242: the 32 elements of an A row, or none for a dead row. -/
def aVals (m : Memory) (e : MxEntry) (conv : Bool) (t u fill : W64) (i : Nat) : Option (List MVal) :=
  let f := tFmt t
  match aRow conv t u i with
  | .dead => none
  | .pad => some (List.replicate 32 (packedVal f (fill.toNat % 2 ^ mxBits f)))
  | .at a => let row := mxRead m e a (packedBytes f 32); some ((List.range 32).map fun k => packedVal f (packedElem f row k))

/-- The result of a product: the bank and its flags. -/
def mulBank (s : State) (e : MxEntry) (scaled conv int zero acc : Bool) (budget : BitVec 4) (t u tb fill : W64) :
    Vector (BitVec 4096) 128 × Flags :=
  let m := mxSpad s e
  let fb := tFmt tb
  let p := budgetPlanes fb budget
  let img := mxRead m e (tAddr tb) (imgBytes fb)
  let cols := (List.range 128).map fun j => (List.range 32).map fun k => imageElem fb p img k j
  let g := mxKpc (tFmt t)
  let scale := fun (v : W1024) i => if scaled then lane v i 8 else 127
  (List.range 128).foldl (fun st i =>
    match aVals m e conv t u fill i with
    | none => st
    | some row =>
      let old := st.1.getD i 0
      let rs := (List.zip (List.range 128) cols).map fun jc =>
        let sa := scale e.ka i
        let sb := scale e.kb jc.1
        mmaElem int g sa sb (scaled && (sa == 255 || sb == 255)) (if zero then 0 else rowElem old jc.1) row jc.2
      (st.1.setIfInBounds i (packRow (rs.map (·.1))), st.2 ||| orAll (rs.map (·.2)))) (bankOf s acc, 0)

/-- R248: one element of an MSTORE. -/
def storeElem (t : W64) (x : Nat) : Nat × Flags :=
  if tW32 t then (x, 0)
  else match mxFmt (tFmt t) with
    | some fm => convF fp32 fm .rne x
    | none => clampS (mxBits (tFmt t)) (sextInt x 32)

def storeBits (t : W64) : Nat := if tW32 t then 32 else mxBits (tFmt t)
def storeRow (t : W64) : Nat := 128 * storeBits t / 8

/-- R248: the rows of an MSTORE. -/
def mstoreRun (e : MxEntry) (t : W64) (s : State) : State × Flags :=
  (List.range 128).foldl (fun st i =>
    let row := (bankOf s (tAcc t)).getD i 0
    let xs := (List.range 128).map fun j => storeElem t (rowElem row j)
    let num := (xs.map (·.1)).foldr (fun x acc => acc <<< storeBits t ||| x) 0
    (mxWrite e (tAddr t + i * pitchOr t (storeRow t)) (toBytes (storeRow t) num) st.1, st.2 ||| orAll (xs.map (·.2)))) (s, 0)

/-- R249: the source tile of an MPLANE. -/
def mplaneRun (e : MxEntry) (t : W64) (s : State) : State :=
  let m := mxSpad s e
  let f := tFmt t
  let rows := (List.range 32).map fun k => mxRead m e (tSrc t + k * pitchOr t (packedBytes f 128)) (packedBytes f 128)
  mxWrite e (tAddr t) (planeImage f fun k j => packedElem f (rows.getD k 0) j) s

/-- R93, R120, R245: an X instruction completes; what is left of an ended task keeps its scratchpad writes only. -/
def mxFinish (e : MxEntry) (s : State) : State :=
  match e.op with
  | .mul scaled conv int zero acc budget t u tb fill =>
    if e.live then
      let r := mulBank s e scaled conv int zero acc budget t u tb fill
      orFlags (setLive acc true (setBank acc r.1 s)) r.2
    else s
  | .zero acc => if e.live then setLive acc false (setBank acc (Vector.replicate 128 0) s) else s
  | .store t => let r := mstoreRun e t s; if e.live then orFlags r.1 r.2 else r.1
  | .plane t => mplaneRun e t s

/-- R127, R244, R245: the cycles an X instruction occupies the unit for, where every read is granted at once. -/
def mxCycles : MxOp → Nat
  | .mul _ _ _ _ _ budget t _ tb _ => (32 + mxKpc (tFmt t) - 1) / mxKpc (tFmt t) * budgetPlanes (tFmt tb) budget
  | .zero _ => 1
  | .store t => max 4 (128 * storeRow t / 2048)
  | .plane _ => 16

/-! ## Issue (R237, R240, R245) -/

/-- R245: the bank an instruction is pending on. -/
def mxBank : MxOp → Option Bool
  | .mul _ _ _ _ acc _ _ _ _ _ => some acc
  | .zero acc => some acc
  | .store t => some (tAcc t)
  | .plane _ => none

def mxAll (s : State) : List MxEntry := s.core.mxRun.toList ++ s.core.mxQueue
def bankPending (s : State) (acc : Bool) : Bool := (mxAll s).any fun e => mxBank e.op == some acc
def queueFull (s : State) : Bool := decide (2 ≤ s.core.mxQueue.length)

/-- R237, R245: an instruction enters the queue with the operands captured at issue; s is the state at issue. -/
def mxPush (s : State) (syl : W32) (op : MxOp) (st : State) : State :=
  st.upCore fun c => { c with mxQueue := c.mxQueue ++ [⟨op, syl, s.core.regs.ka, s.core.regs.kb, s.core.sys.spw, s.core.mon,
    memDiff (s.core.spad.length + st.core.spad.length) s.core.spad st.core.spad, true⟩] }

/-- The first byte of a span that no region holds. -/
def spanFault (s : State) (a n : Nat) : Option W64 := spanBad (spadAddr s) a n

/-- An X syllable that enters the queue: its checks, its stalls. -/
def xQueueAct (g : Guard) (illegal : State → Bool) (spans : State → List (Nat × Nat)) (wait : State → Bool)
    (go : State → State → State) : Act :=
  mkAct xSlot [] noPriv fun s =>
    if !guardOn g s then .skip
    else if illegal s then .raise .illegalOp 0
    else match lowestBad (fun _ => true) ((spans s).filterMap fun p => spanFault s p.1 p.2) with
      | some a => .raise .scratchBounds a
      | none => if wait s || queueFull s then .stall .structural id else .now (go s)

/-- The tile registers of a product. -/
def mulTa (f : XMul) (s : State) : W64 := readT s f.ta
def mulTu (f : XMul) (s : State) : W64 := readT s (f.ta + 1)
def mulTb (f : XMul) (s : State) : W64 := readT s f.tb

/-- R125, R240: what makes a product illegal. -/
def mulIllegal (f : XMul) (scaled : Bool) (s : State) : Bool :=
  let t := mulTa f s
  let u := mulTu f s
  let b := mulTb f s
  let fa := tFmt t
  let fb := tFmt b
  let ia := (mxFmt fa).isNone
  let ib := (mxFmt fb).isNone
  let row := packedBytes fa 32
  fa == 7 || fb == 7 || ia != ib || f.int != ia || (scaled && ia)
    || tConv t != f.conv || (f.conv && f.ta.getLsbD 0) || tConv b || tAddr b % 64 != 0
    || (!f.conv && tPitch t != 0 && decide (tPitch t < row))
    || (f.conv && (cOw u == 0 || cOh u == 0 || cIw u == 0 || cIh u == 0 || cNb u == 0
        || decide (cKs u < cTs t) || decide (cKr u < cTr t)))

/-- R240: the spans a product reads. -/
def mulSpans (f : XMul) (s : State) : List (Nat × Nat) :=
  let t := mulTa f s
  let row := packedBytes (tFmt t) 32
  let a := if f.conv then (List.range 128).filterMap fun i => match convRow t (mulTu f s) i with
      | .at x => some (x, row)
      | _ => none
    else [(tAddr t, 127 * pitchOr t row + row)]
  a ++ [(tAddr (mulTb f s), imgBytes (tFmt (mulTb f s)))]

/-- R243: the next tap. -/
def tapNext (t u : W64) : W64 :=
  let ts := cTs t + 1
  if ts ≤ cKs u then setField t 53 4 ts
  else
    let tr := cTr t + 1
    setField (setField t 53 4 0) 49 4 (if tr ≤ cKr u then tr else 0)

/-- The words of the X syllables that may stand in a saved matrix queue (R351). -/
def xWord (i : Instr) : W32 := ((encode i).map (·.1)).getD 0
def mulWord (op : Nat) (f : XMul) : W32 :=
  match op with
  | 1 => xWord (.mma f)
  | 2 => xWord (.mmas f)
  | _ => xWord (.mconv f)

/-- R235 to R242: an MMA, MMAS or MCONV enters the queue with what it has captured. FILL of set PLS is among it: when it is read the
spec does not say (DESIGN CHOICE, log entry 113). -/
def mulAct (f : XMul) (op : Nat) (after : State → State → State) : Act :=
  xQueueAct f.g (mulIllegal f (op == 2)) (mulSpans f) (fun _ => false) fun s st =>
    after s (mxPush s (mulWord op f) (.mul (op == 2) f.conv f.int f.zero f.acc f.budget (mulTa f s) (mulTu f s) (mulTb f s)
      (readLs s (cPls (mulTa f s)) 8)) st)

def actMma (f : XMul) : Act := mulAct f 1 fun _ st => st
def actMmas (f : XMul) : Act := mulAct f 2 fun _ st => st
def actMconv (f : XMul) : Act := mulAct f 3 fun s st => writeT st f.ta (tapNext (mulTa f s) (mulTu f s))
def actMzero (f : XAcc) : Act :=
  xQueueAct f.g (fun _ => false) (fun _ => []) (fun _ => false) fun s st =>
    mxPush s (xWord (.mzero f)) (.zero f.acc) st

/-- R145, R247: the four registers of a row. -/
def rowReg (f : XRow) (q : Nat) : BitVec 6 := BitVec.ofNat 6 (4 * f.v.toNat + q)
def rowRefs (f : XRow) : List RegRef := (List.range 4).map fun q => .v (rowReg f q)

def actMread (f : XRow) : Act :=
  mkAct xSlot (rowRefs f) noPriv fun s =>
    if !guardOn f.g s then .skip
    else if bankPending s f.acc then .stall .structural id
    else
      let row := (bankOf s f.acc).getD f.row.toNat 0
      .later ((List.range 4).map fun q =>
        pendV (rowReg f q) (row.extractLsb' (1024 * q) 1024) (BitVec.allOnes 128) 128 6 xSlot 0)
def actMwrite (f : XRow) : Act :=
  mkAct xSlot (rowRefs f) noPriv fun s =>
    if !guardOn f.g s then .skip
    else if bankPending s f.acc then .stall .structural id
    else
      let row : BitVec 4096 := (readV s (rowReg f 3) ++ readV s (rowReg f 2) ++ readV s (rowReg f 1) ++ readV s (rowReg f 0)
        : BitVec (1024 + 1024 + 1024 + 1024))
      .now fun st => setLive f.acc true (setBank f.acc ((bankOf st f.acc).setIfInBounds f.row.toNat row) st)

/-- R248; a convolution descriptor is no operand of MSTORE (R236, log entry 11). -/
def actMstore (f : XTile) : Act :=
  xQueueAct f.g (fun s => let t := readT s f.t; tConv t || (!tW32 t && tFmt t == 7))
    (fun s => let t := readT s f.t; (List.range 128).map fun i => (tAddr t + i * pitchOr t (storeRow t), storeRow t))
    (fun s => bankPending s (tAcc (readT s f.t)))
    fun s st => mxPush s (xWord (.mstore f)) (.store (readT s f.t)) st
/-- R249. -/
def actMplane (f : XTile) : Act :=
  xQueueAct f.g
    (fun s =>
      let t := readT s f.t
      tConv t || tFmt t == 7 || tAddr t % 64 != 0 || (tPitch t != 0 && decide (tPitch t < packedBytes (tFmt t) 128)))
    (fun s =>
      let t := readT s f.t
      let row := packedBytes (tFmt t) 128
      [(tSrc t, 31 * pitchOr t row + row), (tAddr t, imgBytes (tFmt t))])
    (fun _ => false)
    fun s st => mxPush s (xWord (.mplane f)) (.plane (readT s f.t)) st
/-- R237. -/
def actMsett (f : XSett) : Act :=
  mkAct xSlot [.s f.s] noPriv fun s => if guardOn f.g s then .now fun st => writeT st f.t (readS s f.s) else .skip
/-- R250. -/
def actMfence (f : XNone) : Act :=
  mkAct xSlot [] noPriv fun s =>
    if guardOn f.g s && !(mxAll s).isEmpty then .stall .structural id else .skip

/-! ## Scale latches (R252) -/

/-- A write of a latch, which an MMAS sees four bundles later. -/
def latchPend (d : Dst) (x : W1024) : Pend := ⟨d, x, BitVec.allOnes 128, 3, kSlot, 0, 4⟩
/-- A byte in every byte of a latch. -/
def everyByte (b : Nat) : W1024 := packLanes 8 (List.replicate 128 b)

def kAct (g : Guard) (refs : List RegRef) (f : State → List Pend) : Act :=
  mkAct kSlot refs noPriv fun s => if guardOn g s then .later (f s) else .skip
def actKseta (f : KSrc) : Act := kAct f.g [.v f.v] fun s => [latchPend .ka (readV s f.v)]
def actKsetb (f : KSrc) : Act := kAct f.g [.v f.v] fun s => [latchPend .kb (readV s f.v)]
def actKfill (f : KFill) : Act :=
  kAct f.g [.s f.s] fun s => [latchPend (if f.kb then .kb else .ka) (everyByte ((readS s f.s).toNat % 256))]
def actKclr (f : KNone) : Act := kAct f.g [] fun _ => [latchPend .ka (everyByte 127), latchPend .kb (everyByte 127)]

/-! ## Execution -/

/-- MMA (R241): the bundle of this syllable alone issues. -/
def execMma (f : XMul) (s : State) : Host.Outcome State Fault Refusal :=
  .next (issueActs [(actMma f).of (.mma f)] s)
/-- MMAS (R241): the bundle of this syllable alone issues. -/
def execMmas (f : XMul) (s : State) : Host.Outcome State Fault Refusal :=
  .next (issueActs [(actMmas f).of (.mmas f)] s)
/-- MCONV (R243): the bundle of this syllable alone issues. -/
def execMconv (f : XMul) (s : State) : Host.Outcome State Fault Refusal :=
  .next (issueActs [(actMconv f).of (.mconv f)] s)
/-- MZERO (R246): the bundle of this syllable alone issues. -/
def execMzero (f : XAcc) (s : State) : Host.Outcome State Fault Refusal :=
  .next (issueActs [(actMzero f).of (.mzero f)] s)
/-- MREAD (R247): the bundle of this syllable alone issues. -/
def execMread (f : XRow) (s : State) : Host.Outcome State Fault Refusal :=
  .next (issueActs [(actMread f).of (.mread f)] s)
/-- MWRITE (R247): the bundle of this syllable alone issues. -/
def execMwrite (f : XRow) (s : State) : Host.Outcome State Fault Refusal :=
  .next (issueActs [(actMwrite f).of (.mwrite f)] s)
/-- MSTORE (R248): the bundle of this syllable alone issues. -/
def execMstore (f : XTile) (s : State) : Host.Outcome State Fault Refusal :=
  .next (issueActs [(actMstore f).of (.mstore f)] s)
/-- MPLANE (R249): the bundle of this syllable alone issues. -/
def execMplane (f : XTile) (s : State) : Host.Outcome State Fault Refusal :=
  .next (issueActs [(actMplane f).of (.mplane f)] s)
/-- MSETT (R237): the bundle of this syllable alone issues. -/
def execMsett (f : XSett) (s : State) : Host.Outcome State Fault Refusal :=
  .next (issueActs [(actMsett f).of (.msett f)] s)
/-- MFENCE (R250): the bundle of this syllable alone issues. -/
def execMfence (f : XNone) (s : State) : Host.Outcome State Fault Refusal :=
  .next (issueActs [(actMfence f).of (.mfence f)] s)
/-- KSETA (R252): the bundle of this syllable alone issues. -/
def execKseta (f : KSrc) (s : State) : Host.Outcome State Fault Refusal :=
  .next (issueActs [(actKseta f).of (.kseta f)] s)
/-- KSETB (R252): the bundle of this syllable alone issues. -/
def execKsetb (f : KSrc) (s : State) : Host.Outcome State Fault Refusal :=
  .next (issueActs [(actKsetb f).of (.ksetb f)] s)
/-- KFILL (R252): the bundle of this syllable alone issues. -/
def execKfill (f : KFill) (s : State) : Host.Outcome State Fault Refusal :=
  .next (issueActs [(actKfill f).of (.kfill f)] s)
/-- KCLR (R252): the bundle of this syllable alone issues. -/
def execKclr (f : KNone) (s : State) : Host.Outcome State Fault Refusal :=
  .next (issueActs [(actKclr f).of (.kclr f)] s)

end Sys2Proof.Machine
end

