-- ==== Sys2Proof/Machine/SysRegs.lean ====
section
/-! DEFINITION. The system registers (R140, R141, R259 and the layouts they refer to), MFS and MTS, the queues of stopped
channels (R347, R348), and PROBE (R260). -/
namespace Sys2Proof.Machine

/-! ## Stopped channels (R347, R348) -/

/-- R347: CHSTOP. -/
def chstopWord (s : State) : W64 :=
  (List.range 4).foldl (fun acc c =>
    match (s.core.channels.toList.getD c ⟨[], none, 0, []⟩).stop with
    | none => acc
    | some sub => acc ||| BitVec.ofNat 64 ((2 ^ 15 + sub.toNat * 256) <<< (16 * c))) 0

/-- R348: word e0 of a command. -/
def cmdE0 (c : Cmd) : W64 :=
  (c.op ++ 1#1 ++ BitVec.ofBool c.started ++ BitVec.ofBool c.bank ++ c.set ++ c.ord ++ c.sc ++ 0#15 ++ c.ext
    : BitVec (7 + 1 + 1 + 1 + 3 + 2 + 2 + 15 + 32))

/-- R348: the words of a command; e1 of a CPYCH is its record in progress. -/
def cmdWord (c : Cmd) (k : Nat) : W64 :=
  match k with
  | 0 => cmdE0 c
  | 1 => c.e1
  | _ => if c.op == 0x06 then 0 else c.e2

/-- R348: the next word of a stopped channel's queue. -/
def chqPeek (ch : Channel) : W64 :=
  if ch.stop.isNone then 0
  else match ch.queue with
    | [] => 0
    | c :: _ => cmdWord c ch.popped

/-- R348: the queue after one word has been removed. -/
def chqPopped (ch : Channel) : Channel :=
  if ch.stop.isNone then ch
  else match ch.queue with
    | [] => ch
    | _ :: cs => if ch.popped = 2 then { ch with queue := cs, popped := 0 } else { ch with popped := ch.popped + 1 }

/-- R173, R187: the size of the running task's gang; 1 where it is in none. -/
def taskGangSize (s : State) : BitVec 16 := match s.core.task with | some t => if t.gang then t.gsize else 1 | none => 1

/-- R348: the command of three words, its layout taken from the capture bank that e0 names. Its order flags order it after what the core
has issued (R88). -/
def cmdOfWords (s : State) (e0 e1 e2 : W64) : Cmd :=
  let set : BitVec 3 := e0.extractLsb' 51 3
  let bank := e0.getLsbD 54
  { op := e0.extractLsb' 57 7, set := set, ord := e0.extractLsb' 49 2, sc := e0.extractLsb' 47 2
    ext := e0.extractLsb' 0 32, e1 := e1, e2 := e2
    layout := if bank then s.core.bank1.get set.toFin else s.core.bank0.get set.toFin
    win := s.core.sys.win, spw := s.core.sys.spw, bank := bank, bad := false, started := e0.getLsbD 55
    checked := false, blocks := [], landed := [], probes := [], pages := [], record := none, recGo := false, seq := s.core.accSeq
    phys := false, live := true, own := [], held := [], sent := [], asked := false, rank := s.core.task.elim 0 (·.rank)
    gang := s.core.task.bind fun t => if t.gang then some t.domain else none
    tile := s.core.task.elim 0 (·.record.w3), block := s.core.task.elim 0 (·.record.w6), gsize := taskGangSize s, leave := 0, refused := none }

/-- R348: an MTS of one word to a channel's queue. -/
def chqPush (s : State) (ch : Channel) (x : W64) : Channel :=
  match ch.partialWords with
  | [] => if x.getLsbD 56 then { ch with partialWords := [x] } else { ch with stop := none, popped := 0 }
  | [e0] => { ch with partialWords := [e0, x] }
  | e0 :: e1 :: _ => { ch with queue := ch.queue ++ [cmdOfWords s e0 e1 x], partialWords := [] }

def channelOf (s : State) (k : BitVec 2) : Channel := s.core.channels.get k.toFin
def setChannel (s : State) (k : BitVec 2) (ch : Channel) : State :=
  s.upCore fun c => { c with channels := c.channels.set k.toFin ch }

/-! ## Reading (R140) -/

/-- R2: the package core id of this core. -/
def packageCore (s : State) : Nat := (s.core.agent.toNat % 2) * 136 + s.core.cid.toNat

def gangHeld (s : State) : Bool :=
  match s.core.task with
  | none => false
  | some t => t.gang && (match gangOf s t.domain with | some g => g.w0.getLsbD 28 | none => false)

/-- R340: TSTATE as it reads, with HELD. -/
def tstateWord (s : State) : W64 := setField s.core.sys.tstate 6 1 (if gangHeld s then 1 else 0)

/-- R71: SPW as it reads; PBASE reads as zero at task level. -/
def spwRead (s : State) (i : Nat) : W64 :=
  let w := s.core.sys.spw.getD i 0
  if s.core.mon then w else setField w 16 6 0

/-- R301: SLICE. -/
def sliceWord (s : State) : W64 :=
  BitVec.ofNat 64 (s.core.sys.sliceSel.toNat * 2 ^ 56 + (s.core.sys.quant.get s.core.sys.sliceSel.toFin).toNat)

/-- R141: PCQ0.NEXT reads as 0. -/
def pcqRead (q : W64) (k : Nat) : W64 := if k = 0 then q &&& ~~~1 else q

/-- R140: the value of a listed register; PRIV has been checked. -/
def sysRead (s : State) (x : Nat) : W64 :=
  let y := s.core.sys
  if x = 0x000 then y.cause else if x = 0x001 then y.fmask else if x = 0x002 then y.faddr
  else if x = 0x003 then pcqRead s.core.pcq.q0 0 else if x = 0x004 then s.core.pcq.q1 else if x = 0x005 then s.core.pcq.q2
  else if x = 0x006 then s.core.pcq.annul.setWidth 64 else if x = 0x007 then tstateWord s else if x = 0x008 then y.mentry
  else if x = 0x010 then y.vrm else if x = 0x011 then y.fpsr else if x = 0x012 then y.thr else if x = 0x013 then y.qcnt
  else if x = 0x014 then y.lpw else if x = 0x015 then y.lpe else if x = 0x018 then y.hintdrop
  else if x = 0x019 then y.collide
  else if 0x020 ≤ x ∧ x < 0x038 then y.win.getD (x - 0x020) 0
  else if 0x040 ≤ x ∧ x < 0x044 then spwRead s (x - 0x040)
  else if x = 0x048 then y.dommem else if x = 0x049 then y.taskid
  else if x = 0x04A then BitVec.ofNat 64 (s.core.agent.toNat * 2 ^ 16 + packageCore s)
  else if x = 0x04B then 0x90B00
  else if x = 0x050 then sliceWord s else if x = 0x051 then y.age else if x = 0x052 then y.preemptDelta
  else if x = 0x053 then y.waitpark else if x = 0x054 then y.bartimeout
  else if x = 0x060 then chstopWord s
  else if 0x061 ≤ x ∧ x < 0x065 then chqPeek (channelOf s (BitVec.ofNat 2 (x - 0x061)))
  else if x = 0x068 then BitVec.ofNat 64 (pieceSum s.core.snap)
  else if x = 0x069 then y.mxlive.setWidth 64
  else 0

/-- R348: an MFS of CHQc removes the word it returns. -/
def sysReadEffect (x : Nat) (s : State) : State :=
  if 0x061 ≤ x ∧ x < 0x065 then
    let k := BitVec.ofNat 2 (x - 0x061)
    setChannel s k (chqPopped (channelOf s k))
  else s

/-! ## Privilege (R140) -/

/-- R140: indices a task may not touch at all. -/
def monOnly (x : Nat) : Bool := x ≤ 0x008 || (0x050 ≤ x && x ≤ 0x054) || (0x060 ≤ x && x ≤ 0x064) || x == 0x068 || x == 0x069

/-- R140: indices that are read-only for a task. -/
def taskRO (x : Nat) : Bool :=
  (0x020 ≤ x && x < 0x038) || (0x040 ≤ x && x < 0x044) || x == 0x048 || x == 0x049 || x == 0x04A || x == 0x04B

def mfsPriv (x : Nat) (s : State) : Bool := !s.core.mon && monOnly x
def mtsPriv (x : Nat) (s : State) : Bool := !s.core.mon && (monOnly x || taskRO x)

/-! ## Writing (R6, R259) -/

/-- R345: SNAPN keeps the leading results that fit the count written; 0 discards them all. -/
def keepPieces : Nat → List Pend → List Pend
  | _, [] => []
  | n, r :: rs => if r.pcs ≤ n then r :: keepPieces (n - r.pcs) rs else []

/-- R141: a PCQ entry as it is stored. -/
def pcqStore (x : W64) (k : Nat) : W64 := if k ≠ 0 ∧ x.getLsbD 0 then 1 else x &&& ~~~3

/-- R340: the stored bits of TSTATE; PEND 3 is reserved and stores 0, PDUE stores at most 2. -/
def tstateWrite (x : W64) : W64 :=
  let pend := (x.extractLsb' 18 2).toNat
  let due := (x.extractLsb' 16 2).toNat
  setField (setField (x &&& 0xFFFFFFFF0000FF30) 18 2 (if pend = 3 then 0 else pend)) 16 2 (min due 2)

/-- R29, R71, R304: the stored bits of the window words, SPW and DOMMEM. -/
def winMask (w : Nat) : W64 :=
  match w % 3 with
  | 0 => 0x000FFFFFFFFF0000
  | 1 => 0x000FFFFFFFFF001F
  | _ => 0x00FFFFFFFFFF0000
def spwMask : W64 := 0x800000003F3F007F
def dommemMask : W64 := 0xFFFFFFFFFFFF0707

/-- An MTS at its bundle's commit (R259), but for LPW and LPE, which land as results. -/
def sysWrite (x : Nat) (v : W64) (s : State) : State :=
  if x = 0x000 then s.upSys fun y => { y with cause := v &&& 0x0000FFFF000001FF }
  else if x = 0x001 then s.upSys fun y => { y with fmask := v &&& 0xFFF }
  else if x = 0x002 then s.upSys fun y => { y with faddr := v }
  else if x = 0x003 then s.upCore fun c => { c with pcq := { c.pcq with q0 := pcqStore v 0, f0 := none } }
  else if x = 0x004 then s.upCore fun c => { c with pcq := { c.pcq with q1 := pcqStore v 1, f1 := none } }
  else if x = 0x005 then s.upCore fun c => { c with pcq := { c.pcq with q2 := pcqStore v 2, f2 := none } }
  else if x = 0x006 then s.upCore fun c => { c with pcq := { c.pcq with annul := v.setWidth 3 } }
  else if x = 0x007 then s.upSys fun y => { y with tstate := tstateWrite v }
  else if x = 0x010 then s.upSys fun y => { y with vrm := vrmWrite y.vrm v }
  else if x = 0x011 then s.upSys fun y => { y with fpsr := fpsrWrite v }
  else if x = 0x012 then s.upSys fun y => { y with thr := v &&& 0xFFFFFFFF }
  else if x = 0x013 then s.upSys fun y =>
    { y with qcnt := setField (v &&& 0x100) 0 7 (min 64 (v.extractLsb' 0 7).toNat) }
  else if x = 0x018 then s.upSys fun y => { y with hintdrop := v &&& 0xFFFFFFFF }
  else if x = 0x019 then s.upSys fun y => { y with collide := collideWrite y.collide v }
  else if 0x020 ≤ x ∧ x < 0x038 then
    s.upSys fun y => { y with win := y.win.setIfInBounds (x - 0x020) (v &&& winMask (x - 0x020)) }
  else if 0x040 ≤ x ∧ x < 0x044 then s.upSys fun y => { y with spw := y.spw.setIfInBounds (x - 0x040) (v &&& spwMask) }
  else if x = 0x048 then s.upSys fun y => { y with dommem := v &&& dommemMask }
  else if x = 0x049 then s.upSys fun y => { y with taskid := v }
  else if x = 0x050 then s.upSys fun y =>
    { y with sliceSel := v.extractLsb' 56 7, quant := y.quant.set (v.extractLsb' 56 7).toFin (v.extractLsb' 0 32) }
  else if x = 0x051 then s.upSys fun y => { y with age := v &&& 0x7FFFFFFFFF }
  else if x = 0x052 then s.upSys fun y => { y with preemptDelta := v &&& 0x7F }
  else if x = 0x053 then s.upSys fun y => { y with waitpark := v &&& 0xFFFFFFFF }
  else if x = 0x054 then s.upSys fun y => { y with bartimeout := v &&& 0xFFFFFFFFFF }
  else if 0x061 ≤ x ∧ x < 0x065 then
    let k := BitVec.ofNat 2 (x - 0x061)
    setChannel s k (chqPush s (channelOf s k) v)
  else if x = 0x068 then s.upCore fun c => { c with snap := keepPieces (v.extractLsb' 0 7).toNat c.snap }
  else if x = 0x069 then s.upSys fun y => { y with mxlive := v.setWidth 2 }
  else s

/-- R139: the stored bits of LPW and LPE. -/
def loopMask : W64 := 0xFFFFFFFF00000FFF

/-- R259. A later slot of the bundle sees the queue of a stopped channel without the word that an MFS removes (R348). -/
def actMfs (f : SMfs) : Act :=
  { mkAct (sNo f.slot) [.s f.d] (mfsPriv f.x.toNat) (fun s =>
      if guardOn f.g s then .ok ⟨[pendS f.d (sysRead s f.x.toNat) 1 (sNo f.slot) 0], sysReadEffect f.x.toNat, Ctl.none⟩ else .skip) with
    shadow := fun s => if guardOn f.g s then sysReadEffect f.x.toNat s else s }

/-- R259: an MTS to LPW or LPE resolves with a loop branch by R155, so it lands as a result of its slot. -/
def actMts (f : SMts) : Act :=
  mkAct (sNo f.slot) [.s f.s] (mtsPriv f.x.toNat) fun s =>
    if guardOn f.g s then
      let v := readS s f.s
      if f.x = 0x014 then .later [⟨.lpw, (v &&& loopMask).setWidth 1024, lowMask 8, 0, sNo f.slot, 0, 1⟩]
      else if f.x = 0x015 then .later [⟨.lpe, (v &&& loopMask).setWidth 1024, lowMask 8, 0, sNo f.slot, 0, 1⟩]
      else .now (sysWrite f.x.toNat v)
    else .skip

/-! ## PROBE (R260) -/

/-- R260: the need of a probe kind. -/
def probeNeed (k : BitVec 2) : Need :=
  match k.toNat with
  | 0 => .rd
  | 1 => .w
  | 2 => .a
  | _ => .x

/-- R260: the result word. -/
def probeWord (ok : Bool) (fault : Nat) (win : Nat) (ia : BitVec 56) : W64 :=
  BitVec.ofNat 64 ((if ok then 2 ^ 63 else 0) + fault * 2 ^ 60 + win * 2 ^ 56 + ia.toNat)

/-- R260: the result word of an answer. -/
def probeResult (need : Need) (win : Nat) (ia : BitVec 56) (r : ProbeReply) : W64 :=
  match replyLook need r with
  | .ok => probeWord true 0 win ia
  | .protect => probeWord false 3 win ia
  | _ => probeWord false 2 win ia

/-- R260: the window of an address, whatever it grants, with its IA: the windows of R30 at either privilege level. -/
def probeWindow (s : State) (va : W64) : Option (Nat × BitVec 56) :=
  (winFind s.core.sys.win (vaGranule va)).map fun n =>
    (n, BitVec.ofNat 56 ((va.extractLsb' 0 52).toNat + winOff s.core.sys.win n))

/-- R32, R38: a probe of a page whose home is another agent leaves the die; one to an agent that is not configured is
unmapped. -/
def sendProbe (ia : BitVec 56) (s : State) : State :=
  if isLocal s ia then s else s.send (.probe (iaAgent ia) ia)

def actProbe (f : SProbe) : Act :=
  mkAct (sNo f.slot) [.s f.d, .s f.a] noPriv fun s =>
    if guardOn f.g s then
      let va := readS s f.a
      let need := probeNeed f.k
      if !canonical va then .now (pushResult s f.d (sNo f.slot) (probeWord false 1 0 0))
      else
        match probeWindow s va with
        | none => .now (pushResult s f.d (sNo f.slot) (probeWord false 1 0 0))
        | some (n, ia) =>
          if !(winWord s.core.sys.win n 1).getLsbD need.winBit then
            .now (pushResult s f.d (sNo f.slot) (probeWord false 1 n ia))
          else
            let hit := match filterFind s ia with
              | some e => permits need e.rd e.wr e.ex
              | none => false
            if hit then .now (pushResult s f.d (sNo f.slot) (probeWord true 0 n ia))
            else if !configured s (iaAgent ia) then .now (pushResult s f.d (sNo f.slot) (probeWord false 2 n ia))
            else .now fun st =>
              sendProbe ia (pushAwait { scalarAwait s f.d (sNo f.slot) with probe := some (ia, f.k, BitVec.ofNat 3 n) } st)
    else .skip

/-! ## Execution -/

/-- MFS (R259): the bundle of this syllable alone issues. -/
def execMfs (f : SMfs) (s : State) : Host.Outcome State Fault Refusal :=
  .next (issueActs [(actMfs f).of (.mfs f)] s)
/-- MTS (R259): the bundle of this syllable alone issues. -/
def execMts (f : SMts) (s : State) : Host.Outcome State Fault Refusal :=
  .next (issueActs [(actMts f).of (.mts f)] s)
/-- PROBE (R260): the bundle of this syllable alone issues. -/
def execProbe (f : SProbe) (s : State) : Host.Outcome State Fault Refusal :=
  .next (issueActs [(actProbe f).of (.probe f)] s)

end Sys2Proof.Machine
end

