-- ==== Sys2Proof/Machine/Control.lean ====
section
/-! DEFINITION. The B class (R156, R157, R261 to R274). -/
namespace Sys2Proof.Machine

/-- The B slot's PRESENT bit (R142). -/
def bSlot : Nat := 11

/-! ## Transfers (R262) -/

/-- R261: the target of a direct transfer: header address + sext(offset, 19) × 4. -/
def directTarget (s : State) (off : BitVec 19) : W64 := pc s + (sext64 off.toNat 19 <<< 2)

/-- R156: the address that follows a bundle in sequence, by the COUNT of its header word as fetched; where the fetch of that word
raises a fault, by the word that stands there; where none can be read, by a length that depends on the address alone (log entry
7), until the header word can be fetched. -/
def nextOf (s : State) (q : W64) (pre : Option (List W32)) : W64 :=
  let a := follow s q pre
  if !isNext a then a
  else match addrCheck s s.core.sys.win q (q + 3) .x with
    | some ia =>
      if lineBad s (lineOf ia) || (isLocal s ia && !s.core.mon && (homeEntry s (iaOffset ia)).isNone) then q + Config.lengthAt q
      else q + lengthOf [BitVec.ofNat 32 (s.die.mem.readNum ia.toNat 4)]
    | none => q + Config.lengthAt q
/-- R156: the value BL and JRL write to lr: A(n+2) + length(bundle at A(n+2)). -/
def linkValue (s : State) : W64 :=
  let q := stream s
  let a1 := if isNext q.q1 then nextOf s q.q0 q.f0 else q.q1
  let a2 := if isNext q.q2 then nextOf s a1 q.f1 else q.q2
  nextOf s a2 q.f2

/-- R151, R262: lr := the link value, at latency 1. -/
def linkPend (s : State) : Pend := pendS 62 (linkValue s) 1 bSlot 0

/-- R156: a link value that is not formed yet waits for the header word. -/
def noteLink (s st : State) : State :=
  if isNext (sequential (formed s)) then st.upCore fun c => { c with linkDue := some ⟨c.mon, 1, linkValue s⟩ } else st

/-- R156: a link value whose header word can be fetched now is formed: lr holds it, unless something else has been written there. -/
def formLink (s : State) : State :=
  match s.core.linkDue with
  | none => s
  | some d =>
    let q := stream s
    let v := if d.left = 0 then follow s q.q0 q.f0 else follow s q.q1 q.f1
    if d.mon != s.core.mon || isNext v then s
    else
      let s1 := s.upCore fun c => { c with
        linkDue := none
        pipe := c.pipe.map fun r => if r.dst == .s 62 && r.val == d.val.setWidth 1024 then { r with val := v.setWidth 1024 } else r }
      if readS s1 62 = d.val then writeS s1 62 v else s1

def ctlAct (refs : List RegRef) (f : State → List Pend × Ctl) : Act :=
  mkAct bSlot refs noPriv fun s => .ok ⟨(f s).1, id, (f s).2⟩

/-- A transfer that writes the link value to lr where its guard is on. -/
def linkAct (refs : List RegRef) (g : Guard) (target : State → W64) : Act :=
  mkAct bSlot refs noPriv fun s =>
    if guardOn g s then .ok ⟨[linkPend s], noteLink s, ⟨some (target s), false⟩⟩ else .ok ⟨[], id, Ctl.none⟩

def actBr (f : BOff) : Act :=
  ctlAct [] fun s => if guardOn f.g s then ([], ⟨some (directTarget s f.off), false⟩) else ([], Ctl.none)
/-- R157: BRA annuls the next two bundles when it is not taken. -/
def actBra (f : BOff) : Act :=
  ctlAct [] fun s => if guardOn f.g s then ([], ⟨some (directTarget s f.off), false⟩) else ([], ⟨none, true⟩)
/-- R157: BRF annuls the next two bundles when it is taken. -/
def actBrf (f : BOff) : Act :=
  ctlAct [] fun s => if guardOn f.g s then ([], ⟨some (directTarget s f.off), true⟩) else ([], Ctl.none)
def actBl (f : BOff) : Act :=
  linkAct [.s 62] f.g fun s => directTarget s f.off
def actJr (f : BReg) : Act :=
  ctlAct [.s f.r] fun s => if guardOn f.g s then ([], ⟨some (readS s f.r), false⟩) else ([], Ctl.none)
def actJrl (f : BReg) : Act :=
  linkAct [.s f.r, .s 62] f.g fun s => readS s f.r
def actRet (f : BNone) : Act :=
  ctlAct [.s 62] fun s => if guardOn f.g s then ([], ⟨some (readS s 62), false⟩) else ([], Ctl.none)

/-! ## Loop branches (R139, R263) -/

/-- R139: the depth as a loop branch reads it. -/
def loopDepth (w : W64) : Nat := let d := (w.extractLsb' 8 4).toNat; if d = 0 then 1 else min d 8
def loopStart (w : W64) : Nat := (w.extractLsb' 32 32).toNat
def loopLive (w : W64) : Nat := (w.extractLsb' 0 8).toNat

/-- R263: the register after a loop branch. -/
def loopNext (w : W64) : W64 :=
  let m := 2 ^ loopDepth w - 1
  let more := if loopStart w = 0 then 0 else 1
  setField (setField w 0 8 ((2 * loopLive w + more) &&& m)) 32 32 (loopStart w - 1)

/-- R263: a later trip has a stage to work. -/
def loopTaken (w : W64) : Bool :=
  let n := loopNext w
  ((2 * loopLive n + (if loopStart n = 0 then 0 else 1)) &&& (2 ^ loopDepth w - 1)) != 0

/-- R263: the register and the eight window predicates from base. -/
def loopPends (dst : Dst) (base : Nat) (w : W64) : List Pend :=
  let n := loopNext w
  ⟨dst, n.setWidth 1024, lowMask 8, 0, bSlot, 0, 1⟩ ::
    (List.range 8).map fun k =>
      pendP (BitVec.ofNat 5 (base + k)) (allP ((loopLive n).testBit k)) (BitVec.allOnes 128) 1 bSlot 0

def actBloopw (f : BLoop) : Act :=
  ctlAct [] fun s =>
    let w := s.core.sys.lpw
    (loopPends .lpw 8 w, if loopTaken w then ⟨some (directTarget s f.off), false⟩ else Ctl.none)
def actBloope (f : BLoop) : Act :=
  ctlAct [] fun s =>
    let w := s.core.sys.lpe
    (loopPends .lpe 24 w, if loopTaken w then ⟨some (directTarget s f.off), false⟩ else Ctl.none)

/-! ## Barriers (R264, R265) -/

def barOf (s : State) (l : BitVec 3) : BarLevel := s.core.bars.get l.toFin
def setBar (l : BitVec 3) (b : BarLevel) (s : State) : State :=
  s.upCore fun c => { c with bars := c.bars.set l.toFin b }

/-- R187, R264: a subdomain entered at a level. -/
def subAt (t : TaskInfo) (l : BitVec 3) : Option SubDom :=
  match l.toNat with
  | 5 => t.sub5
  | 6 => t.sub6
  | 7 => t.sub7
  | _ => none

/-- R264, R265: a level this task may not name. -/
def barIllegal (s : State) (l : BitVec 3) : Bool :=
  match s.core.task with
  | none => decide (5 ≤ l.toNat)
  | some t =>
    if 5 ≤ l.toNat then (subAt t l).isNone
    else t.gang && decide (1 ≤ l.toNat) && decide (l.toNat < t.glevel.toNat)

/-- The phase of a level over: the next one, not arrived (R264); the block translation cache is cleared (R108). -/
def barAdvance (l : BitVec 3) (s : State) : State :=
  let b := barOf s l
  (setBar l ⟨b.phase + 1, false, false, 0, false⟩ s).upCore fun c => { c with btc := [] }

/-- The arrival is asked for; BARRIER_ARRIVAL records it once earlier accesses are performed (R264). -/
def barAsk (l : BitVec 3) (s : State) : State :=
  let b := barOf s l
  if b.arrived || b.asked then s
  else setBar l { b with asked := true, seq := s.core.accSeq } (s.upCore fun c => { c with accSeq := c.accSeq + 1 })

/-- R265: BAR and BARW arrive if they have not, and wait for the phase to complete. -/
def barWaitAct (f : BLev) : Act :=
  mkAct bSlot [] noPriv fun s =>
    if guardOn f.g s then
      if barIllegal s f.l then .raise .illegalOp 0
      else
        let b := barOf s f.l
        if b.arrived && b.complete then .now (barAdvance f.l) else .stall .bar fun st => (barAsk f.l st).upCore fun c => { c with waitArg := f.l.setWidth 64 }
    else .skip
def actBar (f : BLev) : Act := barWaitAct f
def actBarw (f : BLev) : Act := barWaitAct f
/-- R265: BARA arrives and does not wait; in a phase it has arrived in it does nothing. -/
def actBara (f : BLev) : Act :=
  mkAct bSlot [] noPriv fun s =>
    if guardOn f.g s then
      if barIllegal s f.l then .raise .illegalOp 0
      else .now fun st =>
        let b := barOf st f.l
        if b.arrived && b.complete then barAsk f.l (barAdvance f.l st) else barAsk f.l st
    else .skip

/-! ## Ends, traps, events (R267 to R274) -/

/-- R267: an end begins, unless one is pending; two delay bundles follow. -/
def beginEnd (k : EndKind) (code : Nat) (s : State) : State :=
  if s.core.mon then
    (if s.core.mEnd == .none then s.upCore fun c => { c with mEnd := k, mDue := 2 } else s)
  else if pendEnd s = 0 then setPend s code 2 else s

/-- R267: no end is pending at the running level. -/
def noEndPending (s : State) : Bool := match s.core.mon with
  | true => s.core.mEnd == .none
  | false => pendEnd s == 0

/-- An end begins at its bundle's commit where none was pending when the bundle issued. -/
def endAct (g : Guard) (refs : List RegRef) (priv : State → Bool) (f : State → State → State) : Act :=
  mkAct bSlot refs priv fun s => if guardOn g s then .now (f s) else .skip

/-- R268: YIELD keeps s(sa)[7:0] in TSTATE.YARG. -/
def actYield (f : BReg) : Act :=
  endAct f.g [.s f.r] noPriv fun s st =>
    if noEndPending s then
      (beginEnd .yield 1 st).upSys fun y => { y with tstate := setField y.tstate 8 8 (readS s f.r).toNat }
    else st
def actEndt (f : BNone) : Act :=
  endAct f.g [] noPriv fun s st =>
    if noEndPending s then beginEnd .endt 2 st else st
/-- R270: HALT and ERET are monitor-only (R261). -/
def monitorOnly (s : State) : Bool := !s.core.mon
def actHalt (f : BNone) : Act :=
  endAct f.g [] monitorOnly fun s st => if s.core.mEnd == .none then beginEnd .halt 0 st else st
def actEret (f : BNone) : Act :=
  endAct f.g [] monitorOnly fun s st => if s.core.mEnd == .none then beginEnd .eret 0 st else st

/-- R271. -/
def actTrap (f : BCode) : Act := mkAct bSlot [] noPriv fun s => if guardOn f.g s then .raise .trap 0 else .skip
def actBkpt (f : BCode) : Act := mkAct bSlot [] noPriv fun s => if guardOn f.g s then .raise .breakpoint 0 else .skip

/-- R273: WFE ends on the event latch or after 65,536 cycles, and clears the latch. -/
def actWfe (f : BNone) : Act :=
  mkAct bSlot [] noPriv fun s =>
    if guardOn f.g s then
      if s.core.latch || decide (65536 ≤ s.core.wfeCycles) then .now fun st => st.upCore fun c => { c with latch := false }
      else .stall .wfe id
    else .skip

/-- R292: the priority of a record. -/
def recPrio (r : Rec) : Nat := (r.w4.extractLsb' 0 7).toNat
def setPrio (r : Rec) (p : Nat) : Rec := { r with w4 := setField r.w4 0 7 p }

/-- R274: the priority becomes p where p is lower. -/
def lowerPrio (p : Nat) (t : TaskInfo) : TaskInfo :=
  if p < recPrio t.record then { t with record := setPrio t.record p } else t

/-- R274: PRIO lowers the task's priority. -/
def actPrio (f : BReg) : Act :=
  mkAct bSlot [.s f.r] noPriv fun s =>
    if guardOn f.g s then
      let p := (readS s f.r).toNat % 128
      .now fun st => st.upCore fun c => { c with task := c.task.map (lowerPrio p) }
    else .skip

/-! ## Execution -/

/-- BR (R262): the bundle of this syllable alone issues. -/
def execBr (f : BOff) (s : State) : Host.Outcome State Fault Refusal :=
  .next (issueActs [(actBr f).of (.br f)] s)
/-- BRA (R262): the bundle of this syllable alone issues. -/
def execBra (f : BOff) (s : State) : Host.Outcome State Fault Refusal :=
  .next (issueActs [(actBra f).of (.bra f)] s)
/-- BRF (R262): the bundle of this syllable alone issues. -/
def execBrf (f : BOff) (s : State) : Host.Outcome State Fault Refusal :=
  .next (issueActs [(actBrf f).of (.brf f)] s)
/-- BL (R262): the bundle of this syllable alone issues. -/
def execBl (f : BOff) (s : State) : Host.Outcome State Fault Refusal :=
  .next (issueActs [(actBl f).of (.bl f)] s)
/-- JR (R262): the bundle of this syllable alone issues. -/
def execJr (f : BReg) (s : State) : Host.Outcome State Fault Refusal :=
  .next (issueActs [(actJr f).of (.jr f)] s)
/-- JRL (R262): the bundle of this syllable alone issues. -/
def execJrl (f : BReg) (s : State) : Host.Outcome State Fault Refusal :=
  .next (issueActs [(actJrl f).of (.jrl f)] s)
/-- RET (R262): the bundle of this syllable alone issues. -/
def execRet (f : BNone) (s : State) : Host.Outcome State Fault Refusal :=
  .next (issueActs [(actRet f).of (.ret f)] s)
/-- BLOOPW (R263): the bundle of this syllable alone issues. -/
def execBloopw (f : BLoop) (s : State) : Host.Outcome State Fault Refusal :=
  .next (issueActs [(actBloopw f).of (.bloopw f)] s)
/-- BLOOPE (R263): the bundle of this syllable alone issues. -/
def execBloope (f : BLoop) (s : State) : Host.Outcome State Fault Refusal :=
  .next (issueActs [(actBloope f).of (.bloope f)] s)
/-- BAR (R265): the bundle of this syllable alone issues. -/
def execBar (f : BLev) (s : State) : Host.Outcome State Fault Refusal :=
  .next (issueActs [(actBar f).of (.bar f)] s)
/-- BARA (R265): the bundle of this syllable alone issues. -/
def execBara (f : BLev) (s : State) : Host.Outcome State Fault Refusal :=
  .next (issueActs [(actBara f).of (.bara f)] s)
/-- BARW (R265): the bundle of this syllable alone issues. -/
def execBarw (f : BLev) (s : State) : Host.Outcome State Fault Refusal :=
  .next (issueActs [(actBarw f).of (.barw f)] s)
/-- YIELD (R268): the bundle of this syllable alone issues. -/
def execYield (f : BReg) (s : State) : Host.Outcome State Fault Refusal :=
  .next (issueActs [(actYield f).of (.yield f)] s)
/-- ENDT (R269): the bundle of this syllable alone issues. -/
def execEndt (f : BNone) (s : State) : Host.Outcome State Fault Refusal :=
  .next (issueActs [(actEndt f).of (.endt f)] s)
/-- HALT (R270): the bundle of this syllable alone issues. -/
def execHalt (f : BNone) (s : State) : Host.Outcome State Fault Refusal :=
  .next (issueActs [(actHalt f).of (.halt f)] s)
/-- TRAP (R271): the bundle of this syllable alone issues. -/
def execTrap (f : BCode) (s : State) : Host.Outcome State Fault Refusal :=
  .next (issueActs [(actTrap f).of (.trap f)] s)
/-- BKPT (R271): the bundle of this syllable alone issues. -/
def execBkpt (f : BCode) (s : State) : Host.Outcome State Fault Refusal :=
  .next (issueActs [(actBkpt f).of (.bkpt f)] s)
/-- ERET (R272): the bundle of this syllable alone issues. -/
def execEret (f : BNone) (s : State) : Host.Outcome State Fault Refusal :=
  .next (issueActs [(actEret f).of (.eret f)] s)
/-- WFE (R273): the bundle of this syllable alone issues. -/
def execWfe (f : BNone) (s : State) : Host.Outcome State Fault Refusal :=
  .next (issueActs [(actWfe f).of (.wfe f)] s)
/-- PRIO (R274): the bundle of this syllable alone issues. -/
def execPrio (f : BReg) (s : State) : Host.Outcome State Fault Refusal :=
  .next (issueActs [(actPrio f).of (.prio f)] s)

end Sys2Proof.Machine
end

