-- ==== Sys2Proof/Machine/Coherence.lean ====
section
/-! DEFINITION. The memory controller's lines and the coherence protocol (R14 to R17, R20 to R24, R44 to R61, R406): home
slices, local slices, and the messages between them. -/
namespace Sys2Proof.Machine

/-! ## Bytes of lines -/

/-- The 64 bytes of a line. -/
def lineData (s : State) (l : BitVec 50) : LineData := BitVec.ofNat 512 (s.die.mem.readNum (lineIa l).toNat 64)
/-- A line's 64 bytes replaced. -/
def putLine (l : BitVec 50) (d : LineData) (s : State) : State :=
  s.setMem (s.die.mem.writeBytes (lineIa l).toNat (toBytes 64 d.toNat))
/-- The bytes of d where the mask is set, of old elsewhere (R56). -/
def mergeLine (old d : LineData) (mask : BitVec 64) : LineData :=
  BitVec.ofNat 512 (ofBytes ((List.range 64).map fun i =>
    if mask.getLsbD i then d.extractLsb' (8 * i) 8 else old.extractLsb' (8 * i) 8))

/-! ## The home L2's record of a line -/

/-- The record of a line, made from its tag where the home holds none. -/
def homeRec (s : State) (l : BitVec 50) : HomeLine := (homeFind s l).getD ⟨l, homeTag s l, false, false, none⟩
/-- The record of a line changed, or entered in a way of its set. -/
def upHome (l : BitVec 50) (f : HomeLine → HomeLine) (s : State) : State :=
  let r := f (homeRec s l)
  l2Enter l (upCoh (fun c => { c with home := r :: c.home.filter fun h => !(h.line == l) }) s)
/-- R48: a tag change marks the line dirty; EXCL and OWNED make its data stale. -/
def setTag (l : BitVec 50) (st who : Nat) (s : State) : State :=
  upHome l (fun h => { h with tag := mkTag who st, dirty := true, stale := decide (st = 4 ∨ st = 5) }) s

/-- R44, R45: the state and holder a home reads, and whether it counts an integrity event. -/
def readTag (t : BitVec 16) : Nat × Nat × Bool :=
  let st := tagState t
  let who := (tagWho t).toNat
  let high := t.extractLsb' 13 3 != 0
  if st = 6 ∨ st = 7 then (3, 0, true)
  else if st = 0 ∨ st = 3 then (st, 0, high || who != 0)
  else if st = 2 then (2, who % 32, high || decide (32 ≤ who))
  else (st, who, high)
/-- R45: a home reads the tag of a line: an odd one is an integrity event. -/
def countOdd (l : BitVec 50) (s : State) : State := if (readTag (homeTag s l)).2.2 then countInt s else s

/-- R46, R273: the copies of a line in the L1 and instruction cache are recalled; a line lost sets the event latch. The L2's record
of its holders goes. -/
def recallL1 (l : BitVec 50) (s : State) : State :=
  let c : BitVec 49 := l.extractLsb' 1 49
  let s1 := s.upCore fun k =>
    { k with l1 := k.l1.filter fun x => !(x.1 == l), icache := without c k.icache
             latch := k.latch || k.l1.any fun x => x.1 == l }
  upCoh (fun k => { k with verified := without c k.verified, holders := k.holders.filter fun x => !(x.1 == l) }) s1
/-- R46: the die holds a line no longer exclusively: an L1 copy stays in S, and a modified one returns its data. -/
def shareL1 (l : BitVec 50) (s : State) : State :=
  s.upCore fun k => { k with l1 := k.l1.map fun x => if x.1 == l then (l, .shared) else x }

/-! ## The memory controller (R15 to R17, R20 to R24) -/

/-- A line put into DRAM, with its line number. -/
def setDram (l : BitVec 50) (pa : Nat) (tier2 : Bool) (d : DramLine) (s : State) : State :=
  dramPut pa tier2 (some { d with line := l }) s

/-- R20: a line is answered with an Error. -/
def addBad (l : BitVec 50) (err : BitVec 4) (eng : Bool) (s : State) : State :=
  upCoh (fun c => { c with badLines := ⟨l, err, eng⟩ :: c.badLines.filter fun b => !(b.line == l) }) s
def clearBad (l : BitVec 50) (s : State) : State := upCoh (fun c => { c with badLines := c.badLines.filter fun b => !(b.line == l) }) s

/-- R15, R16, R20: the controller reads a line for the home slice. flips are the bits that have changed in the array since it
was written: ciphertext, tag, check symbols. A line that has never been written there holds the bytes of the loader with tag 0
(R280). An uncorrectable line is not installed; the Error is kept for those who asked. An odd tag is counted here for the die's own
accesses, and by its transaction for another agent (R45). -/
def mcRead (l : BitVec 50) (flips : LineData × BitVec 16 × BitVec 48) (who : BitVec 10) (cls : ReadClass) (s : State) : State :=
  match physOf s (lineIa l) with
  | none => s
  | some (pa0, tier2, key) =>
    let pa := pa0 / 64 * 64
    let install := fun (tag : BitVec 16) (st : State) =>
      let st1 := upHome l (fun h => { h with tag := tag, dirty := false }) st
      if cls == .agent then st1 else countOdd l st1
    match dramFind s l, decide (flips = (0, 0, 0)) with
    | none, true => install 0 s
    | stored, _ =>
      let d0 := stored.getD (codeLineOf tier2 (cipherLine s false key l (lineData s l)) 0)
      let d : DramLine := ⟨l, d0.cipher ^^^ flips.1, d0.tag ^^^ flips.2.1, d0.check ^^^ flips.2.2⟩
      match readCode tier2 d with
      | none => addBad l 1 (cls == .engine) (uncorrectable l pa tier2 who cls (setDram l pa tier2 d s))
      | some (d', fixed) =>
        let s1 := setDram l pa tier2 d' s
        let s2 := if fixed then countRow pa tier2 s1 else s1
        install d'.tag (putLine l (cipherLine s true key l d'.cipher) s2)

/-- R42: n more for a page in the table of 4,096; a new page replaces an entry with the lowest count, of several the one that the
table lists first (DESIGN CHOICE, log entry 86). -/
def hotAdd (p : BitVec 30) (n : Nat) (t : List (BitVec 30 × Nat)) : List (BitVec 30 × Nat) :=
  match t.find? fun e => e.1 == p with
  | some (_, k) => (p, k + n) :: t.filter fun e => !(e.1 == p)
  | none =>
    if t.length < 4096 then (p, n) :: t
    else
      let low := (t.map (·.2)).foldl min (t.headD (0, 0)).2
      match t.find? fun e => e.2 == low with
      | some e => (p, n) :: t.erase e
      | none => t

/-- R42: a second-tier access that reaches the controller: one in 2^SAMPLE is counted for its page. -/
def hotSample (l : BitVec 50) (s : State) : State :=
  let off := iaOffset (lineIa l)
  match homeEntry s off with
  | none => s
  | some e =>
    if !s.die.xlate.hpEn || !inTier2 s (lineIa l) then s
    else s.upDie fun d => { d with xlate :=
      if d.xlate.hpSeen + 1 < 2 ^ d.xlate.hpSample.toNat then { d.xlate with hpSeen := d.xlate.hpSeen + 1 }
      else { d.xlate with hpSeen := 0, hpTable := hotAdd (pageNo off (entSize e)) 1 d.xlate.hpTable } }

/-- R48, R17: a line leaves the home L2: a full-line write of data and tag under the key of its page. -/
def mcWriteBack (l : BitVec 50) (s : State) : State :=
  match physOf s (lineIa l) with
  | some (pa, tier2, key) =>
    hotSample l <| setDram l (pa / 64 * 64) tier2 (codeLineOf tier2 (cipherLine s false key l (lineData s l)) (homeTag s l))
      (l2Leave l (upCoh (fun c => { c with home := c.home.filter fun h => !(h.line == l) }) (recallL1 l s)))
  | none => s

/-- R17, R21: a write at the controller. A whole line writes a new code, over an uncorrectable one too; a part of one needs the old
line, corrected and counted where it needs that (R16), and of an
uncorrectable line it is discarded and recorded. A line in the L2 is written there. A write of a code line takes its verified bit and the
instruction cache's copy (R64, R65). -/
def mcWrite (l : BitVec 50) (mask : BitVec 64) (d : LineData) (who : BitVec 10) (s : State) : State :=
  match physOf s (lineIa l) with
  | none => s
  | some (pa0, tier2, key) =>
    let pa := pa0 / 64 * 64
    let put := fun (x : LineData) (tag : BitVec 16) (st : State) =>
      setDram l pa tier2 (codeLineOf tier2 (cipherLine s false key l x) tag) (clearBad l (noteWrite (putLine l x st) l))
    if (homeFind s l).isSome then noteWrite (putLine l (mergeLine (lineData s l) d mask) s) l
    else
      match dramFind s l with
      | none => put (mergeLine (lineData s l) d mask) 0 s
      | some d0 =>
        match readCode tier2 d0 with
        | some (d', fixed) =>
          put (mergeLine (cipherLine s true key l d'.cipher) d mask) d'.tag (if fixed then countRow pa tier2 s else s)
        | none =>
          if mask = BitVec.allOnes 64 then put d (mkTag 0 3) s
          else logError .writeDiscarded pa (lineIa l) who .none s

/-! ## Transactions at the home (R52 to R56, R406) -/

/-- A message about a line from this agent with nothing set. -/
def cohMsg (s : State) (l : BitVec 50) : Coh :=
  { EventArg.blank.coh with src := s.core.agent, req := s.core.agent, line := l }

def sendCoh (op : CohOp) (dst : BitVec 10) (m : Coh) (s : State) : State := s.send (.coh op dst m 0 0 none)

/-- The Data that ends a transaction (R53), with the line where payload says so. -/
def sendDone (t : Txn) (payload : Bool) (s : State) : State :=
  if t.src == s.core.agent then s
  else
    sendCoh .data t.req { cohMsg s t.line with
      req := t.req, txn := t.txn, done := true
      unc := t.kind == .readUnc || t.kind == .ownUnc
      data := if payload then some (lineData s t.line) else none } s

/-- The Error that ends a transaction. -/
def sendErr (t : Txn) (err : BitVec 4) (s : State) : State :=
  if t.src == s.core.agent then s
  else s.send (.coh .error t.req { cohMsg s t.line with req := t.req, txn := t.txn, ticket := t.ticket } err 0 none)

def sendAll (f : BitVec 10 → State → State) (dsts : List (BitVec 10)) (s : State) : State :=
  dsts.foldl (fun st d => f d st) s

/-- A transaction from a message. -/
def txnOf (k : ReqKind) (m : Coh) : Txn :=
  { line := m.line, kind := k, src := m.src, req := m.req, txn := m.txn, ticket := m.ticket, acks := 0, ackFrom := [], fwdTo := none
    dirtyAck := false, nocopy := false, waitData := false, inval := false, held := none, mask := 0
    data := m.data.getD 0, atom := none, acc := none, granted := false, eng := false, chan := 0, bar := none }

def dropRequest (t : Txn) (s : State) : State :=
  upCoh (fun c => { c with requests := c.requests.filter fun x => !(x.line == t.line && x.txn == t.txn) }) s

/-- The core's access that a request at the home was for. -/
def txnAcc (s : State) (t : Txn) : Option GAcc := s.core.accs.find? fun g => some g.seq == t.acc && g.line == t.line

/-- R43, R205: hints that wait for a line which cannot be had are counted once each. -/
def dropPrefs (l : BitVec 50) (s : State) : State :=
  let hit := s.core.prefs.filter fun p => p.line == l
  let fresh := ((hit.filter fun p => !p.counted).map (·.hint)).eraseDups
  s.upCore fun c =>
    { c with
      prefs := (c.prefs.filter fun p => !(p.line == l)).map fun p => if fresh.contains p.hint then { p with counted := true } else p
      sys := { c.sys with hintdrop := BitVec.ofNat 64 (min 0xFFFFFFFF (c.sys.hintdrop.toNat + fresh.length)) } }

/-- R24, R58: a line's bytes used once and not kept: by the loads that wait for nothing but them, by the prefetches, which end with nothing
installed, and by the fetch. -/
def useOnce (l : BitVec 50) (s : State) : State :=
  let mine := s.core.accs.filter fun g => g.line == l && g.op.isLoad && ordOk s (before s g) g
  let s1 := mine.foldl (fun st g => perform g (dropAcc g st)) s
  upCoh (fun c => { c with onceLines := l :: c.onceLines.filter fun x => !(x == l) })
    (s1.upCore fun c => { c with prefs := c.prefs.filter fun p => !(p.line == l) })
/-- R56, R58: an engine's line read uncached. -/
def keepUnc (t : Txn) (s : State) : State :=
  if t.inval then s else upCoh (fun c => { c with uncLines := ⟨t.line, t.chan, t.bar⟩ :: c.uncLines }) s

/-- R88, R92: an acquire of an engine: bytes that it has read uncached before it, or asked for, are not used after it. -/
def dropUnc (chan : Nat) (s : State) : State :=
  let mark := fun (t : Txn) => if t.eng && t.chan == chan && t.kind == .readUnc then { t with inval := true } else t
  upCoh (fun c => { c with
    uncLines := c.uncLines.filter fun u => u.chan != chan
    requests := c.requests.map mark, txns := c.txns.map mark, waiting := c.waiting.map mark }) s

/-! ## Sets of the L2 (R62) -/

/-- R67, R207: the lines of a set that pins keep: of the lines of pinned ranges that passed their code check four. Where more are pinned,
which count within the limit the spec does not say: those in the lowest ways (DESIGN CHOICE, log entry 108). -/
def pinnedL2 (s : State) (l : BitVec 50) : Bool :=
  let pinned := fun (x : BitVec 50) =>
    s.core.pins.any (fun p => p.l2 && p.holds (x.extractLsb' 1 49)) && s.die.coh.verified.contains (x.extractLsb' 1 49)
  match wayOf s l with
  | none => false
  | some w => pinned l && decide (((setWays s (l2Set l)).filter fun x => pinned x.1 && decide (x.2 < w)).length < 4)

def armedLine (s : State) (l : BitVec 50) : Bool := s.die.coll.arms.any fun a => lineOf a.flagIa == l

/-- R48, R62: a line the L2 may not evict. -/
def barred (s : State) (l : BitVec 50) : Bool :=
  lineBusy s l || pinnedL2 s l || armedLine s l || s.die.coh.requests.any (fun t => t.line == l)
    || (isLocal s (lineIa l) && (tagState (homeTag s l) == 4 || tagState (homeTag s l) == 5))

/-- The requests of the local slices that will install a line in a set, whose way is kept for them. -/
def comingLines (s : State) (set : Nat) : List (BitVec 50) :=
  (s.die.coh.requests.filter fun t => (t.kind == .readShared || t.kind == .readOwn || t.kind == .upgrade)
    && l2Set t.line == set && (wayOf s t.line).isNone).map (·.line)
/-- The set of a line has no way for it. -/
def setFull (s : State) (l : BitVec 50) : Bool :=
  (wayOf s l).isNone && !(comingLines s (l2Set l)).contains l
    && decide (16 ≤ (usedWays s (l2Set l)).length + (comingLines s (l2Set l)).length)

/-- R62: every way of the set a line needs is barred. -/
def wayBarred (s : State) (l : BitVec 50) : Bool := setFull s l && (setWays s (l2Set l)).all fun x => barred s x.1
/-- R62: the line that gives way: the one the set's tree points at among those that may be evicted. -/
def victim (s : State) (l : BitVec 50) : Option (BitVec 50) :=
  let ws := setWays s (l2Set l)
  let at_ := fun (w : Nat) => ws.find? fun x => x.2 == w && !barred s x.1
  (at_ (treeVictim (fun w => (at_ w).isSome) (setTree s (l2Set l)) 4 0 0)).map (·.1)

/-! ## The local slice's lines (R47, R57) -/

/-- A line of another home changes its state in the local slice, enters it, or leaves it (R46, R57). -/
def setLocal (l : BitVec 50) (st : Option LState) (s : State) : State :=
  let up := fun (x : State) => upCoh (fun c => { c with localLines :=
    (match st with | some x => [(l, x)] | none => []) ++ c.localLines.filter fun x => !(x.1 == l) }) x
  match st with
  | none => l2Leave l (up (recallL1 l s))
  | some .shared => l2Enter l (up (shareL1 l s))
  | some .owned => l2Enter l (up (shareL1 l s))
  | some _ => l2Enter l (up s)

def requestOf (s : State) (l : BitVec 50) : Option Txn := s.die.coh.requests.find? fun t => t.line == l

/-- The first transaction number (R49) that no request uses and under which no holder's Data for the line may still come. -/
def freeTxn (s : State) (l : BitVec 50) : BitVec 12 :=
  match (List.range 4096).find? fun n => !(s.die.coh.requests.any fun t => t.txn == BitVec.ofNat 12 n)
      && !s.die.coh.lateFwds.contains (l, BitVec.ofNat 12 n) with
  | some n => BitVec.ofNat 12 n
  | none => 0

def ReqKind.op : ReqKind → CohOp
  | .readShared => .readShared
  | .readOwn => .readOwn
  | .upgrade => .upgrade
  | .writeBack => .writeBack
  | .readUnc => .readSharedUnc
  | .ownUnc => .readOwnUnc
  | .ownAtom => .readOwnAtom
  | .homeRead => .readShared
  | .homeExcl => .readOwn

/-- The message of a request to its home. -/
def sendRequest (t : Txn) (s : State) : State :=
  s.send (.coh t.kind.op (iaAgent (lineIa t.line)) { cohMsg s t.line with
    txn := t.txn, ticket := t.ticket, dirty := t.dirtyAck
    unc := t.kind == .readUnc || t.kind == .ownUnc
    data := if t.kind == .ownUnc || (t.kind == .writeBack && t.dirtyAck) then some t.data else none } 0 t.mask t.atom)

/-- R1, R77: the line requests of copy channels that are outstanding, at other homes and at this die's, of all channels or (chan, its number
plus one) of one. -/
def chanRequests (s : State) (chan : Nat) : Nat :=
  ((s.die.coh.requests ++ (s.die.coh.txns ++ s.die.coh.waiting).filter fun t => t.src == s.core.agent).filter fun t =>
    t.chan != 0 && (chan == 0 || t.chan == chan)).length
/-- R49: n further requests to other homes have no room among the 4,096 of an agent. -/
def noRoom (s : State) (n : Nat) : Bool := decide (4096 < s.die.coh.requests.length + n)
/-- R1, R77: n further requests of a channel (its number plus one; 0 for no channel) have no room: 2,048 of the channels of a core, 1,024
of one. -/
def chanFull (s : State) (chan n : Nat) : Bool :=
  chan != 0 && (decide (2048 < chanRequests s 0 + n) || decide (1024 < chanRequests s chan + n))

/-- R20, R198: an Error ends a request of this agent. An access that ran at the home takes it; the Error of a line is kept for the
accesses, the fetch or the engine that wait for the line; a write of an engine that is dropped is recorded (R21), by its home or, of an
unmapped one, here. -/
def failRequest (t : Txn) (err : Nat) (s : State) : State :=
  let hint := s.core.prefs.any fun p => p.line == t.line
  let s1 := if t.kind == .writeBack then dropRequest t s else dropPrefs t.line (dropRequest t s)
  let keep := addBad t.line (BitVec.ofNat 4 err) t.eng
  if t.kind == .writeBack then s1
  else if t.eng then
    (if t.kind == .ownUnc then (if err = 1 then s1 else logError .writeDiscarded 0 (lineIa t.line) s.core.agent .none s1) else keep s1)
  else match txnAcc s t, decide (t.kind = .ownUnc ∨ t.kind = .ownAtom) with
    | some g, true => failAccess (if err = 3 then 2 else 1) g (dropAcc g s1)
    | _, _ => if hint && !s1.core.accs.any (fun g => g.line == t.line) then s1 else keep s1

/-- A request of this agent for a line homed elsewhere: one transaction per line at a time (R47, R58). An engine's request keeps
the number of accesses that the core had issued (R197). A line of an agent that is not configured is unmapped (R32). A masked write of an engine that cannot go yet waits (DESIGN CHOICE,
log entry 90); anything else is asked for again. -/
def request (t0 : Txn) (s : State) : State :=
  let t := if t0.eng && t0.acc.isNone then { t0 with acc := some s.core.accSeq } else t0
  if isLocal s (lineIa t.line) then s
  else if !configured s (iaAgent (lineIa t.line)) then failRequest t 3 s
  else if (requestOf s t.line).isSome || (s.die.coh.later.any fun x => x.line == t.line) || noRoom s 1 || chanFull s t.chan 1 then
    (if t.eng && t.kind == .ownUnc then upCoh (fun c => { c with later := c.later ++ [t] }) s else s)
  else
    let t' := { t with txn := freeTxn s t.line, src := s.core.agent, req := s.core.agent }
    sendRequest t' (upCoh (fun c => { c with requests := c.requests ++ [t'] }) s)
/-- The waiting writes of engines that can go now. -/
def sendLater (s : State) : State := s.die.coh.later.foldl (fun st t => request t st) (upCoh (fun c => { c with later := [] }) s)

/-- R57: the local slice gives a line up, once a WriteBack it needs has a transaction number. -/
def giveUp (l : BitVec 50) (s : State) : State :=
  if (requestOf s l).isSome || armedLine s l || (s.die.coh.later.any fun x => x.line == l) then s
  else
    let wb := fun (dirty : Bool) =>
      if noRoom s 1 then s
      else request { txnOf .writeBack (cohMsg s l) with dirtyAck := dirty, data := lineData s l } (setLocal l none s)
    match localState s l with
    | none => s
    | some .shared => setLocal l none s
    | some .exclusive => wb false
    | some .modified => wb true
    | some .owned => wb true

/-- R48: the home slice evicts a line. -/
def evictHome (l : BitVec 50) (s : State) : State :=
  if barred s l || (homeFind s l).isNone then s else mcWriteBack l s
/-- R62: room for a line in its set: where that is full, the victim leaves it. -/
def makeRoom (l : BitVec 50) (s : State) : State :=
  if !setFull s l then s
  else match victim s l with
    | some v => if isLocal s (lineIa v) then evictHome v s else giveUp v s
    | none => s

/-- R379: the lines that a disabled way still holds. -/
def deadLines (s : State) : List (BitVec 50) :=
  (s.die.coh.ways.filter fun x => s.die.coh.deadWays.contains (l2Set x.1 / 2048, x.2)).map (·.1)
/-- R379: those of them that may leave do. -/
def clearDead (s : State) : State :=
  (deadLines s).foldl (fun st l => if isLocal st (lineIa l) then evictHome l st else giveUp l st) s
/-- R379: a way of an L2 slice is disabled once its contents have been written back; what may not leave yet stays until it may. -/
def disableWay (slice way : Nat) (s : State) : State :=
  clearDead (upCoh (fun c => { c with deadWays := (slice, way) :: c.deadWays.filter fun x => !(x == (slice, way)) }) s)

/-! ## A transaction's steps (R53 to R56, R406) -/

/-- R53: the configured agents but this one and another, of group k or of all. -/
def invTargets (s : State) (group : Option Nat) (but : List (BitVec 10)) : List (BitVec 10) :=
  s.die.links.configured.filter fun x => !(x == s.core.agent) && !but.contains x && match group with
    | some k => x.toNat / 32 == k
    | none => true

/-- R54 to R56: a transaction that takes every copy of the line but the requester's. -/
def ReqKind.exclusive : ReqKind → Bool
  | .readOwn | .upgrade | .homeExcl | .ownUnc | .ownAtom => true
  | _ => false

/-- R55, R56: the agent whose copy an exclusive transaction leaves alone. -/
def Txn.keeps (t : Txn) : List (BitVec 10) :=
  match t.kind with
  | .readOwn | .upgrade => [t.req]
  | _ => []

/-- The REQ of a transaction's Forward: data for the home itself goes to the home. For a ReadShared with UNC the row of R56 names
Data(DONE, PAYLOAD) and a Forward without saying whether its REQ is the requester or the home: the holder sends the line to the
requester, and DONE comes without it, as in R54 (DESIGN CHOICE, log entry 85). -/
def Txn.fwdReq (s : State) (t : Txn) : BitVec 10 :=
  match t.kind with
  | .homeRead | .homeExcl | .ownUnc | .ownAtom => s.core.agent
  | _ => t.req

/-- The new tag that ends a transaction (R54 to R56, R406), from the tag as it stands. -/
def endTag (t : Txn) (st who : Nat) : Nat × Nat :=
  let a := t.req.toNat
  let g := a / 32
  match t.kind with
  | .readOwn | .upgrade => (4, a)
  | .homeExcl | .ownUnc | .ownAtom => (0, 0)
  | .writeBack => (st, who)
  | .readShared =>
    match st with
    | 0 => (1, a)
    | 1 => if who = a then (1, a) else if who / 32 = g then (2, g) else (3, 0)
    | 2 => if who = g then (2, g) else (3, 0)
    | 4 =>
      if who = a then (4, who)
      else if t.nocopy then (1, a)
      else if t.dirtyAck then (5, who)
      else if who / 32 = g then (2, g) else (3, 0)
    | 5 => if who = a then (5, who) else if t.nocopy then (3, 0) else (5, who)
    | _ => (3, 0)
  | .homeRead =>
    match st with
    | 4 => if t.nocopy then (0, 0) else if t.dirtyAck then (5, who) else (1, who)
    | 5 => if t.nocopy then (3, 0) else (5, who)
    | _ => (st, who)
  | .readUnc =>
    match st with
    | 4 => if t.nocopy then (0, 0) else (4, who)
    | 5 => if t.nocopy then (3, 0) else (5, who)
    | _ => (st, who)

/-- R53 to R55: whether the Data that ends a transaction carries the line. -/
def endPayload (t : Txn) (st who : Nat) : Bool :=
  match t.kind with
  | .ownUnc => false
  | .upgrade => if t.fwdTo.isSome then t.nocopy else !((st = 1 ∨ st = 5) ∧ who = t.req.toNat)
  | _ => if t.fwdTo.isSome then t.nocopy else true

/-- R56: the bytes of a ReadOwn with UNC, or the atomic of one with ATOM, at the home L2. -/
def applyOwn (t : Txn) (s : State) : State × Option Nat :=
  match t.kind with
  | .ownUnc => (noteWrite (putLine t.line (mergeLine (lineData s t.line) t.data t.mask) s) t.line, none)
  | .ownAtom =>
    match t.atom with
    | none => (s, none)
    | some (op, n, off, x, y) =>
      let a := (lineIa t.line).toNat + off
      let old := s.die.mem.readNum a n
      (match atomResult op n old x.toNat y.toNat with
       | some v => noteWrite (s.setMem (s.die.mem.writeBytes a (toBytes n v))) t.line
       | none => s, some old)
  | _ => (s, none)

/-- R21: a transaction that writes the whole line and needs none of the old bytes. -/
def Txn.full (t : Txn) : Bool := (t.kind == .ownUnc || t.kind == .homeExcl) && t.mask == BitVec.allOnes 64

/-- R21, R62: the line that a whole write replaces needs a way of its set; where every way is barred the write goes to the controller. -/
def enterWhole (t : Txn) (s : State) : State :=
  let s1 := makeRoom t.line s
  if setFull s1 t.line then (if t.kind == .ownUnc then mcWrite t.line t.mask t.data t.src s1 else s1) else upHome t.line id s1

/-- R181: an armed flag whose line another agent writes is read again. -/
def markArms (l : BitVec 50) (s : State) : State := s.upDie fun d => { d with coll := { d.coll with arms := d.coll.arms.map (flagChanged l) } }

/-- A transaction whose acknowledgements and data are in ends: its effect, its tag, its last message. What a read of this die's caches
brings from a line that another agent still owns is used once (R56). -/
def endTxn (t : Txn) (s : State) : State :=
  let (st, who, _) := readTag (homeTag s t.line)
  let s0 := upCoh (fun c => { c with txns := c.txns.filter fun x => !(x.line == t.line) }) s
  let s1 := if t.kind.exclusive && t.kind != .homeExcl then markArms t.line (recallL1 t.line s0)
    else if t.kind == .readShared then shareL1 t.line s0 else s0
  let tier2 := inTier2 s (lineIa t.line)
  let nt := endTag t st who
  let s1' := if t.full && (homeFind s1 t.line).isNone then enterWhole t s1 else s1
  let s2 := if tier2 || (homeFind s1' t.line).isNone then s1' else setTag t.line nt.1 nt.2 s1'
  match applyOwn t (if t.full && (homeFind s1' t.line).isSome then clearBad t.line s2 else s2) with
  | (s3, some old) =>
    if t.src == s.core.agent then s3
    else sendCoh .data t.req { cohMsg s t.line with req := t.req, txn := t.txn, done := true
                                                    data := some (BitVec.ofNat 512 old) } s3
  | (s3, none) =>
    if t.src == s.core.agent then
      (if t.kind == .readUnc then (if t.eng then keepUnc t s3 else useOnce t.line s3)
       else if t.kind == .homeRead && (nt.1 == 4 || nt.1 == 5) then useOnce t.line s3
       else s3)
    else if tier2 && (t.kind == .readShared || t.kind == .readOwn || t.kind == .upgrade) then
      sendCoh .data t.req { cohMsg s t.line with req := t.req, txn := t.txn, done := true, unc := true
                                                 data := some (lineData s t.line) } s3
    else sendDone t (endPayload t st who) s3

/-- A transaction in progress ends where nothing is outstanding. -/
def tryEnd (l : BitVec 50) (s : State) : State :=
  match s.die.coh.txns.find? fun t => t.line == l with
  | some t => if t.acks = 0 && !(t.waitData && !t.nocopy) then endTxn t s else s
  | none => s

/-- R20, R21, R34: a transaction ends with an Error; to this die's own caches and engines it is told by the line. A masked write
that an uncorrectable line discards is recorded. -/
def failTxn (t : Txn) (err : BitVec 4) (s : State) : State :=
  let s1 := if err == 1 && t.kind == .ownUnc then logError .writeDiscarded 0 (lineIa t.line) t.src .none s else s
  if t.src == s.core.agent then addBad t.line err t.eng s1 else sendErr t err s1

/-- R54 to R56: a transaction starts: what its tag asks for is sent, and it ends at once where nothing is. -/
def startTxn (t : Txn) (s : State) : State :=
  let ia := lineIa t.line
  if (homeEntry s (iaOffset ia)).isNone then failTxn t 3 s
  else if lineBad s t.line && !t.full then failTxn t 1 s
  else
    let (st, who, odd) := readTag (homeTag s t.line)
    let a := t.req.toNat
    let ours := (t.kind == .readShared || t.kind == .readOwn || t.kind == .upgrade) && decide (who = a)
    let wrong := ours && (st == 4 || (st == 5 && t.kind != .upgrade))
    let s1 := if odd || wrong then countInt s else s
    let holder : BitVec 10 := BitVec.ofNat 10 who
    let excl := t.kind.exclusive
    let fwd := !wrong && !ours && (st == 4 || st == 5)
    let invs :=
      if !excl then []
      else if wrong then invTargets s none t.keeps
      else match st with
        | 1 => if t.keeps.contains holder then [] else [holder]
        | 2 => invTargets s (some who) t.keeps
        | 3 => invTargets s none t.keeps
        | 5 => invTargets s none (holder :: t.keeps)
        | _ => []
    let home := t.fwdReq s == s.core.agent
    let t' := { t with
      acks := invs.length + (if fwd then 1 else 0)
      ackFrom := invs ++ (if fwd then [holder] else [])
      fwdTo := if fwd then some holder else none
      waitData := fwd && home }
    let s2 := upCoh (fun c => { c with txns := c.txns ++ [t'] }) s1
    let s3 := sendAll (fun d => sendCoh .invalidate d { cohMsg s t.line with req := t.req, txn := t.txn }) invs s2
    let s4 := if fwd then
        sendCoh .forward holder { cohMsg s t.line with req := t.fwdReq s, txn := t.txn, share := !excl
                                                       unc := t.kind == .readUnc } s3
      else s3
    tryEnd t.line s4

/-! ## Admission (R52) -/

/-- Requests in the entries of a slice, of other agents or of all. -/
def entries (s : State) (slice : Nat) (remote : Bool) : Nat :=
  ((s.die.coh.txns ++ s.die.coh.waiting).filter fun t =>
    homeSlice (lineIa t.line) == slice && (!remote || !(t.src == s.core.agent))).length

/-- An admitted request starts, or waits in its entry for its line, its data, or a way. -/
def enterTxn (t : Txn) (s : State) : State :=
  if lineBusy s t.line || (dramOnly s t.line && !lineBad s t.line) || wayBarred s t.line || s.die.coh.waiting.any (fun w => w.line == t.line) then
    upCoh (fun c => { c with waiting := c.waiting ++ [t] }) s
  else startTxn t s

def slice48 (k : Nat) : Fin 48 := ⟨k % 48, Nat.mod_lt _ (by decide)⟩

/-- R52: a remote request is admitted or refused with a ticket. The home looks its page up (R35). The ticket at SERVE that finds no free entry
has been presented: its time starts again. -/
def arriveHome (t : Txn) (s0 : State) : State :=
  if !isLocal s0 (lineIa t.line) then countInt s0
  else
    let s := fillBuffer (iaOffset (lineIa t.line)) s0
    let k := slice48 (homeSlice (lineIa t.line))
    let free := decide (entries s k.val true < 56) && decide (entries s k.val false < 64)
    let next := s.die.coh.next.get k
    let serve := s.die.coh.serve.get k
    let refuse := fun (tk : BitVec 16) (st : State) => sendErr { t with ticket := some tk } 2 st
    let fresh :=
      if free && next == serve then enterTxn t s
      else refuse next (upCoh (fun c => { c with
        next := c.next.set k (next + 1)
        serveSince := if next == serve then c.serveSince.set k s.cycle else c.serveSince }) s)
    match t.ticket with
    | none => fresh
    | some tk =>
      if (tk - serve).toNat < (next - serve).toNat then
        (if free && tk == serve then
          enterTxn t (upCoh (fun c => { c with serve := c.serve.set k (serve + 1), serveSince := c.serveSince.set k s.cycle }) s)
         else refuse tk (if tk == serve then upCoh (fun c => { c with serveSince := c.serveSince.set k s.cycle }) s else s))
      else fresh

/-- R52: the first waiting request of a line starts. -/
def serveWaiting (l : BitVec 50) (s : State) : State :=
  if lineBusy s l || (dramOnly s l && !lineBad s l) || wayBarred s l then s
  else
    match s.die.coh.waiting.find? fun t => t.line == l with
    | none => s
    | some t => startTxn t (upCoh (fun c => { c with waiting := c.waiting.erase t }) s)
/-- R20: the Error of a line's read goes to every request that waits on it. -/
def failWaiting (l : BitVec 50) (s : State) : State :=
  (s.die.coh.waiting.filter fun t => t.line == l).foldl (fun st _ => if lineBusy st l then st else serveWaiting l st) s

/-- R56: a request of this die's own caches or engines for a line homed here; it waits and is never refused. full is that of a
write of the whole line (R21), chan the number plus one of the copy channel that asks (R77). -/
def homeDie (k : ReqKind) (eng full : Bool) (chan : Nat) (l : BitVec 50) (s0 : State) : State :=
  if !isLocal s0 (lineIa l) || s0.die.coh.txns.any (fun t => t.line == l && t.src == s0.core.agent)
      || s0.die.coh.waiting.any (fun t => t.line == l && t.src == s0.core.agent)
      || decide (64 ≤ entries s0 (homeSlice (lineIa l)) false) || chanFull s0 chan 1 then s0
  else
    let s := fillBuffer (iaOffset (lineIa l)) s0
    enterTxn { txnOf k (cohMsg s l) with eng := eng, chan := chan, mask := if full then BitVec.allOnes 64 else 0 } s

/-- R56: a WriteBack at the home. -/
def writeBackAt (m : Coh) (s0 : State) : State :=
  let s := countOdd m.line s0
  let done := sendCoh .data m.src { cohMsg s m.line with req := m.src, txn := m.txn, done := true }
  let take := fun (st : State) => match m.data with
    | some d => if m.dirty then putLine m.line d st else st
    | none => st
  let (tst, who, _) := readTag (homeTag s m.line)
  match s.die.coh.txns.find? fun t => t.line == m.line && t.fwdTo == some m.src with
  | some _ => done (take s)
  | none =>
    if tst = 4 && decide (who = m.src.toNat) then done (setTag m.line 0 0 (take s))
    else if tst = 5 && decide (who = m.src.toNat) then done (setTag m.line 3 0 (take s))
    else done (countInt s)

/-- R52, R53, R61: an InvAck at the home; one that the home does not wait for is unexpected. -/
def invAckAt (m : Coh) (s : State) : State :=
  match s.die.coh.txns.find? fun t => t.line == m.line with
  | none => countInt s
  | some t =>
    if !t.ackFrom.contains m.src then countInt s
    else
      let mine := t.fwdTo == some m.src
      let t' := { t with
        acks := t.acks - 1
        ackFrom := t.ackFrom.erase m.src
        dirtyAck := t.dirtyAck || (mine && m.dirty)
        nocopy := t.nocopy || (mine && m.nocopy) }
      tryEnd m.line (upCoh (fun c => { c with txns := c.txns.map fun x => if x.line == m.line then t' else x }) s)

/-! ## The local slice (R47, R57, R58) -/

/-- R57: a local read: a copy in S, or, uncached, the bytes once: for engines (R56), for tags (R65), and of second-tier lines
(R24). -/
def localRead (unc eng : Bool) (chan : Nat) (l : BitVec 50) (s0 : State) : State :=
  if unc || eng || farTier2 s0 (lineIa l) then request { txnOf .readUnc (cohMsg s0 l) with eng := eng, chan := chan } s0
  else if (localState s0 l).isSome then s0
  else
    let s := makeRoom l s0
    if setFull s l then s else request (txnOf .readShared (cohMsg s l)) s

/-- The core's first access that waits to write a line, and nothing but the line holds it up. -/
def nextWrite (s : State) (l : BitVec 50) : Option GAcc :=
  s.core.accs.find? fun g => g.line == l && !g.op.isLoad && ordOk s (before s g) g

/-- The masked bytes of a store, as a ReadOwn with UNC carries them (R56). -/
def storeMask (g : GAcc) : BitVec 64 := BitVec.ofNat 64 (g.cells.foldl (fun m c => m ||| 2 ^ (c.1 % 64)) 0)
def storeData (g : GAcc) : LineData := BitVec.ofNat 512 (g.cells.foldl (fun m c => m ||| c.2 <<< (8 * (c.1 % 64))) 0)

/-- R57, R60, R24, R21: a local write: the line in M; or at its home an atomic, a store to a second-tier line, and a store of a whole
line that cannot be read. -/
def localWrite (l : BitVec 50) (s0 : State) : State :=
  let acc := nextWrite s0 l
  let plain := fun (_ : Unit) =>
    match localState s0 l with
    | some .modified => s0
    | some .exclusive => setLocal l (some .modified) s0
    | st =>
      let s := makeRoom l s0
      if setFull s l then s
      else request { txnOf (if st.isSome then .upgrade else .readOwn) (cohMsg s l) with acc := acc.map (·.seq) } s
  match acc with
  | none => if farTier2 s0 (lineIa l) then s0 else plain ()
  | some g =>
    match g.op with
    | .atomic op x y _ =>
      if atHome s0 g then
        request { txnOf .ownAtom (cohMsg s0 l) with
          atom := some (op, g.cells.length, ((g.cells.map (·.1)).headD 0) % 64, x, y), acc := some g.seq } s0
      else plain ()
    | _ =>
      if farTier2 s0 (lineIa l) || (lineBad s0 l && wholeLine g) then
        request { txnOf .ownUnc (cohMsg s0 l) with mask := storeMask g, data := storeData g, acc := some g.seq } s0
      else plain ()

/-- R57: a Forward served by state; one that takes an armed flag's line away is followed by another agent's store (R181). -/
def serveForward (m : Coh) (s : State) : State :=
  let ack := fun (dirty nocopy : Bool) =>
    sendCoh .invAck m.src { cohMsg s m.line with req := m.req, txn := m.txn, dirty := dirty, nocopy := nocopy }
  let give := sendCoh .data m.req { cohMsg s m.line with
    req := m.req, txn := m.txn, fwd := true, unc := m.unc, data := some (lineData s m.line) }
  let next := fun (st : LState) (x : State) => if m.unc then x else setLocal m.line (some st) x
  let drop := fun (x : State) => if m.unc then x else setLocal m.line none x
  match localState s m.line with
  | none => ack false true s
  | some .shared => ack false true (drop s)
  | some .exclusive => ack false false (give (if m.share then next .shared s else markArms m.line (drop s)))
  | some _ => if m.share then ack true false (give (next .owned s)) else ack false false (give (markArms m.line (drop s)))

/-- R58: a Forward waits for this agent's own grant, or crosses its WriteBack. -/
def forwardAt (m : Coh) (s : State) : State :=
  match requestOf s m.line with
  | some t =>
    if t.kind == .readOwn || t.kind == .upgrade then upCoh (fun c => { c with heldFwds := c.heldFwds ++ [m] }) s
    else if t.kind == .writeBack then
      sendCoh .invAck m.src { cohMsg s m.line with req := m.req, txn := m.txn, nocopy := true } s
    else serveForward m s
  | none => serveForward m s

/-- R57, R58: an Invalidate; an armed flag's engine is told. -/
def invalidateAt (m : Coh) (s : State) : State :=
  let s0 := markArms m.line s
  let ack := sendCoh .invAck m.src { cohMsg s m.line with req := m.req, txn := m.txn }
  let mark := upCoh (fun c => { c with requests := c.requests.map fun t =>
    if t.line == m.line && t.kind == .readShared then { t with inval := true } else t }) s0
  match localState s m.line with
  | none => ack mark
  | some .shared => ack (setLocal m.line none mark)
  | some .owned =>
    if (requestOf s m.line).any (fun t => t.kind == .upgrade) then ack (setLocal m.line none mark) else ack (countInt mark)
  | some _ => ack (countInt mark)

/-- The held Forwards of a line are served (R58). -/
def serveHeld (l : BitVec 50) (s : State) : State :=
  let mine := s.die.coh.heldFwds.filter fun m => m.line == l
  mine.foldl (fun st m => serveForward m st)
    (upCoh (fun c => { c with heldFwds := c.heldFwds.filter fun m => !(m.line == l) }) s)

/-- R24: a home that answers a request for a copy with bytes alone has its page in the second tier. -/
def learnTier2 (l : BitVec 50) (s : State) : State :=
  if farTier2 s (lineIa l) then s
  else s.upDie fun d => { d with xlate := { d.xlate with farTier2 := (pageBase (lineIa l) 0, 0) :: d.xlate.farTier2 } }

/-! ### What a stopped task still needs of memory (R186, R269) -/

/-- R269: the counter's accesses pass; or the CAUSE.CODE of what fails; or the probes to send. -/
inductive CounterCheck where
  | go (ia : Nat)
  | fail (code : Nat)
  | ask (ia : BitVec 56)
  | wait
def counterCheck (s : State) (l : Leave) : CounterCheck :=
  let needs := [Need.rd, Need.w, Need.a]
  match if l.phys then some (l.va.setWidth 56) else (windowCheck l.win l.va (l.va + 7) .a).map (·.1) with
  | none => .fail 4
  | some ia =>
    if !l.phys && needs.any fun n => (windowCheck l.win l.va (l.va + 7) n).isNone then .fail 4
    else
      let ans : Option (Option ProbeReply) :=
        if isLocal s ia then some (some (homeReply s ia))
        else if !configured s (iaAgent ia) then some (some .unmapped)
        else (l.probes.find? fun p => p.1 == ia).map (·.2)
      match if l.phys && configured s (iaAgent ia) then some (some (.mapped 0 true true true)) else ans with
      | none => .ask ia
      | some none => .wait
      | some (some r) => match replyLook .a r with
        | .page => .fail 5
        | .protect => .fail 6
        | _ => if l.va.toNat % 8 ≠ 0 then .fail 8 else .go ia.toNat

/-- The IAs of a join counter and of the record after it. -/
def joinIas (ia : Nat) : List Nat := (List.range 72).map fun i => (ia + i) % 2 ^ 56
/-- The lines a leaving task still needs, and whether to write (R186, R269). -/
def joinLines (l : Leave) (ia : Nat) : List (BitVec 50 × Bool) :=
  let c := linesOf ((joinIas ia).take 8)
  c.map (fun x => (x, true)) ++ ((linesOf ((joinIas ia).drop 8)).filter fun x => !c.contains x).map fun x => (x, l.record.isSome)

/-- R93, R264, R268, R269: the accesses of a task before its end are performed, and the writes of copies it had seen complete. -/
def leftQuiet (s : State) (l : Leave) : Bool := !(s.core.accs.any fun g => decide (g.seq ≤ l.seq)) && !engWritesOut s (l.seq + 1)
/-- A stopped task waits for a line alone (R58). -/
def leaveWaits (s : State) (l : BitVec 50) : Bool :=
  s.core.leaving.any fun x => match counterCheck s x with
    | .go ia => leftQuiet s x && !x.member && x.counter && (joinLines x ia).any fun j => j.1 == l
    | _ => false
/-- R58: Forwards that have waited for nothing but a stopped task's access are served. -/
def releaseFwds (s : State) : State :=
  ((s.die.coh.heldFwds.map (·.line)).eraseDups).foldl (fun st l =>
    if (requestOf st l).isSome || leaveWaits st l then st else serveHeld l st) s

/-- R53, R57, R58: the Data that ends a request of this agent: the access that caused it is performed before a held Forward is served; that
of a stopped task is its own step. -/
def grant (t : Txn) (m : Coh) (s : State) : State :=
  let s1 := dropRequest t s
  let line := match m.data with | some d => some d | none => t.held
  let s2 := match line with
    | some d =>
      if t.kind == .ownAtom || t.kind == .ownUnc || (t.kind == .readUnc && (localState s t.line).isSome) then s1 else putLine t.line d s1
    | none => s1
  match t.kind with
  | .readShared =>
    if m.unc then useOnce t.line (learnTier2 t.line s2)
    else if t.inval then useOnce t.line s2
    else performReady (setLocal t.line (some .shared) s2)
  | .readOwn | .upgrade =>
    if m.unc then learnTier2 t.line s2
    else
      let s3 := if t.kind == .upgrade && line.isNone then upCoh (fun c => { c with lateFwds := (t.line, t.txn) :: c.lateFwds }) s2 else s2
      let s4 := performReady (setLocal t.line (some .modified) s3)
      if t.acc.isNone && leaveWaits s4 t.line then s4 else serveHeld t.line s4
  | .readUnc =>
    if t.eng then keepUnc t s2 else useOnce t.line s2
  | .ownUnc =>
    match txnAcc s t with
    | some g => if t.eng then s2 else clearBad t.line (storeCells g.cells (dropAcc g s2))
    | none => s2
  | .ownAtom =>
    match txnAcc s t with
    | none => s2
    | some g =>
      match g.op with
      | .atomic _ _ _ (some id) => resolve id (((m.data.getD 0).setWidth 64).setWidth 1024) (dropAcc g (if g.acq then engBarrier g.seq s2 else s2))
      | _ => dropAcc g s2
  | _ => s2

/-- R53, R55: a request cannot end before the line itself has come: it holds no copy, and neither DONE nor a holder has brought
the bytes. -/
def needsLine (s : State) (t : Txn) (m : Coh) : Bool :=
  m.data.isNone && t.held.isNone && match t.kind with
    | .readShared | .readOwn | .readUnc => true
    | .upgrade => (localState s t.line).isNone
    | _ => false

/-- A request of this agent changed. -/
def upRequest (t : Txn) (f : Txn → Txn) (s : State) : State :=
  upCoh (fun c => { c with requests := c.requests.map fun x => if x.line == t.line && x.txn == t.txn then f x else x }) s

/-- R53, R55: a Data message at this agent: for a transaction of its home slices, or for a request of its local slices. A
holder's Data may come before DONE or after it; one for a request that waits for none, or a second one, is unexpected (R61). -/
def dataAt (m : Coh) (s : State) : State :=
  if isLocal s (lineIa m.line) then
    match s.die.coh.txns.find? fun t => t.line == m.line && t.waitData with
    | some t =>
      let s1 := match m.data with | some d => putLine m.line d s | none => s
      tryEnd m.line (upCoh (fun c => { c with txns := c.txns.map fun x =>
        if x.line == m.line then { t with waitData := false } else x }) s1)
    | none => countInt s
  else
    match s.die.coh.requests.find? fun t => t.line == m.line && t.txn == m.txn with
    | none =>
      if m.fwd && s.die.coh.lateFwds.contains (m.line, m.txn) then
        upCoh (fun c => { c with lateFwds := c.lateFwds.erase (m.line, m.txn) }) s
      else countInt s
    | some t =>
      if m.done then (if needsLine s t m then upRequest t (fun x => { x with granted := true }) s else grant t m s)
      else if m.fwd && m.data.isSome && t.held.isNone
          && (t.kind == .readShared || t.kind == .readOwn || t.kind == .upgrade || t.kind == .readUnc) then
        (if t.granted then grant t { m with unc := m.unc && t.kind == .readUnc } s
         else upRequest t (fun x => { x with held := m.data }) s)
      else countInt s

/-- R20, R52, R198: an Error that ends a request of this agent, or refuses it for now. -/
def errorAt (m : Coh) (err : Nat) (s : State) : State :=
  match s.die.coh.requests.find? fun t => t.line == m.line && t.txn == m.txn with
  | none => countInt s
  | some t =>
    if err = 2 then
      upCoh (fun c => { c with
        requests := c.requests.map fun x => if x.line == t.line && x.txn == t.txn then { x with ticket := m.ticket } else x
        resends := c.resends ++ [⟨m.line, m.ticket.getD 0, s.cycle + 128⟩] }) s
    else if err = 1 ∨ err = 3 then failRequest t err s
    else countInt s

/-- R52: a refused request is sent again once its 128 cycles are over. -/
def resendAt (l : BitVec 50) (s : State) : State :=
  match s.die.coh.resends.find? fun r => r.line == l && decide (r.due ≤ s.cycle), requestOf s l with
  | some r, some t => sendRequest t (upCoh (fun c => { c with resends := c.resends.erase r }) s)
  | _, _ => s

/-- R52: the ticket at SERVE was not presented in time. -/
def ticketLate (s : State) (k : Fin 48) : Bool :=
  s.die.coh.next.get k != s.die.coh.serve.get k && decide (s.die.coh.serveSince.get k + 65536 ≤ s.cycle)
def ticketSkip (k : Fin 48) (s : State) : State :=
  if ticketLate s k then
    upCoh (fun c => { c with serve := c.serve.set k (c.serve.get k + 1), serveSince := c.serveSince.set k s.cycle
                             cohtkt := satInc c.cohtkt }) s
  else s

/-- R62: a way frees, and the request that waits for it starts. -/
def wayFree (l : BitVec 50) (s : State) : State := serveWaiting l (makeRoom l s)

/-- The L2 holds both lines of a code line. -/
def codeHeld (s : State) (c : BitVec 49) : Bool :=
  [BitVec.ofNat 50 (c.toNat * 2), BitVec.ofNat 50 (c.toNat * 2 + 1)].all fun l => (homeFind s l).isSome || (localState s l).isSome
/-- R38, R65, R67: the page of a pinned line's tag is asked for at its home, which for a page of this die walks first. -/
def askTagPage (ia : BitVec 56) (s : State) : State :=
  if isLocal s ia then fillBuffer (iaOffset ia) s
  else if s.core.needs.any fun q => pageBase q.1 0 == pageBase ia 0 then s
  else (s.upCore fun c => { c with needs := c.needs ++ [(ia, .rd)] }).send (.probe (iaAgent ia) ia)
/-- R65: the L2 slice checks a code line that it holds and installs it with its verified bit; a line that its home has sent for one use is
not installed. -/
def codeFill (c : BitVec 49) (s : State) : State :=
  match codeLine s (BitVec.ofNat 56 (c.toNat * 128)) with
  | .got _ => if codeHeld s c then upCoh (fun k => { k with verified := c :: without c k.verified }) s else s
  | .probe ia => askTagPage ia s
  | _ => s
/-- R64: the instruction cache fills from a verified line of the L2. -/
def icacheFill (c : BitVec 49) (s : State) : State := if s.die.coh.verified.contains c && codeHeld s c then icacheEnter c s else s

end Sys2Proof.Machine
end

