-- ==== Sys2Proof/Machine/Migrate.lean ====
section
/-! DEFINITION. Page migration and the hot-page tracker (R22, R34, R41, R42). -/
namespace Sys2Proof.Machine

def upXlate (f : Xlate → Xlate) (s : State) : State := s.upDie fun d => { d with xlate := f d.xlate }

/-- R34, R35: a leaf entry written back: to the page table, and to the buffer where it is held. -/
def writeLeaf (off : BitVec 46) (e : W64) (s : State) : State :=
  let s1 := match tableWalk s off with
    | .leaf _ pa => putTableWord pa e s
    | _ => s
  upXlate (fun x => { x with buffer := x.buffer.map fun pe => if pe.1 == pageNo off (entSize pe.2) then (pe.1, e) else pe }) s1

def withFrame (e : W64) (tier2 : Bool) (frame : BitVec 24) : W64 :=
  setField (setField e 16 24 frame.toNat) 62 1 (if tier2 then 1 else 0)
/-- R34: MLOCK of an entry. -/
def withLock (e : W64) (on : Bool) : W64 := setField e 58 1 (if on then 1 else 0)

/-- R22, R41: one stored line as the other frame holds it: ciphertext unchanged; within a tier code and tag too, between tiers the
source corrected and a new code, on promotion with tag 0. -/
def recode (src2 dst2 : Bool) (d : DramLine) : DramLine :=
  match readCode src2 d with
  | none => { invalidLine dst2 d.cipher with line := d.line }
  | some (d', _) => { (if src2 == dst2 then d' else codeLineOf dst2 d'.cipher 0) with line := d.line }

/-- The addresses of a tier that hold a stored line in a range, those of parked rows among them. -/
def storedIn (s : State) (tier2 : Bool) (pa n : Nat) : List Nat :=
  let inside := fun (x : Nat) => decide (pa ≤ x) && decide (x < pa + n)
  ((s.die.dram.filter fun d => d.2.1 == tier2 && inside d.1).map (·.1)
    ++ (if tier2 then [] else s.die.park.toList.flatMap fun p => (p.lines.filter fun x => inside x.1).map (·.1))).eraseDups

/-- R41, R22, R27: the stored lines of n bytes copied to another frame, each as it is found and put by the redirection in force for
its row. One read with an error corrected is written back and counted (R16), and one
that cannot be read is recorded. -/
def moveLines (from2 : Bool) (fromPa n : Nat) (to2 : Bool) (toPa : Nat) (s : State) : State :=
  let cleared := (storedIn s to2 toPa n).foldl (fun st a => dramPut a to2 none st) s
  (storedIn s from2 fromPa n).foldl (fun st a =>
    match dramGet s a from2 with
    | none => st
    | some d =>
      let st1 := match readCode from2 d with
        | some (_, false) => st
        | some (d', true) => countRow a from2 (dramPut a from2 (some { d' with line := d.line }) st)
        | none => uncorrectable d.line a from2 s.core.agent .migration st
      dramPut (a - fromPa + toPa) to2 (some (recode from2 to2 d)) st1) cleared

/-- R41: a page may go to the second tier once the control cores have recalled its lines. -/
def allHome (s : State) (base : BitVec 56) (n : Nat) : Bool :=
  s.die.coh.home.all fun h =>
    !(decide (base.toNat ≤ (lineIa h.line).toNat) && decide ((lineIa h.line).toNat < base.toNat + n)) || tagState h.tag == 0

/-- R41, step 1: a page of this die starts to move into a frame: MLOCK is set. -/
def migrateStart (hot : Bool) (off : BitVec 46) (to2 : Bool) (frame : BitVec 24) (s : State) : State :=
  match homeEntry s off, s.die.xlate.migration with
  | some e, none =>
    let n := pageBytes (entSize e)
    let base : BitVec 56 := (s.core.agent ++ BitVec.ofNat 46 (off.toNat / n * n) : BitVec (10 + 46))
    if entPinw e || entMlock e || !entOk (withFrame e to2 frame) || (to2 && !allHome s base n) then s
    else upXlate (fun x => { x with migration := some ⟨off, entSize e, entTier e, entFrame e, to2, frame, 0, hot⟩ })
      (writeLeaf off (withLock e true) s)
  | _, _ => s

/-- R379: an HBM bank that is a lasting fault and rests parked, and a frame that holds part of one. -/
def bankRetired (s : State) (pc bank : Nat) : Bool :=
  s.die.park.toList.any (fun p => p.phase == 2 && !p.busy && p.pc.toNat == pc && p.bank.toNat == bank) && s.die.boot.lasting.any fun u =>
    u == 4 * (pc * 16 + bank) + 1 || (u % 4 == 0 && u / 4 / 2 ^ 16 == pc * 16 + bank)
def frameRetired (s : State) (f : BitVec 24) : Bool :=
  (List.range 256).any fun i => let pa := f.toNat * 2 ^ 16 + 256 * i; bankRetired s (hbmPc pa) (hbmBank pa)

/-- R41, steps 3 and 4: the new FRAME and TIER, MLOCK clear, and the old frame in the free queue of its tier, unless a lasting fault has
retired it (R379). -/
def migrateEnd (m : Migration) (s : State) : State :=
  match homeEntry s m.off with
  | none => s
  | some e =>
    upXlate (fun x => { x with
      migration := none
      hpprom := if m.hot then satInc x.hpprom else x.hpprom
      freeFrames := if m.tier || frameRetired s m.frame then x.freeFrames else x.freeFrames ++ [m.frame]
      freeFrames2 := if m.tier && !frameLasting s.die.boot.lasting m.frame then x.freeFrames2 ++ [m.frame] else x.freeFrames2 })
      (writeLeaf m.off (withLock (withFrame e m.toTier m.toFrame) false) s)

/-- R41, step 2: the next lines of the page are copied: k of them, or with 0 all that remain. With the last the page has moved. -/
def migrateLines (k : Nat) (s : State) : State :=
  match s.die.xlate.migration with
  | none => s
  | some m =>
    let all := pageBytes m.size / 64
    let upTo := if k = 0 then all else min all (m.done + k)
    let s1 := moveLines m.tier (m.frame.toNat * 2 ^ 16 + m.done * 64) ((upTo - m.done) * 64) m.toTier
      (m.toFrame.toNat * 2 ^ 16 + m.done * 64) s
    let m' := { m with done := upTo }
    let s2 := upXlate (fun x => { x with migration := some m' }) s1
    if upTo = all then migrateEnd m' s2 else s2

/-- R42: a page whose count has reached THRESH: it starts to move into a frame of the HBM free queue, or stays a candidate where
there is none; a pinned page is skipped and counted. Of several frames that fit the page, the first in the queue is taken
(DESIGN CHOICE, log entry 86). -/
def hotPromote (page : BitVec 30) (s : State) : State :=
  let off : BitVec 46 := (page ++ 0#16 : BitVec (30 + 16))
  match homeEntry s off with
  | none => s
  | some e =>
    if !entTier e then s
    else if entPinw e || entMlock e then upXlate (fun x => { x with hpskip := satInc x.hpskip }) s
    else if s.die.xlate.migration.isSome then s
    else
      match s.die.xlate.freeFrames.find? fun f => entOk (withFrame e false f) with
      | none => s
      | some f =>
        migrateStart true off false f (upXlate (fun x => { x with
          freeFrames := x.freeFrames.erase f, hpTable := x.hpTable.filter fun p => !(p.1 == page) }) s)
/-- R42: the pages whose count has reached THRESH. -/
def hotPages (s : State) : List (BitVec 30) :=
  (s.die.xlate.hpTable.filter fun p => decide (s.die.xlate.hpThresh.toNat ≤ p.2)).map (·.1)
/-- R42: a candidate that can start to move now: in the second tier, neither pinned nor locked, and some free frame fits it. -/
def hotReady (s : State) (page : BitVec 30) : Bool :=
  match homeEntry s (page ++ 0#16 : BitVec (30 + 16)) with
  | some e => entTier e && !entPinw e && !entMlock e && s.die.xlate.freeFrames.any fun f => entOk (withFrame e false f)
  | none => false
/-- R42: a page that is counted once more is promoted where its count reaches THRESH. -/
def hotCheck (l : BitVec 50) (s : State) : State :=
  match homeEntry s (iaOffset (lineIa l)) with
  | none => s
  | some e =>
    let page := pageNo (iaOffset (lineIa l)) (entSize e)
    if s.die.xlate.hpEn && s.die.xlate.hpSeen == 0 && (hotPages s).contains page then hotPromote page s else s

/-- R206: RESID .promote at the home of a page of this die: THRESH more for its count, which then reaches THRESH (R42). -/
def promotePage (ia : BitVec 56) (s : State) : State :=
  if !s.die.xlate.hpEn then s
  else match homeEntry s (iaOffset ia) with
    | none => s
    | some e =>
      let page := pageNo (iaOffset ia) (entSize e)
      if entPinw e || entMlock e then upXlate (fun x => { x with hpskip := satInc x.hpskip }) s
      else if !entTier e then s
      else hotPromote page (upXlate (fun x => { x with hpTable := hotAdd page x.hpThresh.toNat x.hpTable }) s)

end Sys2Proof.Machine
end

