-- ==== Sys2Proof/Machine/Memory.lean ====
section
/-! DEFINITION. The M class (R188 to R208): scratchpad, global accesses, atomics, DRAIN, and hints. -/
namespace Sys2Proof.Machine

/-- The M slots' PRESENT bits (R142). -/
def mNo : MSlot → Nat
  | .m0 => 6
  | .m1 => 7

/-- The bytes below n whose guard bit is set (R192). -/
def guardBytes (lanes : W128) (n : Nat) : List Nat := (List.range n).filter fun b => lanes.getLsbD b

/-! ## Scratchpad (R191 to R193) -/

/-- The pairs (byte of the register, scratchpad address) of an access. -/
abbrev Cells := List (Nat × W64)

/-- R71, R191: the first address of an access that no region holds. -/
def cellsBad (s : State) (cs : Cells) : Option W64 := lowestBad (fun a => (spadAddr s a).isNone) (cs.map (·.2))

/-- The value of a load, byte by byte. -/
def spadGather (s : State) (cs : Cells) : W1024 :=
  BitVec.ofNat 1024 (cs.foldl (fun acc c =>
    acc ||| (match spadAddr s c.2 with | some p => (s.core.spad.read p).toNat | none => 0) <<< (8 * c.1)) 0)

/-- The stores of an access: later cells win (R193). -/
def spadScatter (v : W1024) (cs : Cells) (s : State) : State :=
  s.setSpad (s.core.spad.writeCells (cs.filterMap fun c =>
    (spadAddr s c.2).map fun p => (p, v.extractLsb' (8 * c.1) 8)))

/-- R69: the rows of an access, by task-visible address. -/
def cellRows (cs : Cells) : List Nat := (cs.map fun c => c.2.toNat / 64).eraseDups

/-- The bits of a byte list. -/
def byteMask (bs : List Nat) : W128 := BitVec.ofNat 128 (bs.foldl (fun m b => m ||| 2 ^ b) 0)

/-- A scratchpad access: its cells where its guard is true, its load or its store. -/
def spadAct (slot : MSlot) (refs : List RegRef) (cells : State → Cells) (out : State → Cells → SylOut) : Act :=
  { mkAct (mNo slot) refs noPriv fun s =>
      let cs := cells s
      if cs.isEmpty then .skip
      else match cellsBad s cs with
        | some a => .raise .scratchBounds a
        | none => out s cs with
    rows := fun s => cellRows (cells s) }

/-- The cells of n bytes from an address up. -/
def runCells (a : W64) (bs : List Nat) : Cells := bs.map fun b => (b, a + BitVec.ofNat 64 b)

def scalarCells (f : MMem) (s : State) : Cells :=
  if guardOn f.g s then runCells (memAddr s f.base (sizeBytes f.w) f.off) (List.range (sizeBytes f.w)) else []

def actLds (f : MMem) : Act :=
  spadAct f.slot [.s f.d, .s f.base] (scalarCells f) fun s cs =>
    .later [pendS f.d (sext64 (spadGather s cs).toNat (8 * sizeBytes f.w)) 5 (mNo f.slot) 0]
def actLdsn (f : MMem) : Act :=
  spadAct f.slot [.s f.d, .s f.base] (scalarCells f) fun s cs =>
    .later [pendS f.d ((spadGather s cs).setWidth 64) 5 (mNo f.slot) 0]
def actSts (f : MMem) : Act :=
  spadAct f.slot [.s f.d, .s f.base] (scalarCells f) fun s cs => .now (spadScatter ((readS s f.d).setWidth 1024) cs)

/-- R192: the cells of a vector access, with the bytes whose guard is true. -/
def vectorCells (f : MMem) (s : State) : Cells :=
  runCells (memAddr s f.base 32 f.off) (guardBytes (guardLanes f.g s) (widthBytes f.w))

def loadV (f : BitVec 6) (w : BitVec 2) (slot : MSlot) (s : State) (cs : Cells) : SylOut :=
  .later [pendV f (spadGather s cs) (byteMask (cs.map (·.1))) (widthBytes w) 5 (mNo slot) 0]

def actLdv (f : MMem) : Act := spadAct f.slot [.v f.d, .s f.base] (vectorCells f) (loadV f.d f.w f.slot)
def actStv (f : MMem) : Act :=
  spadAct f.slot [.v f.d, .s f.base] (vectorCells f) fun s cs => .now (spadScatter (readV s f.d) cs)
/-- R192: the block of 32 bytes at the address, over the width. -/
def actLdvb (f : MMem) : Act :=
  spadAct f.slot [.v f.d, .s f.base] (fun s =>
    (guardBytes (guardLanes f.g s) (widthBytes f.w)).map fun b =>
      (b, memAddr s f.base 32 f.off + BitVec.ofNat 64 (b % 32))) (loadV f.d f.w f.slot)

/-- R193: elements whose guard bit is true. -/
def guardElems (g : Guard) (w e : BitVec 2) (s : State) : List Nat :=
  (List.range (widthBytes w / sizeBytes e)).filter fun i => (guardLanes g s).getLsbD (i * sizeBytes e)

/-- R193, R203: the address of element i by an index vector. -/
def indexAddr (s : State) (f : MIdx) (i : Nat) : W64 :=
  readS s f.base + BitVec.ofNat 64 (lane (readV s f.reg) i (8 * sizeBytes f.e) * sizeBytes f.e)
/-- R193: the address of element i by a stride. -/
def strideAddr (s : State) (f : MIdx) (i : Nat) : W64 := readS s f.base + BitVec.ofNat 64 i * readS s f.reg

def elemCells (f : MIdx) (addr : State → MIdx → Nat → W64) (s : State) : Cells :=
  ((guardElems f.g f.w f.e s).map fun i =>
    (List.range (sizeBytes f.e)).map fun b => (i * sizeBytes f.e + b, addr s f i + BitVec.ofNat 64 b)).flatten

def actLdvx (f : MIdx) : Act :=
  spadAct f.slot [.v f.d, .s f.base, .v f.reg] (elemCells f indexAddr) (loadV f.d f.w f.slot)
def actStvx (f : MIdx) : Act :=
  spadAct f.slot [.v f.d, .s f.base, .v f.reg] (elemCells f indexAddr) fun s cs => .now (spadScatter (readV s f.d) cs)
def actLdvs (f : MIdx) : Act :=
  spadAct f.slot [.v f.d, .s f.base, .s f.reg] (elemCells f strideAddr) (loadV f.d f.w f.slot)

/-! ## The checks of global accesses (R195, R38, R286) -/

/-- A span of a global access: its address and the bytes from it that are accessed. -/
abbrev Span := W64 × List Nat

/-- What the checks find: the bytes by IA with the bytes of the register, a fault, or what the bundle waits for. -/
inductive GCheck where
  | ok (cells : List (List (Nat × Nat)))
  | fault (c : Cause) (va : W64)
  | wait (f : State → State)

/-- Step 1 of R195: the IAs of a span. -/
def spanIas (s : State) (need : Need) (p : Span) : Option (List (Nat × Nat)) :=
  let lo := p.2.headD 0
  let hi := p.2.getLastD 0
  (addrCheck s s.core.sys.win (p.1 + BitVec.ofNat 64 lo) (p.1 + BitVec.ofNat 64 hi) need).map fun ia =>
    p.2.map fun b => (b, (ia.toNat + (b - lo)) % 2 ^ 56)

/-- The first accessed byte of each 64 KiB granule of a span, as VA and IA. -/
def pageHeads (p : Span) (cells : List (Nat × Nat)) : List (W64 × BitVec 56) :=
  (cells.foldl (fun acc c =>
    if acc.any (fun h : W64 × BitVec 56 => h.2.toNat / 65536 == c.2 / 65536) then acc
    else acc ++ [(p.1 + BitVec.ofNat 64 c.1, BitVec.ofNat 56 c.2)]) [])

/-- R38: the page checks of a list of bytes; monitor code has none (log entry 4), and the pages of an agent that is not
configured are unmapped (R32). -/
def headLook (s : State) (need : Need) (h : W64 × BitVec 56) : PageLook :=
  if s.core.mon then .ok
  else match pageLook s h.2 need with
    | .miss => if configured s (iaAgent h.2) then .miss else .page
    | r => r

/-- R38: probes go out to the homes of missing pages, once each; of a data access with what it needs of the page. -/
def askProbes (ias : List (BitVec 56 × Option Need)) (s : State) : State :=
  ias.foldl (fun st q =>
    let st1 := match q.2 with
      | some n => if st.core.needs.contains (q.1, n) then st else st.upCore fun c => { c with needs := c.needs ++ [(q.1, n)] }
      | none => st
    if st.core.probes.any fun x => pageBase x.1 0 == pageBase q.1 0 then st1
    else
      let st2 := st1.upCore fun c => { c with probes := c.probes ++ [(q.1, none)] }
      if isLocal s q.1 then st2 else st2.send (.probe (iaAgent q.1) q.1)) s

/-- R286: a core of the pod as the record of a strong access names it: its agent and its number on the die. -/
def coreKey (agent : BitVec 10) (cid : BitVec 8) : Nat := agent.toNat * 256 + cid.toNat
/-- R286: a strong access overlaps the recorded one of another core with another offset or size. -/
def mixedWith (s : State) (who ia n : Nat) : Bool :=
  match homeFind s (lineOf (BitVec.ofNat 56 ia)) with
  | some h => match h.mixed with
    | some (o, m, c) => c != who && !(o == ia % 64 && m == n) && decide (o < ia % 64 + n) && decide (ia % 64 < o + m)
    | none => false
  | none => false
def mixedClash (s : State) (ia n : Nat) : Bool := mixedWith s (coreKey s.core.agent s.core.cid) ia n

/-- R286: the home slice has the line of a strong access in its L2 when it checks it: it reads it in as for any access (R15, R62); a line that
cannot be had takes no record. -/
def strongLine (l : BitVec 50) (s : State) : State :=
  if !dramOnly s l || lineBad s l then s
  else
    let s1 := makeRoom l s
    if setFull s1 l then s1 else mcRead l (0, 0, 0) s.core.agent .cache s1
/-- R286: the record of a passing strong access, at a home of this die. -/
def noteStrong (ia n key : Nat) (s : State) : State :=
  let l := lineOf (BitVec.ofNat 56 ia)
  let s1 := strongLine l s
  if (homeFind s1 l).isSome then upHome l (fun h => { h with mixed := some (ia % 64, n, key) }) s1 else s1
def recordStrong (ia n : Nat) (s : State) : State :=
  if isLocal s (BitVec.ofNat 56 ia) then noteStrong ia n (coreKey s.core.agent s.core.cid) s else s

/-- R286: the check at a home of another agent, as far as it is known. -/
def strongAt (s : State) (ia n : Nat) : Option Bool :=
  match s.core.strong.find? fun q => q.1.toNat == ia && q.2.1 == n with
  | some (_, _, r) => r
  | none => none

def askStrong (accs : List (Nat × Nat)) (s : State) : State :=
  accs.foldl (fun st x =>
    let a : BitVec 56 := BitVec.ofNat 56 x.1
    if st.core.strong.any fun q => q.1 == a && q.2.1 == x.2 then st
    else (st.upCore fun c => { c with strong := c.strong ++ [(a, x.2, none)] }).send (.strongCheck (iaAgent a) a x.2 s.core.cid)) s

/-- R286: the check of strong accesses in debug mode. -/
def strongCheck (s : State) (spans : List Span) (cells : List (List (Nat × Nat))) : GCheck :=
  if !dbgOn s then .ok cells
  else
    let firsts := (List.zip spans cells).map fun p => (p.1.1 + BitVec.ofNat 64 (p.1.2.headD 0), (p.2.map (·.2)).headD 0, p.2.length)
    let away := firsts.filter fun x => !isLocal s (BitVec.ofNat 56 x.2.1)
    let unknown := away.filter fun x => (strongAt s x.2.1 x.2.2).isNone
    if !unknown.isEmpty then .wait (askStrong (unknown.map (·.2)))
    else
      let bad := firsts.filter fun x =>
        if isLocal s (BitVec.ofNat 56 x.2.1) then mixedClash s x.2.1 x.2.2 else strongAt s x.2.1 x.2.2 == some false
      match lowestBad (fun _ => true) (bad.map (·.1)) with
      | some a => .fault .mixedSize a
      | none => .ok cells

/-- R195: the checks of an access in their order; align is the address that must be a multiple of the number. -/
def gcheck (s : State) (spans : List Span) (need : Need) (align : Option (W64 × Nat)) (strong : Bool) : GCheck :=
  match lowestBad (fun _ => true) ((spans.filter fun p => (spanIas s need p).isNone).map fun p => p.1 + BitVec.ofNat 64 (p.2.headD 0)) with
  | some a => .fault .range a
  | none =>
    let cells := spans.map fun p => (spanIas s need p).getD []
    let heads := ((List.zip spans cells).map fun p => pageHeads p.1 p.2).flatten
    let looks := heads.map fun h => (h, headLook s need h)
    let miss := looks.filter fun x => x.2 == .miss
    if !miss.isEmpty then .wait (askProbes (miss.map fun x => (x.1.2, some need)))
    else match lowestBad (fun _ => true) ((looks.filter fun x => x.2 == .page).map fun x => x.1.1) with
      | some a => .fault .page a
      | none => match lowestBad (fun _ => true) ((looks.filter fun x => x.2 == .protect).map fun x => x.1.1) with
        | some a => .fault .protect a
        | none => match align with
          | some (a, n) => if a.toNat % n = 0 then (if strong then strongCheck s spans cells else .ok cells) else .fault .align a
          | none => .ok cells

/-- R197: a load-acquire or acquire atomic of the running level whose value has not arrived. -/
def acquireHold (s : State) : Bool :=
  s.core.awaits.any (fun a => a.acq && a.mon == s.core.mon) || s.core.accs.any fun g => g.acq

/-- A global access: checked, held behind an acquire, and then issued. -/
def globalOut (s : State) (spans : List Span) (need : Need) (align : Option (W64 × Nat)) (strong : Bool)
    (ok : List (List (Nat × Nat)) → SylOut) : SylOut :=
  if spans.all fun p => p.2.isEmpty then .skip
  else match gcheck s spans need align strong with
    | .fault c a => .raise c a
    | .wait f => .stall .engine f
    | .ok cells => if acquireHold s then .stall .structural id else ok cells

/-! ## Loads and stores (R194, R197) -/

/-- A load's scoreboard entry and its access. -/
def issueLoad (a : Await) (cells : List (Nat × Nat)) (acq : Bool) (scope : BitVec 3) (st : State) : State :=
  pushAcc (.load st.core.nextId) cells false acq scope
    (pushAwait { a with load := true, bytes := cells, acq := acq } st)

/-- The loads of a bundle issue before its other accesses (R154). Of an atomic in M0 and a load in M1 to one byte R196 would have the atomic
first and R154 the load: the load is (DESIGN CHOICE, log entry 109). -/
def loadAct (slot : MSlot) (refs : List RegRef) (span : State → Span) (align : Option Nat) (strong : Bool)
    (issue : State → List (Nat × Nat) → State → State) : Act :=
  let al := fun s => align.map fun n => ((span s).1, n)
  { mkAct (mNo slot) refs noPriv fun s => globalOut s [span s] .rd (al s) strong fun _ => .skip with
    early := fun s =>
      if (span s).2.isEmpty then s
      else match spanIas s .rd (span s) with
        | some cells => issue s cells s
        | none => s }

def scalarSpan (g : Guard) (base : BitVec 6) (w : BitVec 2) (off : MOff) (s : State) : Span :=
  (memAddr s base (sizeBytes w) off, if guardOn g s then List.range (sizeBytes w) else [])

/-- A scalar load. -/
def ldgAct (f : MMem) (sx : Bool) : Act :=
  loadAct f.slot [.s f.d, .s f.base] (scalarSpan f.g f.base f.w f.off) none false fun s cells =>
    issueLoad { scalarAwait s f.d (mNo f.slot) with
      va := memAddr s f.base (sizeBytes f.w) f.off, size := sizeBytes f.w, sext := sx } cells false 0
def actLdg (f : MMem) : Act := ldgAct f true
def actLdgn (f : MMem) : Act := ldgAct f false

def vectorSpan (f : MMem) (s : State) : Span :=
  (memAddr s f.base 32 f.off, guardBytes (guardLanes f.g s) (widthBytes f.w))

def actLdgv (f : MMem) : Act :=
  loadAct f.slot [.v f.d, .s f.base] (vectorSpan f) none false fun s cells =>
    issueLoad { scalarAwait s f.d (mNo f.slot) with
      vec := true, mask := byteMask (cells.map (·.1)), size := widthBytes f.w
      va := memAddr s f.base 32 f.off + BitVec.ofNat 64 ((cells.map (·.1)).headD 0) } cells false 0

/-- The cells of a store: each IA with its byte of a value. -/
def storeOf (v : W1024) (cells : List (Nat × Nat)) : List (Nat × Nat) :=
  cells.map fun c => (c.2, (v.extractLsb' (8 * c.1) 8).toNat)

def actStg (f : MMem) : Act :=
  mkAct (mNo f.slot) [.s f.d, .s f.base] noPriv fun s =>
    globalOut s [scalarSpan f.g f.base f.w f.off s] .w none false fun cs =>
      .now (pushAcc .store (storeOf ((readS s f.d).setWidth 1024) (cs.headD [])) false false 0)
def actStgv (f : MMem) : Act :=
  mkAct (mNo f.slot) [.v f.d, .s f.base] noPriv fun s =>
    globalOut s [vectorSpan f s] .w none false fun cs =>
      .now (pushAcc .store (storeOf (readV s f.d) (cs.headD [])) false false 0)

/-- R286: the records of strong accesses that pass. -/
def strongPost (s : State) (cs : List (List (Nat × Nat))) (st : State) : State :=
  if dbgOn s then cs.foldl (fun x c => recordStrong ((c.map (·.2)).headD 0) c.length x) st else st

def actLda (f : MOrd) : Act :=
  let span := scalarSpan f.g f.base f.w (.short f.off)
  loadAct f.slot [.s f.d, .s f.base] span (some (sizeBytes f.w)) true fun s cells st =>
    issueLoad { scalarAwait s f.d (mNo f.slot) with va := (span s).1, size := sizeBytes f.w, sext := true } cells true f.sc
      (strongPost s [cells] st)
def actStl (f : MOrd) : Act :=
  mkAct (mNo f.slot) [.s f.d, .s f.base] noPriv fun s =>
    let span := scalarSpan f.g f.base f.w (.short f.off) s
    globalOut s [span] .w (some (span.1, sizeBytes f.w)) true fun cs =>
      .now fun st => pushAcc .store (storeOf ((readS s f.d).setWidth 1024) (cs.headD [])) true false f.sc (strongPost s cs st)

/-! ## Atomics (R200 to R203) -/

/-- R146: the acquire and release parts of an order code. -/
def ordAcq (o : BitVec 2) : Bool := o.getLsbD 0
def ordRel (o : BitVec 2) : Bool := o.getLsbD 1

/-- The cells of an atomic: its IAs. -/
def atomCells (cells : List (Nat × Nat)) : List (Nat × Nat) := cells.map fun c => (c.2, 0)

/-- A scalar atomic of n bytes. -/
def atomAct (f : MOrd) (op : AtomOp) (n : Nat) (refs : List RegRef) (x y : State → W64) : Act :=
  mkAct (mNo f.slot) ([.s f.d, .s f.base] ++ refs) noPriv fun s =>
    let a := memAddr s f.base n (.short f.off)
    globalOut s [(a, if guardOn f.g s then List.range n else [])] .a (some (a, n)) true fun cs =>
      .now fun st =>
        let st1 := strongPost s cs st
        pushAcc (.atomic op (x s) (y s) (some st1.core.nextId)) (atomCells (cs.headD [])) (ordRel f.ord) (ordAcq f.ord) f.sc
          (pushAwait { scalarAwait s f.d (mNo f.slot) with va := a, size := n, acq := ordAcq f.ord } st1)

/-- The atomics whose operand is s(reg). -/
def atomReg (f : MOrd) (op : AtomOp) (n : Nat) : Act := atomAct f op n [.s f.reg] (fun s => readS s f.reg) (fun _ => 0)

def actAadd (f : MOrd) : Act := atomReg f .add (sizeBytes f.w)
def actAmin (f : MOrd) : Act := atomReg f .min (sizeBytes f.w)
def actAmax (f : MOrd) : Act := atomReg f .max (sizeBytes f.w)
def actAminn (f : MOrd) : Act := atomReg f .minn (sizeBytes f.w)
def actAmaxn (f : MOrd) : Act := atomReg f .maxn (sizeBytes f.w)
def actAand (f : MOrd) : Act := atomReg f .and (sizeBytes f.w)
def actAor (f : MOrd) : Act := atomReg f .or (sizeBytes f.w)
def actAxor (f : MOrd) : Act := atomReg f .xor (sizeBytes f.w)
def actAxchg (f : MOrd) : Act := atomReg f .xchg (sizeBytes f.w)
/-- R200: the pair s(reg), s(reg + 1). -/
def actAcas (f : MOrd) : Act :=
  atomAct f .cas (sizeBytes f.w) [.s f.reg, .s (f.reg + 1)] (fun s => readS s f.reg) (fun s => readS s (f.reg + 1))
/-- R201: w 01 adds BF16, w 10 FP32. -/
def actAfadd (f : MOrd) : Act := if f.w = 1 then atomReg f .faddB 2 else atomReg f .faddF 4

/-- R203: one atomic for each element; the release part before the first, the acquire part until the last. -/
def vecAtomAct (f : MIdx) (op : AtomOp) : Act :=
  mkAct (mNo f.slot) [.v f.d, .s f.base, .v f.reg] noPriv fun s =>
    let e := sizeBytes f.e
    let is := guardElems f.g f.w f.e s
    globalOut s (is.map fun i => (indexAddr s f i, List.range e)) .a (some (readS s f.base, e)) true fun cs =>
      .now fun st =>
        (List.zip is cs).foldl (fun x p =>
          pushAcc (.atomic op (BitVec.ofNat 64 (lane (readV s f.d) p.1 (8 * e))) 0 none) (atomCells p.2)
            (ordRel f.ord) (ordAcq f.ord) f.sc x (some (indexAddr s f p.1, mNo f.slot, pc s))) (strongPost s cs st)
def actVaor (f : MIdx) : Act := vecAtomAct f .or
def actVaadd (f : MIdx) : Act := vecAtomAct f .add

/-! ## DRAIN (R204) -/

/-- R204: every access issued before has been performed, and the values of loads have arrived. -/
def drained (s : State) : Bool :=
  s.core.accs.isEmpty && !s.core.awaits.any fun a => a.load && a.mon == s.core.mon

def actDrain (f : MDrain) : Act :=
  mkAct (mNo f.slot) [] noPriv fun s =>
    if !guardOn f.g s then .skip
    else if drained s then .now (engBarrier s.core.accSeq) else .stall .structural id

/-! ## Hints (R42, R43, R205 to R208) -/

/-- R43: one hint dropped. -/
def countHint (s : State) : State :=
  s.upSys fun y => { y with hintdrop := BitVec.ofNat 64 (min 0xFFFFFFFF (y.hintdrop.toNat + 1)) }

/-- R205: the length of a hint's range in bytes. -/
def hintLen (s : State) (d : BitVec 6) : Nat := let n := (readS s d).toNat % 2 ^ 32; min (2 ^ 20) (if n = 0 then 1 else n)

/-- R205: the first IA of a hint's range, where its window check passes. -/
def hintIa (s : State) (f : MMem) (need : Need) : Option (BitVec 56) :=
  let a := memAddr s f.base 64 f.off
  addrCheck s s.core.sys.win a (a + BitVec.ofNat 64 (hintLen s f.d - 1)) need

/-- The lines of n bytes from an IA. -/
def rangeLines (ia : BitVec 56) (n : Nat) : List (BitVec 50) :=
  let first := ia.toNat / 64
  (List.range ((ia.toNat + n - 1) / 64 - first + 1)).map fun i => BitVec.ofNat 50 (first + i)

/-- R205: the permission a hint's pages must grant. -/
def HintKind.need : HintKind → Need
  | .pin _ | .unpin _ _ => .x
  | _ => .rd

/-- R35, R43: what is known at once of a hint's page: a page of this die by the buffer of its home, and the pages of an agent that
is not configured are unmapped; any other page's home is asked. -/
def hintAnswer (s : State) (ia : BitVec 56) : Option ProbeReply :=
  if !configured s (iaAgent ia) then some .unmapped
  else if isLocal s ia && (bufferFind s.die.xlate (iaOffset ia)).isSome then some (homeReply s ia)
  else none

/-- What the home of a line answered a hint. -/
def hintLook (h : Hint) (l : BitVec 50) : PageLook :=
  if h.mon || h.kind matches .unpin _ _ then .ok
  else match h.probes.find? fun q => pageBase q.1 0 == pageBase (lineIa l) 0 with
    | some (_, some r) => replyLook h.kind.need r
    | _ => .miss

/-- The page that holds a line, as its home described it. -/
def hintPage (s : State) (h : Hint) (l : BitVec 50) : BitVec 56 :=
  if h.mon && isLocal s (lineIa l) then
    (match homeEntry s (iaOffset (lineIa l)) with | some e => pageBase (lineIa l) (entSize e) | none => pageBase (lineIa l) 0)
  else match h.probes.find? fun q => pageBase q.1 0 == pageBase (lineIa l) 0 with
    | some (_, some (.mapped size _ _ _)) => pageBase (lineIa l) size
    | _ => pageBase (lineIa l) 0

/-- R206: each line that finds a free request entry is asked for. -/
def prefWork (l1 : Bool) (id : Nat) (bad : Bool) (ls : List (BitVec 50)) (st : State) : State :=
  st.upCore fun c => { c with prefs := c.prefs ++ (ls.take (1024 - entriesUsed st)).map fun l => ⟨l, l1, id, bad⟩ }

def promoteWork (pages : List (BitVec 56)) (st : State) : State :=
  pages.foldl (fun x ia => if isLocal x ia then promotePage ia x else x.send (.promote (iaAgent ia) ia)) st

/-- R67, R207: the pin of a range. -/
def pinOf (ia : BitVec 56) (len : Nat) (l2 : Bool) : Pin :=
  let first := ia.toNat / 128
  ⟨BitVec.ofNat 49 first, (ia.toNat + len - 1) / 128 - first + 1, l2⟩

/-- R67: a pinned line is filled at once where it can be. -/
def pinFill (l2 : Bool) (c : BitVec 49) (s : State) : State := if l2 then codeFill c s else icacheFill c (codeFill c s)

/-- R67, R207: a pin is entered and its lines are asked for; with eight pins in use the instruction is ignored. -/
def pinWork (l2 : Bool) (h : Hint) (bad : Bool) (ls : List (BitVec 50)) (st : State) : State :=
  if 8 ≤ st.core.pins.length then st
  else
    let st1 := st.upCore fun c => { c with pins := c.pins ++ [pinOf h.ia h.len l2] }
    ((ls.map fun l => (l.extractLsb' 1 49 : BitVec 49)).eraseDups).foldl (fun x c => pinFill l2 c x)
      (prefWork false h.id bad (ls.filter fun l => !lineReadable st l) st1)

/-- R207: the pin that a range names is removed, or (all) every pin of the level. -/
def unpinWork (l2 all : Bool) (h : Hint) (st : State) : State :=
  if all then st.upCore fun c => { c with pins := c.pins.filter fun p => p.l2 != l2 }
  else st.upCore fun c => { c with pins := c.pins.erase (pinOf h.ia h.len l2) }

/-- R208: the L1's modified lines go to the L2 and stay clean. -/
def cleanL1 (ls : List (BitVec 50)) (st : State) : State :=
  let clean := fun x : BitVec 50 × L1State => if ls.contains x.1 && x.2 == .modified then (x.1, L1State.exclusive) else x
  st.upCore fun c => { c with l1 := c.l1.map clean }
def dropL1 (ls : List (BitVec 50)) (st : State) : State :=
  st.upCore fun c => { c with l1 := c.l1.filter fun x => !ls.contains x.1 }
/-- R208: lines of other agents are given up by the local slice. -/
def giveLines (ls : List (BitVec 50)) (st : State) : State :=
  ls.foldl (fun x l => if isLocal x (lineIa l) then x else giveUp l x) st

/-- R205 to R208: a hint works on the lines that their homes grant; where they refuse one it is counted, once. -/
def hintWork (h : Hint) (s : State) : State :=
  let ls := rangeLines h.ia h.len
  let good := ls.filter fun l => hintLook h l == .ok
  let bad := decide (good.length < ls.length)
  let st := if bad && h.live then countHint s else s
  match h.kind with
  | .pref l1 => prefWork l1 h.id bad good st
  | .keep => good.foldl (fun x l => l2Touch false l x) st
  | .evict => good.foldl (fun x l => l2Touch true l x) st
  | .promote => promoteWork ((good.map (hintPage s h)).eraseDups) st
  | .pin l2 => pinWork l2 h bad good st
  | .unpin l2 all => unpinWork l2 all h st
  | .clean l2 => if l2 then giveLines good (cleanL1 good st) else cleanL1 good st
  | .drop l2 => if l2 then giveLines good (dropL1 good st) else dropL1 good st

def HintKind.pins : HintKind → Bool
  | .pin _ | .unpin _ _ => true
  | _ => false
/-- R196, R207, R208: a hint may work: every page's home has answered; no earlier access of the core to a line that DCWB or DCINV moves is
unperformed, and no transaction of a line to be given up is outstanding (R47); and ICPIN and ICUNPIN work in order. -/
def hintReady (s : State) (h : Hint) : Bool :=
  h.probes.all (fun q => q.2.isSome) && match h.kind with
    | .clean l2 | .drop l2 =>
      let ls := rangeLines h.ia h.len
      !(s.core.accs.any fun g => decide (g.seq ≤ h.seq) && ls.contains g.line)
        && (!l2 || ls.all fun l => (requestOf s l).isNone && !(s.die.coh.later.any fun t => t.line == l))
    | .pin _ | .unpin _ _ => !s.core.hints.any fun x => x.kind.pins && decide (x.id < h.id)
    | _ => true

/-- The hints that may work do, in order. -/
def serveHints (s : State) : State :=
  s.core.hints.foldl (fun st h =>
    if hintReady st h then hintWork h (st.upCore fun c => { c with hints := c.hints.filter fun x => x.id != h.id }) else st) s

/-- R43, R205: a hint whose window check passes asks the homes of its pages and works on what they grant. Monitor code's pages are not
checked; of another agent's page its .promote asks the size (R206). ICUNPIN asks no home: it brings in nothing. -/
def startHint (kind : HintKind) (s : State) (ia : BitVec 56) (len : Nat) (st : State) : State :=
  let asks := fun (l : BitVec 50) => match kind with
    | .unpin _ _ => false
    | .promote => !s.core.mon || !isLocal s (lineIa l)
    | _ => !s.core.mon
  let pages := (((rangeLines ia len).filter asks).map fun l => pageBase (lineIa l) 0).eraseDups.map fun p => (p, hintAnswer s p)
  let ask := (pages.filter fun q => q.2.isNone && !isLocal s q.1).map (·.1)
  let st1 := ask.foldl (fun x p => x.send (.probe (iaAgent p) p)) st
  serveHints (st1.upCore fun c => { c with
    hints := c.hints ++ [⟨c.nextId, kind, ia, len, pages, c.accSeq, s.core.mon, true⟩], nextId := c.nextId + 1 })

/-- R43, R205: a hint instruction: its guard, its window check, and its work. -/
def hintAct (f : MMem) (kind : HintKind) : Act :=
  mkAct (mNo f.slot) [.s f.d, .s f.base] noPriv fun s =>
    if guardOn f.g s then
      match hintIa s f kind.need with
      | none => .now countHint
      | some ia => .now (startHint kind s ia (hintLen s f.d))
    else .skip

def actPref (f : MMem) : Act := hintAct f (.pref (f.w == 0))
/-- R206. -/
def actResid (f : MMem) : Act :=
  hintAct f (match f.w.toNat with | 0 => .keep | 1 => .evict | _ => .promote)
def actIcpin (f : MMem) : Act := hintAct f (.pin (f.w == 1))
/-- R207: with length 0 every pin of the level goes. -/
def actIcunpin (f : MMem) : Act :=
  mkAct (mNo f.slot) [.s f.d, .s f.base] noPriv fun s =>
    if guardOn f.g s then
      match hintIa s f .x with
      | none => .now countHint
      | some ia => .now (startHint (.unpin (f.w == 1) (decide ((readS s f.d).toNat % 2 ^ 32 = 0))) s ia (hintLen s f.d))
    else .skip
def actDcwb (f : MMem) : Act := hintAct f (.clean (f.w == 1))
def actDcinv (f : MMem) : Act := hintAct f (.drop (f.w == 1))

/-! ## Execution -/

/-- LDS (R191): the bundle of this syllable alone issues. -/
def execLds (f : MMem) (s : State) : Host.Outcome State Fault Refusal :=
  .next (issueActs [(actLds f).of (.lds f)] s)
/-- LDSN (R191): the bundle of this syllable alone issues. -/
def execLdsn (f : MMem) (s : State) : Host.Outcome State Fault Refusal :=
  .next (issueActs [(actLdsn f).of (.ldsn f)] s)
/-- STS (R191): the bundle of this syllable alone issues. -/
def execSts (f : MMem) (s : State) : Host.Outcome State Fault Refusal :=
  .next (issueActs [(actSts f).of (.sts f)] s)
/-- LDV (R192): the bundle of this syllable alone issues. -/
def execLdv (f : MMem) (s : State) : Host.Outcome State Fault Refusal :=
  .next (issueActs [(actLdv f).of (.ldv f)] s)
/-- STV (R192): the bundle of this syllable alone issues. -/
def execStv (f : MMem) (s : State) : Host.Outcome State Fault Refusal :=
  .next (issueActs [(actStv f).of (.stv f)] s)
/-- LDVX (R193): the bundle of this syllable alone issues. -/
def execLdvx (f : MIdx) (s : State) : Host.Outcome State Fault Refusal :=
  .next (issueActs [(actLdvx f).of (.ldvx f)] s)
/-- STVX (R193): the bundle of this syllable alone issues. -/
def execStvx (f : MIdx) (s : State) : Host.Outcome State Fault Refusal :=
  .next (issueActs [(actStvx f).of (.stvx f)] s)
/-- LDVB (R192): the bundle of this syllable alone issues. -/
def execLdvb (f : MMem) (s : State) : Host.Outcome State Fault Refusal :=
  .next (issueActs [(actLdvb f).of (.ldvb f)] s)
/-- LDVS (R193): the bundle of this syllable alone issues. -/
def execLdvs (f : MIdx) (s : State) : Host.Outcome State Fault Refusal :=
  .next (issueActs [(actLdvs f).of (.ldvs f)] s)
/-- LDG (R194): the bundle of this syllable alone issues. -/
def execLdg (f : MMem) (s : State) : Host.Outcome State Fault Refusal :=
  .next (issueActs [(actLdg f).of (.ldg f)] s)
/-- LDGN (R194): the bundle of this syllable alone issues. -/
def execLdgn (f : MMem) (s : State) : Host.Outcome State Fault Refusal :=
  .next (issueActs [(actLdgn f).of (.ldgn f)] s)
/-- STG (R194): the bundle of this syllable alone issues. -/
def execStg (f : MMem) (s : State) : Host.Outcome State Fault Refusal :=
  .next (issueActs [(actStg f).of (.stg f)] s)
/-- LDGV (R194): the bundle of this syllable alone issues. -/
def execLdgv (f : MMem) (s : State) : Host.Outcome State Fault Refusal :=
  .next (issueActs [(actLdgv f).of (.ldgv f)] s)
/-- STGV (R194): the bundle of this syllable alone issues. -/
def execStgv (f : MMem) (s : State) : Host.Outcome State Fault Refusal :=
  .next (issueActs [(actStgv f).of (.stgv f)] s)
/-- LDA (R197): the bundle of this syllable alone issues. -/
def execLda (f : MOrd) (s : State) : Host.Outcome State Fault Refusal :=
  .next (issueActs [(actLda f).of (.lda f)] s)
/-- STL (R197): the bundle of this syllable alone issues. -/
def execStl (f : MOrd) (s : State) : Host.Outcome State Fault Refusal :=
  .next (issueActs [(actStl f).of (.stl f)] s)
/-- AADD (R200): the bundle of this syllable alone issues. -/
def execAadd (f : MOrd) (s : State) : Host.Outcome State Fault Refusal :=
  .next (issueActs [(actAadd f).of (.aadd f)] s)
/-- AMIN (R200): the bundle of this syllable alone issues. -/
def execAmin (f : MOrd) (s : State) : Host.Outcome State Fault Refusal :=
  .next (issueActs [(actAmin f).of (.amin f)] s)
/-- AMAX (R200): the bundle of this syllable alone issues. -/
def execAmax (f : MOrd) (s : State) : Host.Outcome State Fault Refusal :=
  .next (issueActs [(actAmax f).of (.amax f)] s)
/-- AMINN (R200): the bundle of this syllable alone issues. -/
def execAminn (f : MOrd) (s : State) : Host.Outcome State Fault Refusal :=
  .next (issueActs [(actAminn f).of (.aminn f)] s)
/-- AMAXN (R200): the bundle of this syllable alone issues. -/
def execAmaxn (f : MOrd) (s : State) : Host.Outcome State Fault Refusal :=
  .next (issueActs [(actAmaxn f).of (.amaxn f)] s)
/-- AAND (R200): the bundle of this syllable alone issues. -/
def execAand (f : MOrd) (s : State) : Host.Outcome State Fault Refusal :=
  .next (issueActs [(actAand f).of (.aand f)] s)
/-- AOR (R200): the bundle of this syllable alone issues. -/
def execAor (f : MOrd) (s : State) : Host.Outcome State Fault Refusal :=
  .next (issueActs [(actAor f).of (.aor f)] s)
/-- AXOR (R200): the bundle of this syllable alone issues. -/
def execAxor (f : MOrd) (s : State) : Host.Outcome State Fault Refusal :=
  .next (issueActs [(actAxor f).of (.axor f)] s)
/-- AXCHG (R200): the bundle of this syllable alone issues. -/
def execAxchg (f : MOrd) (s : State) : Host.Outcome State Fault Refusal :=
  .next (issueActs [(actAxchg f).of (.axchg f)] s)
/-- ACAS (R200): the bundle of this syllable alone issues. -/
def execAcas (f : MOrd) (s : State) : Host.Outcome State Fault Refusal :=
  .next (issueActs [(actAcas f).of (.acas f)] s)
/-- AFADD (R201): the bundle of this syllable alone issues. -/
def execAfadd (f : MOrd) (s : State) : Host.Outcome State Fault Refusal :=
  .next (issueActs [(actAfadd f).of (.afadd f)] s)
/-- VAOR (R203): the bundle of this syllable alone issues. -/
def execVaor (f : MIdx) (s : State) : Host.Outcome State Fault Refusal :=
  .next (issueActs [(actVaor f).of (.vaor f)] s)
/-- VAADD (R203): the bundle of this syllable alone issues. -/
def execVaadd (f : MIdx) (s : State) : Host.Outcome State Fault Refusal :=
  .next (issueActs [(actVaadd f).of (.vaadd f)] s)
/-- DRAIN (R204): the bundle of this syllable alone issues. -/
def execDrain (f : MDrain) (s : State) : Host.Outcome State Fault Refusal :=
  .next (issueActs [(actDrain f).of (.drain f)] s)
/-- PREF (R206): the bundle of this syllable alone issues. -/
def execPref (f : MMem) (s : State) : Host.Outcome State Fault Refusal :=
  .next (issueActs [(actPref f).of (.pref f)] s)
/-- RESID (R206): the bundle of this syllable alone issues. -/
def execResid (f : MMem) (s : State) : Host.Outcome State Fault Refusal :=
  .next (issueActs [(actResid f).of (.resid f)] s)
/-- ICPIN (R207): the bundle of this syllable alone issues. -/
def execIcpin (f : MMem) (s : State) : Host.Outcome State Fault Refusal :=
  .next (issueActs [(actIcpin f).of (.icpin f)] s)
/-- ICUNPIN (R207): the bundle of this syllable alone issues. -/
def execIcunpin (f : MMem) (s : State) : Host.Outcome State Fault Refusal :=
  .next (issueActs [(actIcunpin f).of (.icunpin f)] s)
/-- DCWB (R208): the bundle of this syllable alone issues. -/
def execDcwb (f : MMem) (s : State) : Host.Outcome State Fault Refusal :=
  .next (issueActs [(actDcwb f).of (.dcwb f)] s)
/-- DCINV (R208): the bundle of this syllable alone issues. -/
def execDcinv (f : MMem) (s : State) : Host.Outcome State Fault Refusal :=
  .next (issueActs [(actDcinv f).of (.dcinv f)] s)

end Sys2Proof.Machine
end

