-- ==== Sys2Proof/Machine/Copy.lean ====
section
/-! DEFINITION. The copy channels (R77 to R93, R106 to R108, R165 to R173): layout sets, geometry, checks, movement,
completion, and the copy instructions. -/
namespace Sys2Proof.Machine

/-- The C slot's PRESENT bit (R142). -/
def cSlot : Nat := 9

/-- R273, R335: an asynchronous cause becomes pending. -/
def raiseAsync (f : Asyncs → Asyncs) (s : State) : State :=
  s.upCore fun c => { c with latch := true, asyncs := f c.asyncs }

/-- R331: a cause goes to the sequencer, which takes it at PROGRAM_FAULT_STOP; block is the completion block of the operator
concerned (R323), 0 for none. -/
def seqRaise (cause : Nat) (block tile detail : W64) (s : State) : State :=
  s.upDie fun d => { d with seq := { d.seq with
    raised := d.seq.raised ++ [(⟨0, 0, BitVec.ofNat 8 cause, 0, tile, detail⟩, block)] } }

/-! ## The extension word (R87) -/

def extSem (e : W32) : BitVec 8 := e.extractLsb' 0 8
def extThr (e : W32) : Nat := (e.extractLsb' 8 8).toNat
def extSig (e : W32) : BitVec 8 := e.extractLsb' 16 8
def extInc (e : W32) : Nat := (e.extractLsb' 24 8).toNat
/-- R87: a wait is met. -/
def extMet (s : State) (e : W32) : Bool := decide (extThr e ≤ (s.core.sem.get (extSem e).toFin).toNat)

/-- R91: the extension word of a record. -/
def recSync (r : Rec) : W32 := r.w0.extractLsb' 0 32
/-- R78, R87, R92: the commands of a queue start in issue order, each at the first moment its wait is met, and none behind a chain that
has not ended; the record of a chain passes its wait likewise. -/
def startQueue (met : W32 → Bool) : List Cmd → List Cmd
  | [] => []
  | c :: rest =>
    let c1 := if c.started || met c.ext then { c with started := true } else c
    let c2 := match c1.record with | some r => if met (recSync r) then { c1 with recGo := true } else c1 | none => c1
    if c2.started && c2.op != 0x06 then c2 :: startQueue met rest else c2 :: rest
/-- R87: what the semaphores let start now, those of the task that the core runs: what the wait of a record tests once the task of its chain has ended the
spec does not say (DESIGN CHOICE, log entry 111). A stopped channel starts nothing (R90). -/
def startWaits (s : State) : State :=
  s.upCore fun c => { c with channels := c.channels.map fun h =>
    if h.stop.isSome then h else { h with queue := startQueue (extMet s) h.queue } }

/-- A semaphore set, and what waits for it. -/
def setSem (m : BitVec 8) (v : Nat) (s : State) : State :=
  startWaits (s.upCore fun c => { c with sem := c.sem.set m.toFin (BitVec.ofNat 16 v) })
/-- R87, R176: a semaphore raised, saturating; an increment of 0 is no signal. -/
def semRaise (m : BitVec 8) (inc : Nat) (s : State) : State :=
  if inc = 0 then s
  else setSem m (min 0xFFFF ((s.core.sem.get m.toFin).toNat + inc)) (s.upCore fun c => { c with latch := true })

/-! ## The captured layout (R79, R82) -/

def lf (c : Cmd) (k : Nat) : W64 := c.layout.getD k 0
def lFmt (c : Cmd) : Nat := ((lf c 1).extractLsb' 0 4).toNat
def lRank (c : Cmd) : Nat := ((lf c 1).extractLsb' 4 3).toNat
def lSize (c : Cmd) : Nat → Nat
  | 0 => ((lf c 2).extractLsb' 0 32).toNat
  | 1 => ((lf c 2).extractLsb' 32 32).toNat
  | 2 => ((lf c 3).extractLsb' 0 21).toNat
  | 3 => ((lf c 3).extractLsb' 21 21).toNat
  | _ => ((lf c 3).extractLsb' 42 21).toNat
def lStride (c : Cmd) : Nat → Int
  | 1 => (lf c 4).toInt
  | 2 => (lf c 5).toInt
  | 3 => ((lf c 6).extractLsb' 0 32).toInt
  | 4 => ((lf c 6).extractLsb' 32 32).toInt
  | _ => 0
/-- BOX plus one: the tile's extent. -/
def lExt (c : Cmd) (d : Nat) : Nat := ((lf c 7).extractLsb' (12 * d) 12).toNat + 1
def lPmode (c : Cmd) : Nat := ((lf c 9).extractLsb' 32 2).toNat
def lPitch (c : Cmd) : Nat := ((lf c 9).extractLsb' 0 32).toNat
def arrivalOf (w : W64) : Bool × Nat := (w.getLsbD 10, (w.extractLsb' 0 10).toNat)

/-- R79: twice the element size, so that half a byte is a number. -/
def esize2 : Nat → Nat
  | 1 => 4
  | 2 => 8
  | 3 => 4
  | 4 => 4
  | 5 => 8
  | 8 => 1
  | 9 => 1
  | 10 => 16
  | _ => 2
def elemHalf (c : Cmd) : Nat := esize2 (lFmt c)

/-- R125, R84: the tile format of a layout format, where it is a matrix format. -/
def planeFmt : Nat → Option Nat
  | 0 => some 5
  | 3 => some 0
  | 4 => some 1
  | 6 => some 2
  | 7 => some 3
  | 8 => some 4
  | 9 => some 6
  | _ => none

/-- The kinds of command by C opcode (R165). -/
def Cmd.isIn (c : Cmd) : Bool := c.op == 0x04
def Cmd.isOut (c : Cmd) : Bool := c.op == 0x05
def Cmd.isChain (c : Cmd) : Bool := c.op == 0x06
def Cmd.isKv (c : Cmd) : Bool := c.op == 0x07
def Cmd.isState (c : Cmd) : Bool := c.op == 0x08
def Cmd.isMsg (c : Cmd) : Bool := c.op == 0x09
/-- Commands whose geometry the layout set gives. -/
def Cmd.isTile (c : Cmd) : Bool := c.isIn || c.isOut || c.isKv
/-- R171, R172: DIR of a CPYKV and of a CPYST. -/
def kvAppend (c : Cmd) : Bool := c.e2.getLsbD 63
def stIn (c : Cmd) : Bool := c.e1.getLsbD 63
/-- R91: a record's DIR, and the record in progress. -/
def recOf (c : Cmd) : Rec := c.record.getD ⟨0, 0, 0, 0, 0, 0, 0, 0⟩
def recDir (r : Rec) : Nat := (r.w0.extractLsb' 60 2).toNat
def recLen (r : Rec) : Nat := (r.w4.extractLsb' 0 32).toNat

/-- A command that writes the scratchpad, and so sets arrival bits (R86, R171, R172). -/
def Cmd.toSpad (c : Cmd) : Bool :=
  c.isIn || (c.isKv && !kvAppend c) || (c.isState && !stIn c) || (c.isChain && recDir (recOf c) == 0)

/-- R82, R171: the tile's origin. -/
def cOrigin (c : Cmd) (d : Nat) : Int :=
  if c.isKv then
    match d with
    | 0 => (c.e2.extractLsb' 0 20).toInt
    | 1 => (c.e2.extractLsb' 20 40).toInt
    | _ => 0
  else
    match d with
    | 0 => (c.e2.extractLsb' 0 20).toInt
    | 1 => (c.e2.extractLsb' 20 20).toInt
    | 2 => (c.e2.extractLsb' 40 12).toInt
    | 3 => (c.e2.extractLsb' 52 8).toInt
    | _ => (c.e2.extractLsb' 60 4).toInt

def rowlen (c : Cmd) : Nat := lExt c 0 * elemHalf c / 2
def pitchOf (c : Cmd) : Nat := if lPmode c = 1 ∨ lPitch c = 0 then rowlen c else lPitch c
def tileRows (c : Cmd) : Nat := lExt c 1 * (lExt c 2 * (lExt c 3 * lExt c 4))
def tileImages (c : Cmd) : Nat := lExt c 2 * (lExt c 3 * lExt c 4)
def planeBytes (c : Cmd) : Nat := match planeFmt (lFmt c) with | some f => imgBytes f | none => 0
/-- R82, R84: the bytes of the scratchpad from the first to the last of a tile. -/
def tileSpan (c : Cmd) : Nat :=
  if lPmode c = 1 then tileImages c * planeBytes c else (tileRows c - 1) * pitchOf c + rowlen c

/-- R100, R172, R348: the fields of a CPYST's packed pair. -/
def stLen (c : Cmd) : Nat := (c.e1.extractLsb' 47 16).toNat * 512
def stOff (c : Cmd) : Nat := (c.e1.extractLsb' 30 17).toNat * 512
def stAddr (c : Cmd) : W64 := BitVec.ofNat 64 ((c.e1.extractLsb' 0 16).toNat * 64)
/-- R173: the fields of a message word. -/
def msgLen (w : W64) : Nat := (w.extractLsb' 32 25).toNat
def msgTag (w : W64) : BitVec 16 := w.extractLsb' 16 16
def msgRank (w : W64) : BitVec 16 := w.extractLsb' 0 16

/-- Bytes that the command moves, as 512-byte pieces are counted (R86). -/
def cmdSpan (c : Cmd) : Nat :=
  if c.isTile then tileSpan c else if c.isState then stLen c else if c.isMsg then msgLen c.e2 else recLen (recOf c)
def pieces (c : Cmd) : Nat := (cmdSpan c + 511) / 512
/-- R86: AE and CHUNKBASE of the command. -/
def cmdArrival (c : Cmd) : Bool × Nat := arrivalOf (if c.isChain then (recOf c).w5 else lf c 10)

/-! ## The layout check (R84, R85, R100, R171 to R173) -/

/-- R84: what plane mode asks. -/
def planeOk (c : Cmd) : Bool :=
  (planeFmt (lFmt c)).isSome && decide (2 ≤ lRank c) && lExt c 0 == 128 && lExt c 1 == 32

def arrivalBad (c : Cmd) : Bool := c.toSpad && (cmdArrival c).1 && decide (1024 < (cmdArrival c).2 + pieces c)

/-- R85: the fields fail. -/
def layoutBad (c : Cmd) : Bool :=
  if c.isTile then
    let rank := lRank c
    decide (12 ≤ lFmt c) || rank == 0 || decide (5 < rank) || (c.isKv && rank != 2)
      || (List.range 5).any (fun d =>
        if d < rank then lSize c d == 0 else lSize c d != 0 || lExt c d != 1 || decide (cOrigin c d ≠ 0))
      || decide (2 ≤ lPmode c)
      || (lPmode c == 1 && (!planeOk c || c.isOut || (c.isKv && kvAppend c)))
      || (lPmode c == 0 && lPitch c != 0
          && (decide (lPitch c < rowlen c) || (decide (2 ≤ elemHalf c) && lPitch c % (elemHalf c / 2) != 0)))
      || (elemHalf c == 1 && (decide (cOrigin c 0 % 2 ≠ 0) || lExt c 0 % 2 == 1 || lSize c 0 % 2 == 1))
      || arrivalBad c
  else c.isState && arrivalBad c

/-- R171 to R173: the command's own operand words are malformed. -/
def operandBad (c : Cmd) : Bool :=
  c.bad || (c.isKv && c.e2.extractLsb' 60 3 != 0)
    || (c.isMsg && (c.e2.extractLsb' 57 7 != 0 || decide (msgLen c.e2 < 64) || decide (2 ^ 24 < msgLen c.e2)
        || msgLen c.e2 % 64 != 0 || decide (c.gsize.toNat ≤ (msgRank c.e2).toNat)))

/-! ## Global addresses of a tile (R82, R107) -/

/-- The in-bound coordinates of a dimension, first and last, where there are any. -/
def inBounds (c : Cmd) (d : Nat) : Option (Int × Int) :=
  let lo := max 0 (cOrigin c d)
  let hi := min (cOrigin c d + lExt c d - 1) ((lSize c d : Int) - 1)
  if decide (lRank c ≤ d) then some (0, 0) else if lo ≤ hi then some (lo, hi) else none

/-- The byte offset of element coordinate c0 in its row. -/
def rowByte (c : Cmd) (x : Int) : Int := x * elemHalf c / 2
/-- The bytes of an element that its address names: a byte of a 4-bit format holds two. -/
def elemBytes (c : Cmd) : Nat := (elemHalf c + 1) / 2

/-- R82: the lowest and the highest global byte of the in-bound elements of a tile, as addresses. -/
def tileReach (c : Cmd) : Option (W64 × W64) :=
  match inBounds c 0, inBounds c 1, inBounds c 2, inBounds c 3, inBounds c 4 with
  | some r0, some r1, some r2, some r3, some r4 =>
    let ends := [(1, r1), (2, r2), (3, r3), (4, r4)]
    let lo := (ends.map fun e => let st := if e.1 < lRank c then lStride c e.1 else 0; min (e.2.1 * st) (e.2.2 * st)).foldl (· + ·) (rowByte c r0.1)
    let hi := (ends.map fun e => let st := if e.1 < lRank c then lStride c e.1 else 0; max (e.2.1 * st) (e.2.2 * st)).foldl (· + ·)
      (rowByte c r0.2 + elemBytes c - 1)
    some (lf c 0 + BitVec.ofInt 64 lo, lf c 0 + BitVec.ofInt 64 hi)
  | _, _, _, _, _ => none

/-- R107: the logical blocks that hold an in-bound token. -/
def kvBlocks (c : Cmd) : List Nat :=
  match inBounds c 0, inBounds c 1 with
  | some _, some (lo, hi) => (List.range (hi.toNat / 16 - lo.toNat / 16 + 1)).map fun i => lo.toNat / 16 + i
  | _, _ => []
/-- R106: the VA of a block's table entry. -/
def kvEntryVa (c : Cmd) (b : Nat) : W64 := lf c 11 + BitVec.ofNat 64 (8 * b)
/-- R106: the VA an entry gives, its bit 51 extended. -/
def kvBlockVa (e : W64) : W64 := sext64 (e.toNat % 2 ^ 52 / 64 * 64) 52
/-- R107: the lowest and highest in-bound byte of a block. -/
def kvReach (c : Cmd) (b : Nat) (va : W64) : W64 × W64 :=
  match inBounds c 0, inBounds c 1 with
  | some r0, some (lo, hi) =>
    let t0 : Int := max lo (16 * b) - 16 * b
    let t1 : Int := min hi (16 * b + 15) - 16 * b
    let st := lStride c 1
    let base := va + lf c 0
    (base + BitVec.ofInt 64 (min (t0 * st) (t1 * st) + rowByte c r0.1),
     base + BitVec.ofInt 64 (max (t0 * st) (t1 * st) + rowByte c r0.2 + elemBytes c - 1))
  | _, _ => (va, va)

/-- Where a byte of a tile comes from or goes to: a gap between rows, an element out of bounds, or a VA with the first and the last
byte of the range that its window holds (R30); pending where its block has not been read. -/
inductive ByteAt where
  | gap
  | fill (b : Byte)
  | at (va : W64) (range : W64 × W64)
  | pending
deriving DecidableEq, Repr

/-- R79, R83: the fill byte at byte i of an element. -/
def fillByte (c : Cmd) (i : Nat) : Byte :=
  if elemHalf c = 1 then BitVec.ofNat 8 ((lf c 8).toNat % 16 * 17)
  else BitVec.ofNat 8 ((lf c 8).toNat >>> (8 * (i % (elemHalf c / 2))))

/-- R82, R107: the byte col of packed row r of a tile. -/
def rowAt (c : Cmd) (r col : Nat) : ByteAt :=
  let j0 := if elemHalf c = 1 then 2 * col else col / (elemHalf c / 2)
  let sub := if elemHalf c = 1 then 0 else col % (elemHalf c / 2)
  let j : Nat → Nat := fun d => match d with
    | 0 => j0
    | 1 => r % lExt c 1
    | 2 => r / lExt c 1 % lExt c 2
    | 3 => r / lExt c 1 / lExt c 2 % lExt c 3
    | _ => r / lExt c 1 / lExt c 2 / lExt c 3
  let co : Nat → Int := fun d => cOrigin c d + j d
  if (List.range (lRank c)).all fun d => decide (0 ≤ co d) && decide (co d < lSize c d) then
    if c.isKv then
      let b := (co 1).toNat / 16
      match c.blocks.find? fun x => x.1 == b with
      | some (_, va) => .at (va + lf c 0 + BitVec.ofInt 64 ((co 1 - 16 * b) * lStride c 1 + rowByte c (co 0) + sub)) (kvReach c b va)
      | none => .pending
    else
      .at (lf c 0 + BitVec.ofInt 64 (((List.range (lRank c)).map fun d => if d = 0 then 0 else co d * lStride c d).foldl (· + ·)
        (rowByte c (co 0) + sub))) ((tileReach c).getD (0, 0))
  else .fill (fillByte c col)

/-- R82: the byte at an offset from the tile's first scratchpad byte, in packed mode. -/
def tileAt (c : Cmd) (o : Nat) : ByteAt := if rowlen c ≤ o % pitchOf c then .gap else rowAt c (o / pitchOf c) (o % pitchOf c)

/-! ## Addresses of a command -/

/-- R70, R71: the physical scratchpad address of a byte for the command. -/
def cmdLook (c : Cmd) (a : W64) : Option Nat :=
  if a.toNat < 2 ^ 22 then (if c.phys then some a.toNat else spadMap c.spw a.toNat) else none

/-- R30: the windows captured at issue. -/
def cmdWindow (c : Cmd) (first last : W64) (need : Need) : Option (BitVec 56) :=
  if c.phys then (if canonical first && canonical last then some (first.setWidth 56) else none)
  else (windowCheck c.win first last need).map (·.1)

/-- R30: the IA of a byte of a range: by the window of the range's first byte. -/
def cmdIa (c : Cmd) (need : Need) (range : W64 × W64) (va : W64) : Option Nat :=
  (cmdWindow c range.1 range.2 need).map fun ia => (ia.toNat + (va - range.1).toNat) % 2 ^ 56

/-! ## Reading and writing global memory for an engine (R56, R77) -/

/-- Engines read global memory with UNC requests alone (R56, R77): a line of this die where no other agent owns it, and otherwise the
bytes that its home has sent to the same channel (its number plus one; 0 for the collective engine, the sequencer and the save engine).
Work that was issued after an access of the core with number seq uses no bytes that came before an acquire of that number or a lower
one completed (R88, R281). -/
def engReadable (s : State) (chan seq : Nat) (l : BitVec 50) : Bool :=
  (s.die.coh.uncLines.any fun u => u.line == l && u.chan == chan && match u.bar with | none => true | some b => decide (seq < b))
    || (isLocal s (lineIa l) && lineReadable s l)
/-- The lines of IAs that are not there yet. -/
def engMissing (s : State) (chan seq : Nat) (ias : List Nat) : List (BitVec 50) :=
  (linesOf ias).filter fun l => !engReadable s chan seq l && !lineBad s l
/-- R20: some line of these is uncorrectable, or not mapped (R32). -/
def engBad (s : State) (ias : List Nat) : Bool := (linesOf ias).any (lineBad s)
/-- R90: the subcause of a transfer with such a line: PAGE where one is not mapped, else MEM. -/
def engSub (s : State) (ias : List Nat) : Nat := if (linesOf ias).any fun l => lineBad s l && badInfo s l == 2 then 1 else 7
/-- The bytes brought uncached have been used. -/
def useUnc (chan : Nat) (ias : List Nat) (s : State) : State :=
  let ls := linesOf ias
  upCoh (fun k => { k with
    uncLines := k.uncLines.filter fun u => !(u.chan == chan && ls.contains u.line)
    badLines := k.badLines.filter fun b => !ls.contains b.line }) s

/-- A line an engine may write now: of this die with no other copy, or of another home with no request of ours out. -/
def engWritable (s : State) (l : BitVec 50) : Bool :=
  if isLocal s (lineIa l) then
    lineWritable s l || (lineBad s l && decide (entries s (homeSlice (lineIa l)) false < 64))
  else (requestOf s l).isNone
/-- R21: the bytes of an engine for an uncorrectable line of this die: all 64 replace it, fewer are discarded and recorded. -/
def engRepair (chan : Nat) (l : BitVec 50) (mask : BitVec 64) (d : LineData) (s : State) : State :=
  if mask == BitVec.allOnes 64 then
    enterTxn { txnOf .ownUnc (cohMsg s l) with
      mask := mask, data := d, eng := true, chan := chan, acc := some s.core.accSeq } (fillBuffer (iaOffset (lineIa l)) s)
  else logError .writeDiscarded 0 (lineIa l) s.core.agent .none s
/-- R56: bytes written by an engine: merged at a home of this die, or sent to the home as masked bytes. -/
def engWrite (chan : Nat) (cells : List (Nat × Byte)) (s : State) : State :=
  (linesOf (cells.map (·.1))).foldl (fun st l =>
    let mine := cells.filter fun c => lineOf (BitVec.ofNat 56 c.1) == l
    let mask : BitVec 64 := BitVec.ofNat 64 (mine.foldl (fun m c => m ||| 2 ^ (c.1 % 64)) 0)
    let d : LineData := BitVec.ofNat 512 (mine.foldl (fun m c => m ||| c.2.toNat <<< (8 * (c.1 % 64))) 0)
    if !isLocal st (lineIa l) then
      request { txnOf .ownUnc (cohMsg st l) with mask := mask, data := d, eng := true, chan := chan } st
    else if lineBad st l then engRepair chan l mask d st
    else storeCells (mine.map fun c => (c.1, c.2.toNat)) st) s
/-- Bytes that an engine writes as soon as their lines let it: at once, or by transactions of this die that wait at the home. -/
def engPost (cells : List (Nat × Byte)) (s : State) : State :=
  (linesOf (cells.map (·.1))).foldl (fun st l =>
    let mine := cells.filter fun c => lineOf (BitVec.ofNat 56 c.1) == l
    if engWritable st l || !isLocal st (lineIa l) then engWrite 0 mine st
    else
      let mask : BitVec 64 := BitVec.ofNat 64 (mine.foldl (fun m c => m ||| 2 ^ (c.1 % 64)) 0)
      let d : LineData := BitVec.ofNat 512 (mine.foldl (fun m c => m ||| c.2.toNat <<< (8 * (c.1 % 64))) 0)
      enterTxn { txnOf .ownUnc (cohMsg st l) with
        mask := mask, data := d, eng := true, acc := some st.core.accSeq } (fillBuffer (iaOffset (lineIa l)) st)) s
/-- R1, R49, R77: the lines of other homes among these IAs have room among the requests of the agent and of a copy channel. -/
def engRoom (s : State) (chan : Nat) (ias : List Nat) : Bool :=
  let n := ((linesOf ias).filter fun l => !isLocal s (lineIa l)).length
  n == 0 || (!noRoom s n && !chanFull s chan n)

/-- A write of these lines by an engine is on its way to another home. -/
def engWriting (s : State) : Bool := 
  (s.die.coh.requests ++ s.die.coh.later ++ s.die.coh.txns ++ s.die.coh.waiting).any fun t =>
    t.eng && t.kind == .ownUnc && t.src == s.core.agent

/-! ## Channels -/

/-- R77: the number plus one of the channel that a command is in. -/
def chanNo (c : Cmd) : Nat := (c.set.extractLsb' 0 2).toNat + 1

def chOf (s : State) (k : BitVec 2) : Channel := s.core.channels.get k.toFin
def setCh (k : BitVec 2) (f : Channel → Channel) (s : State) : State :=
  s.upCore fun c => { c with channels := c.channels.set k.toFin (f (c.channels.get k.toFin)) }
/-- The command at a place of a channel's queue replaced. -/
def setCmd (k : BitVec 2) (i : Nat) (c : Cmd) (s : State) : State := setCh k (fun h => { h with queue := h.queue.set i c }) s

/-- R93: a channel faults after its task has ended: the task's commands there are dropped, its join counter is not
decremented, and the sequencer is told (log entry 14). -/
def dropEnded (k : BitVec 2) (sub : Nat) (s : State) : State :=
  match (chOf s k).queue with
  | [] => s
  | c :: _ =>
    let s1 := setCh k (fun h => { h with queue := h.queue.filter fun x => x.live || x.leave != c.leave, stop := none, popped := 0 }) s
    seqRaise 2 c.block c.tile (BitVec.ofNat 64 sub) (s1.upCore fun k => { k with
      leaving := k.leaving.map fun l => if l.seq = c.leave && l.record.isNone then { l with counter := false } else l })

/-- R90, R93: a channel stops at its head: COPY_FAULT, the GROTTO_FAULT of R101, or a report for a task that has ended. -/
def stopChannel (k : BitVec 2) (sub : Nat) (s : State) : State :=
  let live := match (chOf s k).queue with | c :: _ => c.live | [] => true
  let s1 := setCh k (fun h => { h with stop := some (BitVec.ofNat 4 sub), popped := 0 }) s
  if !live then dropEnded k sub s
  else if sub = 9 then raiseAsync (fun a => { a with grottoFault := some 2 }) s1
  else raiseAsync (fun a => { a with copyFault := true }) s1

/-! ## Checks of a transfer (R39, R90) -/

/-- What a check of the head's transfer finds. -/
inductive Check where
  | good (c : Cmd)
  | stop (sub : Nat)
  | wait (c : Cmd) (f : State → State)

/-- The page of an answer. -/
def pageOf (ia : BitVec 56) : ProbeReply → Option (Nat × Nat)
  | .unmapped => none
  | .mapped size _ _ _ => some ((pageBase ia size).toNat, pageBytes size)

/-- What the homes have answered for an IA through the command's probes (R38, R40). -/
def probeFor (s : State) (c : Cmd) (ia : BitVec 56) : Option ProbeReply :=
  if !isLocal s ia && !configured s (iaAgent ia) then some .unmapped
  else match c.probes.find? fun p => p.1 == ia with
    | some (_, r) => r
    | none => none

/-- A probe to another home, once. -/
def askFor (c : Cmd) (ias : List (BitVec 56)) : Cmd × (State → State) :=
  let fresh := ias.filter fun ia => !c.probes.any fun p => p.1 == ia
  ({ c with probes := c.probes ++ fresh.map fun ia => (ia, none) },
   fun s => fresh.foldl (fun st ia => if isLocal st ia then st else st.send (.probe (iaAgent ia) ia)) s)

/-- R39: the probes of the first and the last byte of a transfer, with what each needs. The addresses of monitor code are not probed; an
agent that is not configured has no page (R32). -/
def probeEnds (s : State) (c : Cmd) (ends : List (BitVec 56 × Need)) (span : Option (BitVec 56 × BitVec 56)) : Check :=
  if c.phys then (if ends.any fun e => !isLocal s e.1 && !configured s (iaAgent e.1) then .stop 1 else .good c)
  else
    let unknown := (ends.filter fun e => (probeFor s c e.1).isNone).map (·.1)
    if !unknown.isEmpty then let a := askFor c unknown; .wait a.1 a.2
    else
      let looks := ends.map fun e => replyLook e.2 ((probeFor s c e.1).getD .unmapped)
      if looks.contains .page then .stop 1
      else if looks.contains .protect then .stop 2
      else
        let crossed := match span with
          | none => false
          | some (f, l) =>
            match pageOf f ((probeFor s c f).getD .unmapped), pageOf l ((probeFor s c l).getD .unmapped) with
            | some (fb, fn), some (lb, _) => fb != lb && fb + fn != lb
            | _, _ => false
        if crossed then .stop 3 else .good { c with pages := c.pages ++ ends.map (·.1), probes := [] }

/-- R39: a range of one window, probed at both ends. -/
def probeRange (s : State) (c : Cmd) (need : Need) (r : W64 × W64) : Check :=
  match cmdIa c need r r.1, cmdIa c need r r.2 with
  | some a, some b =>
    let f : BitVec 56 := BitVec.ofNat 56 a
    let l : BitVec 56 := BitVec.ofNat 56 b
    probeEnds s c [(f, need), (l, need)] (some (f, l))
  | _, _ => .stop 6

/-- R88: the accesses issued before the command that an acquire waits for, or that every command waits for: earlier acquires, a TAKE or
STEAL among them whose record is not released (R185). -/
def copyOrdered (s : State) (c : Cmd) (ord : BitVec 2) : Bool :=
  if ord.getLsbD 0 then !(s.core.accs.any fun g => decide (g.seq ≤ c.seq)) && !engWriting s
  else !(s.core.accs.any fun g => decide (g.seq ≤ c.seq) && g.acq) && !(s.core.awaits.any fun a => a.held.isSome)
/-- R88: what a release waits for. -/
def copyReleased (s : State) (c : Cmd) (ord : BitVec 2) : Bool :=
  !ord.getLsbD 1 || (!(s.core.accs.any fun g => decide (g.seq ≤ c.seq)) && !engWriting s)

/-- R108: an entry of the block translation cache. -/
def btcFind (s : State) (c : Cmd) (b : Nat) : Option W64 :=
  (s.core.btc.find? fun e => e.1 == lf c 11 && e.2.1 == b).map (·.2.2)
def btcPut (base : W64) (b : Nat) (e : W64) (s : State) : State :=
  s.upCore fun k => { k with btc := (base, b, e) :: (k.btc.filter fun x => !(x.1 == base && x.2.1 == b)).take 255 }

/-- R30, R107: the IA of a byte of the table, by the window of the entries that the copy reads. -/
def kvTable (c : Cmd) : W64 × W64 :=
  let bs := kvBlocks c
  (kvEntryVa c (bs.headD 0), kvEntryVa c (bs.getLastD 0) + 7)
def kvEntryIa (c : Cmd) (_ : Nat) (va : W64) : Option Nat := cmdIa c (if kvAppend c then .w else .rd) (kvTable c) va
/-- R107: the entry of the next block, from the cache or from memory; the line to bring first, or the stop. -/
inductive EntryRead where
  | entry (e : W64) (ias : List Nat)
  | stop (sub : Nat)
  | wait (c : Cmd) (f : State → State)
def kvEntry (s : State) (c : Cmd) (b : Nat) : EntryRead :=
  match btcFind s c b with
  | some e => .entry e []
  | none =>
    match kvEntryIa c b (kvEntryVa c b), kvEntryIa c b (kvEntryVa c b + 7) with
    | some a, some z =>
      match probeEnds s { c with pages := [] } [(BitVec.ofNat 56 a, .rd), (BitVec.ofNat 56 z, .rd)] none with
      | .stop k => .stop k
      | .wait c' f => .wait { c' with pages := c.pages } f
      | .good _ =>
        let ias := (List.range 8).map fun i => (a + i) % 2 ^ 56
        if engBad s ias then .stop (engSub s ias)
        else if !(engMissing s (chanNo c) c.seq ias).isEmpty then .wait c id
        else .entry (BitVec.ofNat 64 (ofBytes (ias.map fun i => s.die.mem.read i))) ias
    | _, _ => .stop 6

/-- R107: one block of a CPYKV checked. -/
def kvCheck (s : State) (c : Cmd) (b : Nat) : Check :=
  match kvEntry s c b with
  | .stop k => .stop k
  | .wait c' f => .wait c' f
  | .entry e ias =>
    if !e.getLsbD 63 then .stop 1
    else
      let need : Need := if kvAppend c then .w else .rd
      let r := kvReach c b (kvBlockVa e)
      match cmdWindow c r.1 r.2 need with
      | none => .stop 6
      | some _ =>
        match probeRange s c need r with
        | .stop k => .stop k
        | .wait c' f => .wait c' (fun st => btcPut (lf c 11) b e (useUnc (chanNo c) ias (f st)))
        | .good c' => .wait { c' with blocks := c'.blocks ++ [(b, kvBlockVa e)] }
            (fun st => btcPut (lf c 11) b e (useUnc (chanNo c) ias st))

/-! ### Copies of the state store (R100) -/

/-- R100: the checks of a CPYST of this die's controller. -/
def stateCheck (s : State) (c : Cmd) : Check :=
  match seqFind s c.e2 with
  | none => .stop 1
  | some q => if q.size * 512 < stOff c + stLen c then .stop 1 else .good c

/-! ### Records of a chain (R91, R92) -/

/-- The global ends of a record: first, last and what each needs. -/
def recGlobals (r : Rec) : List (W64 × W64 × Need) :=
  let n : W64 := BitVec.ofNat 64 (recLen r - 1)
  match recDir r with
  | 0 => [(r.w2, r.w2 + n, .rd)]
  | 1 => [(r.w3, r.w3 + n, .w)]
  | _ => [(r.w2, r.w2 + n, .rd), (r.w3, r.w3 + n, .w)]
/-- The scratchpad side of a record. -/
def recSpad (r : Rec) : Option W64 :=
  match recDir r with
  | 0 => some r.w3
  | 1 => some r.w2
  | _ => none
/-- R91: reserved fields that are set. -/
def recReserved (r : Rec) : Bool :=
  r.w0.getLsbD 62 || r.w0.extractLsb' 32 24 != 0 || r.w4.extractLsb' 32 32 != 0 || r.w5.extractLsb' 11 53 != 0
    || r.w6 != 0 || r.w7 != 0

def probeAll (s : State) : List (W64 × W64 × Need) → Cmd → Check
  | [], c => .good c
  | (a, b, need) :: rest, c =>
    match probeRange s c need (a, b) with
    | .good _ => probeAll s rest c
    | r => r

/-- R92 step 3. A record of no length or of DIR 3 has no range for the checks before LAYOUT. The record's own page stays held (R40). -/
def recCheck (s : State) (c : Cmd) (r : Rec) : Check :=
  if recDir r = 3 ∨ recLen r = 0 then .stop 4
  else if (recGlobals r).any fun g => (cmdWindow c g.1 g.2.1 g.2.2).isNone then .stop 6
  else if (match recSpad r with | some a => (spanBad (cmdLook c) a.toNat (recLen r)).isSome | none => false) then .stop 5
  else if recReserved r || decide (2 ^ 24 < recLen r) || arrivalBad c then .stop 4
  else
    match probeAll s (recGlobals r) c with
    | .good _ => .good { c with
        pages := c.pages ++ (recGlobals r).flatMap fun g => [g.1, g.2.1].filterMap fun v => (cmdIa c g.2.2 (g.1, g.2.1) v).map (BitVec.ofNat 56)
        probes := [] }
    | x => x

/-! ## Starting (R78, R87, R90) -/

/-- The checks of a command that has passed its wait; outside is the answer of the other die's controller for a CPYST. -/
def cmdCheck (s : State) (c : Cmd) (outside : Option Nat) : Check :=
  if layoutBad c || operandBad c then .stop 4
  else if c.isKv then
    match (kvBlocks c).find? fun b => !c.blocks.any fun x => x.1 == b with
    | none => .good c
    | some b => if copyOrdered s c c.ord then kvCheck s c b else .wait c id
  else if c.isTile then
    match tileReach c with
    | none => .good c
    | some r => probeRange s c (if c.isIn then .rd else .w) r
  else if c.isState then
    if handleAgent c.e2 == otherDie s then
      match outside, c.refused with
      | _, some k => .stop k
      | some 0, none => if c.asked then .good c else .wait c id
      | some k, none => if c.asked then .stop k else .wait c id
      | none, none =>
        if c.asked then .wait c id
        else .wait { c with asked := true } fun st =>
          st.send (.stateAsk (otherDie s) (c.set.extractLsb' 0 2) c.e2 (stOff c) (stLen c))
    else stateCheck s c
  else if c.isChain then
    match c.record with
    | some r => if c.recGo then recCheck s c r else .wait c id
    | none => .wait c id
  else .good c

/-- R78: the first command of a channel that is not moving yet, where every earlier one is: its place and itself. -/
def nextCmd (ch : Channel) : Option (Nat × Cmd) :=
  match ch.queue.findIdx? fun c => !c.checked with
  | none => none
  | some i =>
    match ch.queue[i]? with
    | some c => if i = 0 || (ch.queue.take i).all fun e => !e.isChain then some (i, c) else none
    | none => none

/-- R88: the order flags of the transfer in progress. -/
def moveOrd (c : Cmd) : BitVec 2 := if c.isChain then (recOf c).w0.extractLsb' 58 2 else c.ord

/-- COPY_COMMAND_START: the checks of the first command that is not moving yet, once its wait has been met. A command that fails the
layout check stops its channel as soon as it reaches the head (R90). A command that is not at the head and would fault waits until it
is. A CPYST of the other die asks that die's controller (R97); an answer that comes before the command is at the head is kept. What the
channel has read before the command, and before the accesses that an acquire waits for are performed, is not used by it (R88, R282). -/
def copyStart (k : BitVec 2) (outside : Option Nat) (s0 : State) : State :=
  let s := startWaits s0
  let ch := chOf s k
  if ch.stop.isSome then s
  else match nextCmd ch with
    | none => s
    | some (i, c) =>
      if i = 0 && layoutBad c then stopChannel k 4 s
      else if !c.started then s
      else match cmdCheck s c outside with
        | .good c' =>
          if !(moveOrd c').getLsbD 0 || copyOrdered s c' (moveOrd c') then setCmd k i { c' with checked := true, asked := false } (dropUnc (chanNo c) s)
          else setCmd k i c' s
        | .wait c' f => f (setCmd k i c' s)
        | .stop sub =>
          if i = 0 then stopChannel k sub s
          else if c.isState && outside.isSome then setCmd k i { c with refused := some sub } s
          else s

/-- CHAIN_RECORD_READ (R92 steps 1 and 2): the record at e1 is read, as a load-acquire; a record not owned ends the chain. That OWN = 0
may be written is checked with the read, before anything moves: the spec does not say when (DESIGN CHOICE, log entry 112). -/
def chainRead (k : BitVec 2) (s : State) : State :=
  match (chOf s k).stop, (chOf s k).queue with
  | none, c :: _ =>
    if !c.isChain || !c.started || c.checked || c.record.isSome then s
    else if c.e1.toNat % 64 ≠ 0 then stopChannel k 4 s
    else
      match cmdWindow c c.e1 (c.e1 + 63) .rd with
      | none => stopChannel k 6 s
      | some ia =>
        match probeEnds s { c with pages := [] } [(ia, .rd)] none with
        | .stop sub => stopChannel k sub s
        | .wait c' f => f (setCmd k 0 { c' with pages := c.pages } s)
        | .good _ =>
          let ias := (List.range 64).map fun i => (ia.toNat + i) % 2 ^ 56
          if engBad s ias then stopChannel k (engSub s ias) s
          else if !(engMissing s (chanNo c) c.seq ias).isEmpty || !copyOrdered s c 0 then s
          else
            let w := fun i => BitVec.ofNat 64 (s.die.mem.readNum (ia.toNat + 8 * i) 8)
            let s1 := dropUnc (chanNo c) (useUnc (chanNo c) ias s)
            let r : Rec := ⟨w 0, w 1, w 2, w 3, w 4, w 5, w 6, w 7⟩
            if !(w 0).getLsbD 63 then setCmd k 0 { c with checked := true, probes := [] } s1
            else
              match cmdWindow c c.e1 (c.e1 + 63) .w, probeEnds s { c with pages := [] } [(ia, .w)] none with
              | none, _ => stopChannel k 6 s1
              | some _, .stop sub => stopChannel k sub s1
              | some _, _ =>
                startWaits (setCmd k 0 { c with record := some r, recGo := false, landed := [], probes := [], pages := [ia] } s1)
  | _, _ => s

/-! ## Moving (R82 to R84, R86, R89, R100) -/

/-- R92: the range of one side of a record. -/
def recRange (r : Rec) (base : W64) : W64 × W64 := (base, base + BitVec.ofNat 64 (recLen r - 1))

/-- The bytes of piece p of the command: offsets from the first scratchpad byte, or into the record or message. -/
def pieceOffsets (c : Cmd) (p : Nat) : List Nat := (List.range (min 512 (cmdSpan c - 512 * p))).map fun i => 512 * p + i

/-- The tile bytes that piece p needs: itself, or in plane mode the packed bytes of its image (row, byte of the row). -/
def pieceBytes (c : Cmd) (p : Nat) : List ByteAt :=
  if lPmode c = 1 then
    let img := 512 * p / planeBytes c
    (List.range 32).flatMap fun k => (List.range (rowlen c)).map fun col => rowAt c (img * 32 + k) col
  else (pieceOffsets c p).map (tileAt c)

/-- The global bytes of piece p, as VAs with the range whose window holds them. -/
def pieceVas (c : Cmd) (p : Nat) : List (W64 × (W64 × W64)) :=
  if c.isTile then (pieceBytes c p).filterMap fun b => match b with | .at va r => some (va, r) | _ => none
  else if c.isChain then
    let r := recOf c
    let base := if recDir r = 1 then r.w3 else r.w2
    (pieceOffsets c p).map fun o => (base + BitVec.ofNat 64 o, recRange r base)
  else []

/-- Commands whose pieces read global memory. -/
def Cmd.readsGlobal (c : Cmd) : Bool := c.isIn || (c.isKv && !kvAppend c) || (c.isChain && recDir (recOf c) != 1)
/-- Commands whose pieces write global memory. -/
def Cmd.writesGlobal (c : Cmd) : Bool := c.isOut || (c.isKv && kvAppend c) || (c.isChain && recDir (recOf c) != 0)

def iasOf (c : Cmd) (need : Need) (vas : List (W64 × (W64 × W64))) : List Nat := vas.filterMap fun v => cmdIa c need v.2 v.1

/-- Of an offset of a command that writes global memory, the IA it writes. -/
def outIa (c : Cmd) (o : Nat) : Option Nat :=
  if c.isChain then cmdIa c .w (recRange (recOf c) (recOf c).w3) ((recOf c).w3 + BitVec.ofNat 64 o)
  else match tileAt c o with
    | .at va r => cmdIa c .w r va
    | _ => none
/-- R285: the 8-byte units that some of these IAs lie in and that are not among them whole. -/
def partUnits (ias : List Nat) : List Nat :=
  ((ias.map (· / 8)).eraseDups).filter fun u => !(List.range 8).all fun i => ias.contains (8 * u + i)
/-- R285: the offsets that piece p of a command writes to global memory: its own, and those of other pieces in an 8-byte unit that it
shares with them, each once. -/
def outOffsets (c : Cmd) (p : Nat) : List Nat :=
  let own := pieceOffsets c p
  let us := partUnits (own.filterMap (outIa c))
  let mates := if us.isEmpty then [] else (List.range (cmdSpan c)).filter fun o =>
    !own.contains o && match outIa c o with | some a => us.contains (a / 8) | none => false
  (own ++ mates).filter fun o => match outIa c o with | some a => !c.sent.contains a | none => false

/-- The IAs of the bytes that piece p moves. -/
def ownReads (c : Cmd) (p : Nat) : List Nat :=
  iasOf c .rd (if c.isChain && recDir (recOf c) == 2 then
    (outOffsets c p).map fun o => ((recOf c).w2 + BitVec.ofNat 64 o, recRange (recOf c) (recOf c).w2) else pieceVas c p)
/-- The IAs that piece p reads: those whose bytes an earlier piece has not brought (R285). -/
def pieceReads (c : Cmd) (p : Nat) : List Nat :=
  if c.readsGlobal then
    let own := ownReads c p
    let us := partUnits own
    let mates := if us.isEmpty then [] else
      ((List.range (pieces c)).flatMap fun q => if q = p then [] else iasOf c .rd (pieceVas c q)).filter fun a => us.contains (a / 8)
    ((own ++ mates).eraseDups).filter fun a => !c.held.any fun x => x.1 == a
  else []
/-- The IAs that piece p writes. -/
def pieceWrites (c : Cmd) (p : Nat) : List Nat := if c.writesGlobal then (outOffsets c p).filterMap (outIa c) else []

/-- The first scratchpad byte of the command. -/
def cmdSpadBase (c : Cmd) : W64 :=
  if c.isState then stAddr c else if c.isChain then (recSpad (recOf c)).getD 0 else c.e1

/-- R89: a byte as a command reads it: as it stood before a store of its own bundle that nothing has written over. -/
def ownByte (s : State) (c : Cmd) (p : Nat) : Byte :=
  let now := s.core.spad.read p
  match c.own.find? fun x => x.1 == p with
  | some (_, before, after) => if now = after then before else now
  | none => now
/-- A byte of the command's scratchpad side. -/
def cmdSpadRead (s : State) (c : Cmd) (o : Nat) : Byte :=
  match cmdLook c (cmdSpadBase c + BitVec.ofNat 64 o) with
  | some p => ownByte s c p
  | none => 0
/-- Bytes written at offsets of the command's scratchpad side. -/
def cmdSpadWrite (c : Cmd) (bs : List (Nat × Byte)) (s : State) : State :=
  s.setSpad (s.core.spad.writeCells (bs.filterMap fun b => (cmdLook c (cmdSpadBase c + BitVec.ofNat 64 b.1)).map fun p => (p, b.2)))

/-- A global byte that a checked command reads: as a piece before has brought it (R285), or as it stands now. -/
def globalByte (s : State) (c : Cmd) (range : W64 × W64) (va : W64) : Byte :=
  match cmdIa c .rd range va with
  | some ia => match c.held.find? fun x => x.1 == ia with | some x => x.2 | none => s.die.mem.read ia
  | none => 0
/-- The value of a tile byte read now. -/
def byteNow (s : State) (c : Cmd) : ByteAt → Byte
  | .fill b => b
  | .at va r => globalByte s c r va
  | _ => 0

/-- R84: a plane image's bytes for piece p. -/
def planePiece (s : State) (c : Cmd) (p : Nat) : List (Nat × Byte) :=
  match planeFmt (lFmt c) with
  | none => []
  | some f =>
    let img := 512 * p / planeBytes c
    let rows := (List.range 32).map fun k =>
      ofBytes ((List.range (rowlen c)).map fun col => byteNow s c (rowAt c (img * 32 + k) col))
    let image := planeImage f fun k j => packedElem f (rows.getD k 0) j
    (pieceOffsets c p).map fun o => (o, image.getD (o % planeBytes c) 0)

/-- The scratchpad bytes that piece p of a tile coming in writes. -/
def inBytes (s : State) (c : Cmd) (p : Nat) : List (Nat × Byte) :=
  if lPmode c = 1 then planePiece s c p
  else (pieceOffsets c p).filterMap fun o => match tileAt c o with
    | .gap => none
    | b => some (o, byteNow s c b)

/-- The global bytes that piece p of a tile going out writes. -/
def outBytes (s : State) (c : Cmd) (p : Nat) : List (Nat × Byte) :=
  (outOffsets c p).filterMap fun o => (outIa c o).map fun ia => (ia, cmdSpadRead s c o)

/-- What piece p of the record in progress moves. -/
def recMove (chan : Nat) (c : Cmd) (p : Nat) (s : State) : State :=
  let r := recOf c
  let src := fun (o : Nat) => globalByte s c (recRange r r.w2) (r.w2 + BitVec.ofNat 64 o)
  match recDir r with
  | 0 => cmdSpadWrite c ((pieceOffsets c p).map fun o => (o, src o)) s
  | 1 => engWrite chan (outBytes s c p) s
  | _ => engWrite chan ((outOffsets c p).filterMap fun o => (outIa c o).map fun ia => (ia, src o)) s

/-- R285: what the command keeps of a piece that has moved: the bytes read in units that other pieces share, and the IAs written. -/
def keepUnits (s : State) (p : Nat) (c : Cmd) : Cmd :=
  let reads := pieceReads c p
  let shared := if lPmode c = 1 && c.isTile then reads
    else let us := partUnits (ownReads c p); reads.filter fun a => us.contains (a / 8)
  let own := (pieceOffsets c p).filterMap (outIa c)
  { c with
    held := (if c.readsGlobal then shared.map fun a => (a, s.die.mem.read a) else []) ++ c.held
    sent := (if c.writesGlobal then (pieceWrites c p).filter fun a => !own.contains a else []) ++ c.sent }

/-- R86: the arrival bit of piece p. -/
def setArrival (c : Cmd) (p : Nat) (s : State) : State :=
  let a := cmdArrival c
  if c.toSpad && a.1 && c.live then
    let n := a.2 + p
    s.upCore fun k =>
      { k with ab := k.ab.setIfInBounds (n / 64) (k.ab.getD (n / 64) 0 ||| BitVec.ofNat 64 (2 ^ (n % 64))), latch := true }
  else s

/-- R76, R78: the command can write the scratchpad by way of a posted buffer of its own core. -/
def Cmd.toOwn (c : Cmd) : Bool := c.toSpad || (c.isMsg && msgRank c.e2 == c.rank)
/-- R78: an earlier command of the channel that still moves bytes: a later one waits where both write the scratchpad, global memory, or
the state store. -/
def blockedBy (earlier : List Cmd) (c : Cmd) : Bool :=
  earlier.any fun e => decide (e.landed.length < pieces e)
    && ((e.toOwn && c.toOwn) || (e.writesGlobal && c.writesGlobal) || (e.isState && stIn e && c.isState && stIn c))

/-- The lines that piece p waits for: to read, and to write. -/
def pieceNeeds (s : State) (c : Cmd) (p : Nat) : List (BitVec 50 × Bool) :=
  ((engMissing s (chanNo c) c.seq (pieceReads c p)).map fun l => (l, false))
    ++ ((linesOf (pieceWrites c p)).filter fun l => !engWritable s l).map fun l => (l, true)

/-- Piece p can move now. -/
def pieceReady (s : State) (earlier : List Cmd) (c : Cmd) (p : Nat) : Bool :=
  c.checked && decide (p < pieces c) && !c.landed.contains p && !blockedBy earlier c && (pieceNeeds s c p).isEmpty
    && engRoom s (chanNo c) (pieceWrites c p)
    && (c.isMsg || copyOrdered s c (moveOrd c))

def markLanded (k : BitVec 2) (i p : Nat) (c : Cmd) (s : State) : State :=
  setArrival c p (setCmd k i { c with landed := p :: c.landed } s)

/-- R86, R90: one piece of a copy of global memory lands. -/
def landPiece (k : BitVec 2) (i p : Nat) (s : State) : State :=
  let ch := chOf s k
  match ch.queue[i]? with
  | none => s
  | some c =>
    if ch.stop.isSome || !pieceReady s (ch.queue.take i) c p || c.isMsg || c.isState then s
    else if engBad s (pieceReads c p) then
      (if i = 0 then stopChannel k (engSub s (pieceReads c p)) (useUnc (chanNo c) (pieceReads c p) s) else s)
    else
      let moved :=
        if c.isChain then recMove (chanNo c) c p s
        else if c.toSpad then cmdSpadWrite c (inBytes s c p) s
        else engWrite (chanNo c) (outBytes s c p) s
      markLanded k i p (keepUnits s p c) (useUnc (chanNo c) (pieceReads c p) moved)

/-! ## Completing (R87, R92, R93) -/

def allLanded (c : Cmd) : Bool := decide (pieces c ≤ c.landed.length)

/-- R87: the signal of a command whose task has not ended. -/
def cmdSignal (c : Cmd) (e : W32) (s : State) : State := if c.live then semRaise (extSig e) (extInc e) s else s

/-- COPY_COMMAND_COMPLETE: the head completes in issue order, or the record in progress of a chain does: its signal, then OWN = 0, then
NEXT, where 0 ends the chain (R92). -/
def copyComplete (k : BitVec 2) (s : State) : State :=
  match (chOf s k).stop, (chOf s k).queue with
  | none, c :: rest =>
    if c.isChain then
      match c.record with
      | none =>
        if c.checked then startWaits (cmdSignal c c.ext (setCh k (fun h => { h with queue := rest }) s)) else s
      | some r =>
        let ia := (cmdIa c .w (c.e1, c.e1 + 63) c.e1).getD 0
        if c.checked && allLanded c && copyReleased s c (moveOrd c) && engWritable s (lineOf (BitVec.ofNat 56 ia))
            && engRoom s (chanNo c) [ia] then
          let s1 := cmdSignal c (recSync r) s
          let s2 := engWrite (chanNo c)
            ((List.range 8).map fun i => (ia + i, (toBytes 8 (r.w0 &&& 0x7FFFFFFFFFFFFFFF).toNat).getD i 0)) s1
          setCmd k 0 { c with
            e1 := r.w1, record := none, recGo := false, checked := r.w1 == 0, landed := [], pages := [], held := [], sent := [] } s2
        else s
    else if c.checked && allLanded c && copyReleased s c c.ord then
      cmdSignal c c.ext (setCh k (fun h => { h with queue := rest }) s)
    else s
  | _, _ => s

/-! ## Issue (R77, R78, R80, R90, R344) -/

/-- A command keeps its capture bank in use (R344). -/
def usesSet (c : Cmd) : Bool := c.isTile || c.isState

/-- R344: a capture bank for a copy that uses fields of a set: one that holds the set's value, or one that no command
references. -/
def pickBank (s : State) (set : BitVec 3) : Option Bool :=
  let cur := s.core.ls.get set.toFin
  let now := s.core.bankNow.getLsbD set.toNat
  let holds := fun (b : Bool) => (if b then s.core.bank1.get set.toFin else s.core.bank0.get set.toFin) == cur
  let busy := fun (b : Bool) =>
    s.core.channels.toList.any fun ch => ch.queue.any fun c => usesSet c && c.set == set && c.bank == b
  if holds now then some now
  else if holds (!now) then some (!now)
  else if !busy now then some now
  else if !busy (!now) then some (!now)
  else none

def fillBank (set : BitVec 3) (b : Bool) (s : State) : State :=
  s.upCore fun c =>
    let v := c.ls.get set.toFin
    { c with
      bank0 := if b then c.bank0 else c.bank0.set set.toFin v
      bank1 := if b then c.bank1.set set.toFin v else c.bank1
      bankNow := if b then c.bankNow ||| BitVec.ofNat 8 (2 ^ set.toNat) else c.bankNow &&& ~~~(BitVec.ofNat 8 (2 ^ set.toNat)) }

/-- R77: the channel of a layout set. -/
def chanOf (set : BitVec 3) : BitVec 2 := set.extractLsb' 0 2

/-- A command as it stands at issue (R78). -/
def newCmd (s : State) (op : BitVec 7) (set : BitVec 3) (ord sc : BitVec 2) (ext : W32) (e1 e2 : W64) : Cmd :=
  { op := op, set := set, ord := ord, sc := sc, ext := ext, e1 := e1, e2 := e2, layout := s.core.ls.get set.toFin
    win := s.core.sys.win, spw := s.core.sys.spw, bank := false, bad := false, started := false, checked := false
    blocks := [], landed := [], probes := [], pages := [], record := none, recGo := false, seq := s.core.accSeq
    phys := s.core.mon, live := true, own := [], held := [], sent := [], asked := false, rank := s.core.task.elim 0 (·.rank)
    gang := s.core.task.bind fun t => if t.gang then some t.domain else none
    tile := s.core.task.elim 0 (·.record.w3), block := s.core.task.elim 0 (·.record.w6), gsize := taskGangSize s, leave := 0, refused := none }

/-- R166: a scalar operand holds a scratchpad address. -/
def addrOk (a : W64) : Bool := a.extractLsb' 22 42 == 0

/-- R71, R90: the scratchpad span of a command fails. -/
def addrSpanFault (s : State) (a : W64) (n : Nat) : Option W64 :=
  if !addrOk a then some a else spanBad (spadAddr s) a.toNat n

/-- R89: the scratchpad bytes that the stores of a bundle have changed; s is the state at issue. -/
def ownStores (s st : State) : List (Nat × Byte × Byte) :=
  (memDiff (s.core.spad.length + st.core.spad.length) s.core.spad st.core.spad).map fun x => (x.1, x.2, st.core.spad.read x.1)

/-- A command enters its channel's queue at commit; s is the state at issue. -/
def pushCmd (s : State) (c : Cmd) (bank : Option Bool) (st : State) : State :=
  let st1 := match bank with | some b => fillBank c.set b st | none => st
  startWaits (setCh (chanOf c.set) (fun h => { h with queue := h.queue ++ [{ c with bank := bank.getD false, own := ownStores s st }] }) st1)

/-- R77, R78, R90, R344: a copy command at issue, after its checks. -/
def queueOut (s : State) (c : Cmd) : SylOut :=
  if 16 ≤ (chOf s (chanOf c.set)).queue.length then .stall .structural id
  else if usesSet c then
    match pickBank s c.set with
    | none => .stall .structural id
    | some b => .now (pushCmd s c (some b))
  else .now (pushCmd s c none)

/-- R82, R90, R107: the checks at issue of a tile command. -/
def tileIssue (s : State) (c : Cmd) : SylOut :=
  if layoutBad c then (if addrOk c.e1 then queueOut s c else .raise .scratchBounds c.e1)
  else
    let range : Option (W64 × W64 × Need) :=
      if c.isKv then
        match kvBlocks c with
        | [] => none
        | b :: bs => some (kvEntryVa c b, kvEntryVa c ((b :: bs).getLastD b) + 7, if kvAppend c then .w else .rd)
      else (tileReach c).map fun r => (r.1, r.2, if c.isIn then .rd else .w)
    match range with
    | some (a, b, need) =>
      if (cmdWindow c a b need).isNone then .raise .range a
      else match addrSpanFault s c.e1 (tileSpan c) with
        | some x => .raise .scratchBounds x
        | none => queueOut s c
    | none => match addrSpanFault s c.e1 (tileSpan c) with
      | some x => .raise .scratchBounds x
      | none => queueOut s c

def tileAct (op : BitVec 7) (f : CCopy) : Act :=
  mkAct cSlot [.s f.a, .s f.b] noPriv fun s =>
    if guardOn f.g s then tileIssue s (newCmd s op f.l f.ord f.sc f.ext (readS s f.a) (readS s f.b)) else .skip

def actCpyin (f : CCopy) : Act := tileAct 0x04 f
def actCpyout (f : CCopy) : Act := tileAct 0x05 f
def actCpykv (f : CCopy) : Act := tileAct 0x07 f

/-- R170: CPYCH checks its first record's address. -/
def actCpych (f : CChain) : Act :=
  mkAct cSlot [.s f.a] noPriv fun s =>
    if guardOn f.g s then
      let c := newCmd s 0x06 f.l 0 0 f.ext (readS s f.a) 0
      if (cmdWindow c c.e1 (c.e1 + 63) .rd).isNone then .raise .range c.e1 else queueOut s c
    else .skip

/-- R165: the registers of a pair. -/
def pairLo (p : BitVec 5) : BitVec 6 := (p ++ 0#1 : BitVec (5 + 1))
def pairHi (p : BitVec 5) : BitVec 6 := (p ++ 1#1 : BitVec (5 + 1))

/-- R172: the fields of a CPYST pair that are malformed. -/
def statePairBad (x y : W64) : Bool :=
  let len := (x.extractLsb' 32 25).toNat
  x.extractLsb' 57 6 != 0 || x.extractLsb' 22 10 != 0 || y.extractLsb' 26 38 != 0 || len == 0 || decide (2 ^ 24 < len)
    || len % 512 != 0 || (x.extractLsb' 0 22).toNat % 64 != 0 || (y.extractLsb' 0 26).toNat % 512 != 0

/-- R348: the packed form of a pair. -/
def packPair (x y : W64) : W64 :=
  BitVec.ofNat 64 ((if x.getLsbD 63 then 2 ^ 63 else 0) + (x.extractLsb' 32 25).toNat / 512 % 2 ^ 16 * 2 ^ 47
    + (y.extractLsb' 0 26).toNat / 512 * 2 ^ 30 + (x.extractLsb' 0 22).toNat / 64)

/-- R100, R172: the span of a CPYST is checked at issue. -/
def actCpyst (f : CState) : Act :=
  mkAct cSlot [.s (pairLo f.p), .s (pairHi f.p), .s f.b] noPriv fun s =>
    if guardOn f.g s then
      let x := readS s (pairLo f.p)
      let y := readS s (pairHi f.p)
      let c := { newCmd s 0x08 f.l 0 0 f.ext (packPair x y) (readS s f.b) with bad := statePairBad x y }
      match spanBad (spadAddr s) (x.extractLsb' 0 22).toNat (x.extractLsb' 32 25).toNat with
      | some a => .raise .scratchBounds a
      | none => queueOut s c
    else .skip

/-- R173: the source of a CPYMSG is checked at issue. -/
def actCpymsg (f : CCopy) : Act :=
  mkAct cSlot [.s f.a, .s f.b] noPriv fun s =>
    if guardOn f.g s then
      match addrSpanFault s (readS s f.a) (msgLen (readS s f.b)) with
      | some a => .raise .scratchBounds a
      | none => queueOut s (newCmd s 0x09 f.l f.ord f.sc f.ext (readS s f.a) (readS s f.b))
    else .skip

/-! ## Layout-set access and arrival bitmaps (R80, R169, R174) -/

/-- R80, R169: an LSW is an in-flight result that lands for the third bundle after it. -/
def actLsw (f : CLs) : Act :=
  mkAct cSlot [.s f.r] noPriv fun s =>
    if guardOn f.g s then
      .later [⟨.lsf f.l f.f, (readS s f.r &&& lsMask f.f.toNat).setWidth 1024, lowMask 8, 2, cSlot, 0, 1⟩]
    else .skip
/-- R169. -/
def actLsr (f : CLs) : Act :=
  mkAct cSlot [.s f.r] noPriv fun s => if guardOn f.g s then .now (pushResult s f.r cSlot (readLs s f.l f.f)) else .skip

def abOf (s : State) (n : BitVec 4) : W64 := s.core.ab.get n.toFin
/-- R174. -/
def actAbclr (f : CAb) : Act :=
  mkAct cSlot [.s f.a] noPriv fun s =>
    if guardOn f.g s then
      let m := readS s f.a
      .now fun st => st.upCore fun c => { c with ab := c.ab.set f.n.toFin (c.ab.get f.n.toFin &&& ~~~m) }
    else .skip
def actAbwait (f : CAb) : Act :=
  mkAct cSlot [.s f.a] noPriv fun s =>
    if guardOn f.g s then
      let m := readS s f.a
      if abOf s f.n &&& m = m then .skip else .stall .sem id
    else .skip

/-! ## Semaphores (R175, R176) -/

def semOf (s : State) (m : BitVec 8) : Nat := (s.core.sem.get m.toFin).toNat

def actSemset (f : CSem) : Act :=
  mkAct cSlot [.s f.a] noPriv fun s =>
    if guardOn f.g s then .now (setSem f.m ((readS s f.a).toNat % 2 ^ 16)) else .skip
def actSemadd (f : CSem) : Act :=
  mkAct cSlot [.s f.a] noPriv fun s =>
    if guardOn f.g s then
      let d := sextInt (readS s f.a).toNat 16
      .now fun st => setSem f.m (min 0xFFFF (max 0 ((semOf st f.m : Int) + d)).toNat) st
    else .skip
def actSemrd (f : CSem) : Act :=
  mkAct cSlot [.s f.a] noPriv fun s =>
    if guardOn f.g s then .now (pushResult s f.a cSlot (BitVec.ofNat 64 (semOf s f.m))) else .skip
def actSemwait (f : CSemw) : Act :=
  mkAct cSlot [.s f.a] noPriv fun s =>
    if guardOn f.g s then
      let v := (readS s f.a).toNat % 2 ^ 16
      if v ≤ semOf s f.m then (if f.take then .now (setSem f.m (semOf s f.m - v)) else .skip) else .stall .sem id
    else .skip

/-! ## Execution -/

/-- LSW (R169): the bundle of this syllable alone issues. -/
def execLsw (f : CLs) (s : State) : Host.Outcome State Fault Refusal :=
  .next (issueActs [(actLsw f).of (.lsw f)] s)
/-- LSR (R169): the bundle of this syllable alone issues. -/
def execLsr (f : CLs) (s : State) : Host.Outcome State Fault Refusal :=
  .next (issueActs [(actLsr f).of (.lsr f)] s)
/-- CPYIN (R170): the bundle of this syllable alone issues. -/
def execCpyin (f : CCopy) (s : State) : Host.Outcome State Fault Refusal :=
  .next (issueActs [(actCpyin f).of (.cpyin f)] s)
/-- CPYOUT (R170): the bundle of this syllable alone issues. -/
def execCpyout (f : CCopy) (s : State) : Host.Outcome State Fault Refusal :=
  .next (issueActs [(actCpyout f).of (.cpyout f)] s)
/-- CPYCH (R92): the bundle of this syllable alone issues. -/
def execCpych (f : CChain) (s : State) : Host.Outcome State Fault Refusal :=
  .next (issueActs [(actCpych f).of (.cpych f)] s)
/-- CPYKV (R107): the bundle of this syllable alone issues. -/
def execCpykv (f : CCopy) (s : State) : Host.Outcome State Fault Refusal :=
  .next (issueActs [(actCpykv f).of (.cpykv f)] s)
/-- CPYST (R100): the bundle of this syllable alone issues. -/
def execCpyst (f : CState) (s : State) : Host.Outcome State Fault Refusal :=
  .next (issueActs [(actCpyst f).of (.cpyst f)] s)
/-- CPYMSG (R173): the bundle of this syllable alone issues. -/
def execCpymsg (f : CCopy) (s : State) : Host.Outcome State Fault Refusal :=
  .next (issueActs [(actCpymsg f).of (.cpymsg f)] s)
/-- ABCLR (R174): the bundle of this syllable alone issues. -/
def execAbclr (f : CAb) (s : State) : Host.Outcome State Fault Refusal :=
  .next (issueActs [(actAbclr f).of (.abclr f)] s)
/-- ABWAIT (R174): the bundle of this syllable alone issues. -/
def execAbwait (f : CAb) (s : State) : Host.Outcome State Fault Refusal :=
  .next (issueActs [(actAbwait f).of (.abwait f)] s)
/-- SEMSET (R175): the bundle of this syllable alone issues. -/
def execSemset (f : CSem) (s : State) : Host.Outcome State Fault Refusal :=
  .next (issueActs [(actSemset f).of (.semset f)] s)
/-- SEMADD (R175): the bundle of this syllable alone issues. -/
def execSemadd (f : CSem) (s : State) : Host.Outcome State Fault Refusal :=
  .next (issueActs [(actSemadd f).of (.semadd f)] s)
/-- SEMRD (R175): the bundle of this syllable alone issues. -/
def execSemrd (f : CSem) (s : State) : Host.Outcome State Fault Refusal :=
  .next (issueActs [(actSemrd f).of (.semrd f)] s)
/-- SEMWAIT (R175): the bundle of this syllable alone issues. -/
def execSemwait (f : CSemw) (s : State) : Host.Outcome State Fault Refusal :=
  .next (issueActs [(actSemwait f).of (.semwait f)] s)

end Sys2Proof.Machine
end

