-- ==== Sys2Proof/Machine/Sched.lean ====
section
/-! DEFINITION. The dispatcher of the die (R72, R292 to R309): records, queues, placement, pre-emption, rotation, parking,
domains and gangs. -/
namespace Sys2Proof.Machine

/-! ## Records (R292) -/

def Rec.blank : Rec := ⟨0, 0, 0, 0, 0, 0, 0, 0⟩
def recGran (r : Rec) : Nat := (r.w4.extractLsb' 8 8).toNat
def recPosr (r : Rec) : Bool := r.w4.getLsbD 16
def recGang (r : Rec) : Bool := r.w4.getLsbD 17
def recDbg (r : Rec) : Bool := r.w4.getLsbD 18
def recGlevel (r : Rec) : BitVec 3 := r.w4.extractLsb' 19 3
def recAcl (r : Rec) : Nat := (r.w4.extractLsb' 24 6).toNat
def recDomain (r : Rec) : BitVec 16 := r.w4.extractLsb' 32 16
def recRank (r : Rec) : BitVec 16 := r.w4.extractLsb' 48 16

/-- The bytes of a record, and a record of eight words. -/
def recBytes (r : Rec) : List Byte :=
  [r.w0, r.w1, r.w2, r.w3, r.w4, r.w5, r.w6, r.w7].flatMap fun w => toBytes 8 w.toNat
def recOfWords (w : Nat → W64) : Rec := ⟨w 0, w 1, w 2, w 3, w 4, w 5, w 6, w 7⟩

def gangSize (g : Gang) : Nat := (g.w0.extractLsb' 48 16).toNat
def upDisp (f : Dispatcher → Dispatcher) (s : State) : State := s.upDie fun d => { d with disp := f d.disp }
def upGang (domain : BitVec 16) (f : Gang → Gang) (s : State) : State :=
  upDisp (fun d => { d with gangs := d.gangs.map fun g => if g.w0.extractLsb' 32 16 == domain then f g else g }) s

/-- R292, R305: a malformed record. -/
def recMalformed (s : State) (r : Rec) : Bool :=
  r.w4.extractLsb' 30 2 != 0 || r.w4.extractLsb' 22 2 != 0 || r.w4.getLsbD 7
    || (recGang r && (recGlevel r == 0 || decide (5 ≤ (recGlevel r).toNat)
        || match gangOf s (recDomain r) with
           | some g => decide (gangSize g ≤ (recRank r).toNat)
           | none => true))

/-! ## Messages and records in granule 63 (R70, R73, R75) -/

/-- R73: header bits [63:0] of a message. -/
def mailHeader (m : Msg) : W64 :=
  BitVec.ofNat 64 (m.tag.toNat * 2 ^ 48 + m.payload.length * 2 ^ 40 + m.gang.toNat * 2 ^ 16 + m.rank.toNat)
/-- R73, R350: a mailbox entry: 16 bytes of header, then the payload. -/
def mailBytes (m : Msg) : List Byte := toBytes 16 (mailHeader m).toNat ++ m.payload
/-- A section cut or filled with zero bytes to its size. -/
def padTo (n : Nat) (bs : List Byte) : List Byte := bs.take n ++ List.replicate (n - bs.length) 0
/-- The message whose entry begins at an address of the scratchpad. -/
def mailAt (read : Nat → Byte) (a : Nat) : Msg :=
  let w := fun (o n : Nat) => ofBytes ((List.range n).map fun i => read (a + o + i))
  { tag := BitVec.ofNat 16 (w 6 2), gang := BitVec.ofNat 16 (w 2 2), rank := BitVec.ofNat 16 (w 0 2)
    payload := (List.range (w 5 1)).map fun i => read (a + 16 + i) }
/-- R70: a slot of the mailbox spill area, and a place of the deque overflow area. -/
def spillAddr (k : Nat) : Nat := 0x3FC000 + 256 * k
def ovfAddr (k : Nat) : Nat := 0x3F4000 + 64 * k
/-- R75: the messages spilled by a core. -/
def spilled (s : State) : List Msg := s.core.spill.map fun k => mailAt s.core.spad.read (spillAddr k)
/-- Every message the core holds, oldest first. -/
def allMail (s : State) : List Msg := s.core.mbox ++ spilled s
/-- R75: a message into the lowest free slot of the spill area (log entry 91). -/
def spillMail (m : Msg) (s : State) : State :=
  match (List.range 64).find? fun k => !s.core.spill.contains k with
  | none => s
  | some k => (s.setSpad (s.core.spad.writeBytes (spillAddr k) (padTo 256 (mailBytes m)))).upCore fun c => { c with spill := c.spill ++ [k] }
/-- R73, R75: a message placed: in the hardware entries while nothing is spilled, else in the spill area. -/
def placeMail (m : Msg) (s : State) : State :=
  let s1 := s.upCore fun c => { c with latch := true }
  if s.core.spill.isEmpty && decide (s.core.mbox.length < 16) then s1.upCore fun c => { c with mbox := c.mbox ++ [m] }
  else spillMail m s1
/-- R75: places left in the mailbox and its spill area. -/
def mailPlaces (s : State) : Nat := 80 - (s.core.mbox.length + s.core.spill.length)
/-- R75: spilled messages move up as hardware entries free. -/
def refillMail (s : State) : State :=
  let n := 16 - s.core.mbox.length
  let up := (spilled s).take n
  s.upCore fun c => { c with mbox := c.mbox ++ up, spill := c.spill.drop n }
/-- R308: the running task is the one a message of a domain for a rank is for. -/
def mailMine (s : State) (gang : Bool) (domain rank : BitVec 16) : Bool :=
  match s.core.task with
  | some t => t.gang == gang && t.rank == rank && (!gang || t.domain == domain)
  | none => false
/-- R308: messages of the gang overflow for a rank that starts or returns, or whose mailbox has places again. -/
def takeOverflow (domain rank : BitVec 16) (s : State) : State :=
  match gangOf s domain with
  | none => s
  | some g =>
    let mine := (g.overflow.filter fun m => m.rank == rank).take (mailPlaces s)
    if mine.isEmpty then s
    else upGang domain (fun g => { g with overflow := g.overflow.filter fun m => !mine.contains m })
      (mine.foldl (fun st m => placeMail m.msg st) s)
/-- R308: the gang overflow has a slot: OVFN of them. -/
def ovfFree (g : Gang) : Option Nat :=
  (List.range (g.w0.extractLsb' 0 16).toNat).find? fun k => !g.overflow.any fun m => m.slot == k
/-- R75, R308: a slot as the HBM holds it, laid out as a spill slot, by IA (log entry 15). -/
def ovfCells (g : Gang) (k : Nat) (m : Msg) : List (Nat × Byte) :=
  (padTo 256 (mailBytes m)).zipIdx.map fun b => ((g.w1.toNat + 256 * k + b.2) % 2 ^ 56, b.1)
/-- R308: a message for a rank goes into the lowest free slot of its gang's overflow (log entry 91). What is read back is what was written
there (DEDUCED, log entry 114). -/
def toOverflow (rank : BitVec 16) (m : Msg) (s : State) : State :=
  match gangOf s m.gang with
  | none => s
  | some g => match ovfFree g with
    | none => s
    | some k => engPost (ovfCells g k m) (upGang m.gang (fun g => { g with overflow := g.overflow ++ [⟨rank, k, m⟩] }) s)
/-- R184: the record at a place of the overflow area, and a record put into its lowest free place (log entry 91). -/
def ovfRec (s : State) (o : OvfRec) : DequeRec :=
  ⟨recOfWords fun i => BitVec.ofNat 64 (s.core.spad.readNum (ovfAddr o.slot + 8 * i) 8), o.released, o.seqMax⟩
def putOvf (d : DequeRec) (s : State) : State :=
  match (List.range 512).find? fun k => !s.core.dequeOvf.any fun o => o.slot == k with
  | none => s
  | some k => (s.setSpad (s.core.spad.writeBytes (ovfAddr k) (recBytes d.record))).upCore fun c =>
      { c with dequeOvf := c.dequeOvf ++ [⟨k, d.released, d.seqMax⟩] }

/-! ## Granules (R72) -/

/-- Runs of consecutive numbers in an ascending list: first and length. -/
def groupRuns : List Nat → List (Nat × Nat)
  | [] => []
  | x :: xs =>
    match groupRuns xs with
    | [] => [(x, 1)]
    | (b, n) :: rs => if b = x + 1 then (x, n + 1) :: rs else (x, 1) :: (b, n) :: rs
/-- The first runs that cover n, the last cut to fit. -/
def cutRuns : Nat → List (Nat × Nat) → List (Nat × Nat)
  | _, [] => []
  | 0, _ => []
  | n, (b, k) :: rs => if n ≤ k then [(b, n)] else (b, k) :: cutRuns (n - k) rs
def freeGranules (s : State) : List Nat :=
  (List.range 60).filter fun g => s.core.granules.getD g .held == .free
/-- R72: the runs for n granules of those that are free, at most four. -/
def runsFrom (free : List Nat) (n : Nat) : Option (List (Nat × Nat)) :=
  let rs := cutRuns n (groupRuns free)
  if 60 < n then none
  else if rs.length ≤ 4 && (rs.map (·.2)).sum == n then some rs else none
def allocRuns (s : State) (n : Nat) : Option (List (Nat × Nat)) := runsFrom (freeGranules s) n
/-- R72: the SPW words of runs. -/
def spwOfRuns : Nat → List (Nat × Nat) → List W64
  | _, [] => []
  | v, (b, k) :: rs => BitVec.ofNat 64 (2 ^ 63 + v * 2 ^ 24 + b * 2 ^ 16 + k) :: spwOfRuns (v + k) rs
def runGranules (rs : List (Nat × Nat)) : List Nat := rs.flatMap fun r => (List.range r.2).map fun i => r.1 + i
def setGranules (gs : List Nat) (x : Granule) (s : State) : State :=
  s.upCore fun c => { c with granules := gs.foldl (fun v g => v.setIfInBounds g x) c.granules }
/-- R72: a task's regions on this core: SPW0 to SPW3 and the granules it holds. -/
def giveRegions (rs : List (Nat × Nat)) (s : State) : State :=
  let ws := spwOfRuns 0 rs
  let s1 := setGranules (runGranules rs) .held s
  (s1.upSys fun y => { y with spw := Vector.ofFn fun i => ws.getD i.val 0 }).upCore fun c => { c with taskGranules := runGranules rs }

/-! ## The FIFOs (R295, R297, R300) -/

def fifoLen (s : State) (p : Nat) : Nat := (s.die.disp.fifo.filter fun f => recPrio f.record == p).length
def fifoSpace (s : State) (p : Nat) : Bool := decide (fifoLen s p < 1024)
/-- R295: no place for an arrival: records of the level that wait in the return store come first. -/
def fifoFull (s : State) (p : Nat) : Bool :=
  !fifoSpace s p || s.die.disp.returns.any fun f => recPrio f.record == p

/-- R300: the effective priority of a record that has waited since a cycle. -/
def effPrio (s : State) (f : FifoRec) : Nat :=
  let p := recPrio f.record
  let iv := (s.core.sys.age.extractLsb' 0 32).toNat
  let cap := (s.core.sys.age.extractLsb' 32 7).toNat
  if iv = 0 then p else max p (min cap (p + (s.cycle - f.since) / iv))
/-- AGING_STEP: every waiting record's effective priority as it stands now. -/
def ageAll (s : State) : State :=
  upDisp (fun d => { d with fifo := d.fifo.map fun f => { f with eff := effPrio s f } }) s

/-- R297: the cluster of this die that a record names. -/
def aclCluster (s : State) (r : Rec) : Option Nat :=
  let die := s.core.agent.toNat % 2
  let a := recAcl r
  if a < 34 ∧ a / 17 = die then some (a % 17) else none
def ownCluster (s : State) : Nat := s.core.cid.toNat / 8

/-- A running task as the dispatcher sees it: core in die, priority, gang member, domain, end pending, being pre-empted, start. -/
structure Running where
  cid : Nat
  prio : Nat
  gang : Bool
  domain : BitVec 16
  ending : Bool
  victim : Bool
  start : Nat
deriving DecidableEq, Repr

/-- The running tasks of the die, one that is being restored on this core among them. -/
def runningAll (s : State) : List Running :=
  (match s.core.task with
   | some t => if s.core.run == .running then
       [⟨s.core.cid.toNat, recPrio t.record, t.gang, t.domain, pendEnd s != 0 || s.core.joinReq.isSome, s.core.asyncs.preempt.isSome, t.startTick⟩]
       else []
   | none => match s.core.restoring with
     | some (r, _) => [⟨s.core.cid.toNat, recPrio r, recGang r, recDomain r, false, s.core.asyncs.preempt.isSome, s.tick⟩]
     | none => [])
  ++ (s.die.disp.peers.filter fun p => !p.free && !p.offline).map fun p =>
    ⟨p.cid.toNat, p.prio.toNat, p.gang, p.domain, p.endPending, p.victim, p.startTick⟩

/-- The core of this model is free (R296): it runs nothing, its matrix unit is idle (R93). -/
def coreFree (s : State) : Bool :=
  s.core.run == .idle && s.core.task.isNone && s.core.restoring.isNone && !s.core.offline && s.core.mxQueue.isEmpty
    && s.core.mxRun.isNone && s.core.spillMove.isNone
/-- Free cores of the die. -/
def freeCores (s : State) : List Nat :=
  (if coreFree s then [s.core.cid.toNat] else []) ++ (s.die.disp.peers.filter fun p => p.free && !p.offline).map (·.cid.toNat)

/-- R297: no core of the cluster that a record names runs a task of equal or lower priority. -/
def clusterAbove (s : State) (r : Rec) : Bool := match aclCluster s r with
  | none => true
  | some k => !(runningAll s).any fun x => x.cid / 8 == k && decide (x.prio ≤ recPrio r)
/-- R297: a record's affinity lets cores outside its cluster take it. -/
def anyMayTake (s : State) (f : FifoRec) : Bool :=
  f.anyCore || decide (f.since + 4096 ≤ s.cycle) || clusterAbove s f.record
/-- AFFINITY_EXPIRY. -/
def expireAffinity (s : State) : State :=
  upDisp (fun d => { d with fifo := d.fifo.map fun f => if f.since + 4096 ≤ s.cycle then { f with anyCore := true } else f }) s

/-- R297: a record may be placed on a core by its affinity. -/
def affine (s : State) (f : FifoRec) (cid : Nat) : Bool :=
  match aclCluster s f.record with
  | none => true
  | some k => cid / 8 == k || anyMayTake s f

/-- R352: the saved context of a slot: in the save area of this core, or among the slots. -/
def ctxFind (s : State) (va : W64) : Option Ctx :=
  match s.core.saveArea with
  | some (v, x) => if v == va then some x else (s.die.disp.slots.find? fun y => y.1 == va).map (·.2)
  | none => (s.die.disp.slots.find? fun y => y.1 == va).map (·.2)

/-- A context that is no longer held. -/
def dropCtx (va : W64) (s : State) : State :=
  upDisp (fun d => { d with slots := d.slots.filter fun x => !(x.1 == va) })
    (s.upCore fun c => { c with saveArea := match c.saveArea with
      | some (v, x) => if v == va then none else some (v, x)
      | none => none })

/-- R331, R354: the context of a discarded record is released. -/
def releaseCtx (r : Rec) (s : State) : State :=
  if r.w7 = 0 then s
  else match ctxFind s r.w7 with
    | some x => setGranules x.granules .clearing (dropCtx r.w7 s)
    | none => s
/-- R331: a record of a program: its code is of one of the program's kernels. -/
def ofProgram (p : Program) (r : Rec) : Bool := p.kernels.any fun k => decide (k.lo.toNat ≤ r.w0.toNat) && decide (r.w0.toNat < k.hi.toNat)
/-- R331: a record of a program that has stopped. -/
def haltedRec (s : State) (r : Rec) : Bool := s.die.seq.programs.any fun p => s.die.seq.halted.contains p.image && ofProgram p r

/-- R72, R356: this core can serve a record's granules: those of its context are still here, or free runs cover them. -/
def canServe (s : State) (r : Rec) : Bool :=
  (allocRuns s (recGran r)).isSome || (r.w7 != 0 && match ctxFind s r.w7 with
    | some x => !x.granules.isEmpty
    | none => false)
/-- R199, R352: a context that another core takes has left this one, and what its task had sent is performed. -/
def leftCore (s : State) (r : Rec) : Bool :=
  r.w7 == 0 || match ctxFind s r.w7 with
    | some x => !x.inCore && x.granules.isEmpty && !engWriting s && s.core.spillMove.isNone
    | none => true
/-- R72: a core of the die can serve a record's granules; those of a context that another core holds are that core's matter. A context of
this core that another one chooses is written out first (R352). -/
def servesOn (s : State) (cid : Nat) (r : Rec) : Bool :=
  if cid = s.core.cid.toNat then canServe s r
  else match s.die.disp.peers.find? fun p => p.cid.toNat == cid with
    | some p => (runsFrom p.free60 (recGran r)).isSome || (r.w7 != 0 && (ctxFind s r.w7).isNone)
    | none => false
/-- R306: a gang member is placed with its gang; one of a placed gang returns alone (a parked member). -/
def aloneOk (s : State) (r : Rec) : Bool :=
  !recGang r || match gangOf s (recDomain r) with
    | some g => g.placed
    | none => false

/-- R305: a member that returns to a placed gang of level 1 returns to its cluster. -/
def clusterOk (s : State) (cid : Nat) (r : Rec) : Bool :=
  !recGang r || match (gangOf s (recDomain r)).bind (·.cluster) with
    | some k => cid / 8 == k
    | none => true

/-- A FIFO record may be placed on a core (R72, R297, R305, R306). -/
def mayPlace (s : State) (cid : Nat) (f : FifoRec) : Bool :=
  affine s f cid && servesOn s cid f.record && aloneOk s f.record && clusterOk s cid f.record

/-! ## Arrival and pre-emption (R295, R299, R307) -/

/-- R299: of two victims the one to take. -/
def betterVictim (a b : Running) : Bool :=
  if a.prio ≠ b.prio then decide (a.prio < b.prio)
  else if a.gang ≠ b.gang then !a.gang
  else if a.start ≠ b.start then decide (b.start < a.start)
  else decide (a.cid < b.cid)
def bestVictim : List Running → Option Running
  | [] => none
  | r :: rs => match bestVictim rs with
    | none => some r
    | some x => some (if betterVictim x r then x else r)

/-- R299: the cluster an arrival aims at. A task that is being pre-empted is no more a victim, nor does it name the cluster. -/
def targetCluster (s : State) (r : Rec) : Nat :=
  match aclCluster s r with
  | some k => k
  | none =>
    let rs := (runningAll s).filter fun x => !x.victim
    match (rs.map (·.prio)).foldl (fun acc p => match acc with | none => some p | some q => some (min p q)) none with
    | none => 0
    | some low => ((rs.filter fun x => x.prio == low).map fun x => x.cid / 8).foldl min 16

/-- A pre-emption request reaches a core of the die (R299, R307). -/
def preemptCore (cid : Nat) (kind : BitVec 3) (toHead : Bool) (s : State) : State :=
  if cid = s.core.cid.toNat then
    raiseAsync (fun a => { a with preempt := match a.preempt with
      | some k => some k
      | none => some (kind, toHead) }) s
  else
    (upDisp (fun d => { d with peers := d.peers.map fun p =>
      if p.cid.toNat == cid then { p with victim := true } else p }) s).send (.preemptPeer (BitVec.ofNat 8 cid))

/-- R307: every running member of a gang on this die but one is pre-empted with it; parked and ended members are left. -/
def preemptMates (domain : BitVec 16) (but : Nat) (toHead : Bool) (s : State) : State :=
  let mates := (runningAll s).filter fun r => r.gang && r.domain == domain && r.cid != but
  upGang domain (fun g => { g with placed := false, reservedRanks := [], cluster := none, remotePrio := 0 }) (mates.foldl (fun st m => preemptCore m.cid 4 toHead st) s)
/-- R307: a pre-emption of one member pre-empts the whole gang, on every die. -/
def preemptAll (v : Running) (kind : BitVec 3) (toHead : Bool) (s : State) : State :=
  let s1 := preemptCore v.cid kind toHead s
  if !v.gang then s1 else (preemptMates v.domain v.cid toHead s1).send (.preemptGang v.domain toHead)

/-- R299: what an arrival of a record does to the running tasks. -/
def arrive (r : Rec) (s : State) : State :=
  let k := targetCluster s r
  let here := (runningAll s).filter fun x => x.cid / 8 == k
  if (freeCores s).any (fun c => c / 8 == k) || here.any (·.ending) then s
  else match bestVictim (here.filter fun x => !x.victim && !(x.gang && heldGang s x.domain)) with
    | none => s
    | some v => if v.prio + s.core.sys.preemptDelta.toNat % 128 < recPrio r then preemptAll v 1 true s else s

/-- R300: a record before the first of its own level, else last. -/
def putFirst (f : FifoRec) : List FifoRec → List FifoRec
  | [] => [f]
  | x :: xs => if recPrio x.record = recPrio f.record then f :: x :: xs else x :: putFirst f xs

/-- A record placed in its FIFO, at the tail or at the head of its level, with the window set registered with it. -/
def fifoPut (win : Option (Vector W64 24)) (toHead : Bool) (r : Rec) (s : State) : State :=
  let f : FifoRec := ⟨r, s.cycle, false, recPrio r, toHead, win⟩
  let s1 := upDisp (fun d => { d with fifo := if toHead then putFirst f d.fifo else d.fifo ++ [f] }) s
  let s2 := if recGang r then upGang (recDomain r) (fun g => { g with queued := recRank r :: without (recRank r) g.queued }) s1 else s1
  arrive r s2

/-- R299: the record of highest priority, the oldest of those. -/
def firstPrio : List FifoRec → Option FifoRec
  | [] => none
  | f :: fs => match firstPrio fs with
    | none => some f
    | some g => some (if recPrio g.record ≤ recPrio f.record then f else g)
/-- RETURN_STORE_DRAIN: a record of the return store whose FIFO has space enters it, ahead of other arrivals: the oldest of its level, and
of records that enter in one cycle those of higher priority first (R299). -/
def returnDrain (s : State) : State :=
  match firstPrio (s.die.disp.returns.filter fun f => fifoSpace s (recPrio f.record)) with
  | none => s
  | some f => fifoPut f.win f.toHead f.record (upDisp (fun d => { d with returns := d.returns.erase f }) s)
/-- R295: every record of the return store that a FIFO has space for. -/
def drainAll : Nat → State → State
  | 0, s => s
  | n + 1, s => drainAll n (returnDrain s)

/-- R72, R292, R323, R331: a record that is never run: a notice, whose w0 is 0, what goes to the sequencer, and one of a program that has
stopped. -/
def neverRun (s : State) (r : Rec) : Option State :=
  if r.w0 = 0 then some (s.upDie fun d => { d with seq := { d.seq with notices := d.seq.notices ++ [r.w1] } })
  else if haltedRec s r then some (releaseCtx r s)
  else if recMalformed s r then some (seqRaise 3 r.w6 r.w3 0 s)
  else if 60 < recGran r then some (seqRaise 1 r.w6 r.w3 0 s)
  else none

/-- R295: a record enters the FIFO of its priority, after those of the return store, or the return store where the FIFO is full. -/
def fifoEnterWith (win : Option (Vector W64 24)) (toHead : Bool) (r : Rec) (s0 : State) : State :=
  match neverRun s0 r with
  | some s => s
  | none =>
    let s := drainAll s0.die.disp.returns.length s0
    if fifoFull s (recPrio r) then
      upDisp (fun d => { d with returns := d.returns ++ [⟨r, s.cycle, false, recPrio r, toHead, win⟩] }) s
    else fifoPut win toHead r s
/-- R293: a record without a window set of its own. -/
def fifoEnter (toHead : Bool) (r : Rec) (s : State) : State := fifoEnterWith none toHead r s

/-! ## Starting a task (R293, R294, R304) -/

/-- R294. -/
def taskIdOf (r : Rec) : W64 := r.w0 ^^^ r.w3.rotateLeft 32 ^^^ BitVec.ofNat 64 ((recRank r).toNat * 2 ^ 48)

/-- R304: DOMMEM of a task's gang and subdomains. -/
def dommemOf (t : TaskInfo) : W64 :=
  let subs := (if t.sub5.isSome then 1 else 0) + (if t.sub6.isSome then 2 else 0) + (if t.sub7.isSome then 4 else 0)
  let view := fun (l : Nat) (count id rank : BitVec 16) =>
    BitVec.ofNat 64 (count.toNat * 2 ^ 48 + id.toNat * 2 ^ 32 + rank.toNat * 2 ^ 16 + subs * 2 ^ 8 + l)
  match t.sub7, t.sub6, t.sub5 with
  | some d, _, _ => view 7 d.count d.sid d.srank
  | none, some d, _ => view 6 d.count d.sid d.srank
  | none, none, some d => view 5 d.count d.sid d.srank
  | none, none, none => if t.gang then view t.glevel.toNat t.gsize t.domain t.rank else view 0 1 0 0

def taskOfRec (s : State) (r : Rec) : TaskInfo :=
  let g := if recGang r then gangOf s (recDomain r) else none
  { record := r, gang := recGang r, glevel := if recGang r then recGlevel r else 0
    gsize := match g with | some x => x.w0.extractLsb' 48 16 | none => 1
    domain := recDomain r, rank := if recGang r then recRank r else 0
    sub5 := none, sub6 := none, sub7 := none, dropped := 0, startTick := s.tick, carried := none }

/-- R293: the window set of a fresh task: that of the range its entry lies in, else the one registered with its record. -/
def windowSet (s : State) (win : Option (Vector W64 24)) (r : Rec) : Option (Vector W64 24) :=
  match s.die.disp.windows.find? fun w => decide (w.1 ≤ r.w0.toNat) && decide (r.w0.toNat < w.2.1) with
  | some (_, _, v) => some v
  | none => win

/-- R293: registers of a fresh task. -/
def freshRegs (g : Regs) (r : Rec) : Regs :=
  { g with
    s := ((((Vector.replicate 64 (0 : W64)).set 1 r.w1).set 2 r.w2).set 3 r.w3).set 5 r.w5
    v := Vector.replicate 64 0
    p := Vector.replicate 32 0
    t := Vector.replicate 8 0
    acc0 := Vector.replicate 128 0
    acc1 := Vector.replicate 128 0
    ka := packLanes 8 (List.replicate 128 127)
    kb := packLanes 8 (List.replicate 128 127) }

def freshBars : Vector BarLevel 8 := Vector.replicate 8 ⟨0, false, false, 0, false⟩
def Asyncs.none : Asyncs := ⟨[], Option.none, false, Option.none, Option.none, Option.none, false, false, Option.none⟩

/-- A stream that starts at an address (R293, R336). -/
def streamAt (a : W64) : Stream := ⟨a &&& ~~~3, nextEntry, nextEntry, 0, none, none, none⟩

/-- R293: a fresh task starts on this core, with its windows and runs of granules. -/
def startFresh (r : Rec) (win : Vector W64 24) (rs : List (Nat × Nat)) (s : State) : State :=
  let t := taskOfRec s r
  let s1 := giveRegions rs (s.upRegs fun g => freshRegs g r)
  let s2 := s1.upSys fun y =>
    { y with
      vrm := 0, fpsr := 0, thr := 0, qcnt := 0, lpw := 0, lpe := 0, hintdrop := 0, mxlive := 0
      tstate := if recDbg r then 16 else 0
      win := win, dommem := dommemOf t, taskid := taskIdOf r }
  let s3 := s2.upCore fun c =>
    { c with
      run := .running, mon := false, task := some t, pcq := streamAt r.w0, pipe := [], snap := [], awaits := []
      asyncs := Asyncs.none, latch := true, joinReq := none, posr := none, probes := [], strong := []
      waiting := .none, waitCycles := 0, wfeCycles := 0, barCycles := 0, bankWait := 0, quantumUsed := 0, bundlesSince := 0
      ls := Vector.replicate 8 (Vector.replicate 12 0), bank0 := Vector.replicate 8 (Vector.replicate 12 0)
      bank1 := Vector.replicate 8 (Vector.replicate 12 0), bankNow := 0
      ab := Vector.replicate 16 0, sem := Vector.replicate 256 0, posts := [], posted := [], mbox := [], spill := []
      bars := freshBars, btc := [], weights := ⟨c.weights.hbmCeil, c.weights.linksCeil, c.weights.hbmCeil, c.weights.linksCeil⟩, reserved := none }
  takeOverflow t.domain t.rank s3

/-- R308: a member that has ended; with the last one the overflow is released. -/
def memberEnded (t : TaskInfo) (s : State) : State :=
  if !t.gang then s
  else
    let subs := [((5 : BitVec 3), t.sub5), (6, t.sub6), (7, t.sub7)].filterMap fun x => x.2.map fun d => (t.rank, x.1, d.sid)
    let s1 := upGang t.domain (fun g =>
      { g with ended := t.rank :: without t.rank g.ended, endedSubs := subs ++ g.endedSubs }) s
    match gangOf s1 t.domain with
    | none => s1
    | some g => if gangSize g ≤ g.ended.length then upGang t.domain (fun g => { g with overflow := [], placed := false }) s1 else s1

/-- A record taken for this core: a fresh one starts, or is given up without a window set (R293, R360); one with a context waits
for its restore (R356). win is the window set registered with it. -/
def placeHere (win : Option (Vector W64 24)) (r : Rec) (s : State) : State :=
  if r.w7 ≠ 0 then s.upCore fun c => { c with restoring := some (r, false), reserved := none }
  else
    match windowSet s win r, allocRuns s (recGran r) with
    | some w, some rs => (startFresh r w rs s).upCore fun c => { c with task := c.task.map fun t => { t with carried := win } }
    | none, _ => memberEnded (taskOfRec s r) (seqRaise 11 r.w6 r.w3 0 s)
    | some _, none => s

/-! ## A free core's choice (R184, R185, R296) -/

/-- Where a candidate record of a core stands: the bottom of its deque, its overflow area, a FIFO, the top of another core's deque. -/
inductive Source where
  | own
  | ovf
  | fifo (f : FifoRec)
  | peer (cid : Nat)
deriving DecidableEq, Repr

/-- R296: the other cores in the order of a search of a core's cluster, then of the die, each wrapping round. -/
def searchOrder (me : Nat) : List Nat :=
  let inCl := (List.range 8).map fun i => me / 8 * 8 + i
  let die := (List.range 136).filter fun c => c / 8 != me / 8
  let wrap := fun (l : List Nat) => l.filter (fun c => decide (me < c)) ++ l.filter fun c => decide (c < me)
  wrap inCl ++ wrap die

def peerOf (s : State) (cid : Nat) : Option Peer := s.die.disp.peers.find? fun p => p.cid.toNat == cid
def upPeer (cid : Nat) (f : Peer → Peer) (s : State) : State :=
  upDisp (fun d => { d with peers := d.peers.map fun p => if p.cid.toNat == cid then f p else p }) s

/-- The deque of a core of the die, top first, and its overflow area, oldest first. -/
def dequeOf (s : State) (cid : Nat) : List DequeRec :=
  if cid = s.core.cid.toNat then s.core.deque else match peerOf s cid with | some p => p.deque | none => []
def ovfOf (s : State) (cid : Nat) : List DequeRec :=
  if cid = s.core.cid.toNat then s.core.dequeOvf.map (ovfRec s) else match peerOf s cid with | some p => p.ovf | none => []

/-- The first record of each level of the FIFOs that a core may take, best effective priority first kept. -/
def bestFifo (ok : FifoRec → Bool) : List FifoRec → Option FifoRec
  | [] => none
  | f :: fs =>
    match bestFifo ok fs with
    | none => if ok f then some f else none
    | some g => if ok f && decide (g.eff ≤ f.eff) then some f else some g

/-- R380: a core of the die that is offline: no steal chooses it. -/
def offlineAt (s : State) (cid : Nat) : Bool :=
  if cid = s.core.cid.toNat then s.core.offline else s.die.disp.peers.any fun p => p.cid.toNat == cid && p.offline
/-- The record where a source of a core says, with the priority it competes at. -/
def atSource (s : State) (cid : Nat) : Source → Option (Nat × DequeRec)
  | .own => (dequeOf s cid).getLast?.map fun d => (recPrio d.record, d)
  | .ovf => (ovfOf s cid).getLast?.map fun d => (recPrio d.record, d)
  | .fifo f => some (f.eff, ⟨f.record, true, 0⟩)
  | .peer c => if offlineAt s c then none else (dequeOf s c).head?.map fun d => (recPrio d.record, d)

/-- R296: the candidates of a core in the order of the list, with the priority each competes at. -/
def candidates (s : State) (cid : Nat) : List (Nat × Source × DequeRec) :=
  ([if (dequeOf s cid).isEmpty then Source.ovf else Source.own]
    ++ (match bestFifo (mayPlace s cid) s.die.disp.fifo with | some f => [Source.fifo f] | none => [])
    ++ (searchOrder cid).map Source.peer).filterMap fun src => (atSource s cid src).map fun x => (x.1, src, x.2)

def bestCand : List (Nat × Source × DequeRec) → Option (Nat × Source × DequeRec)
  | [] => none
  | x :: xs => match bestCand xs with
    | none => some x
    | some y => some (if y.1 ≤ x.1 then x else y)

/-- R184: no access of the spawner, nor a write of a copy it has seen complete (R197), keeps a record of this core's deque back. -/
def releasedNow (s : State) (d : DequeRec) : Bool :=
  d.released || (!(s.core.accs.any fun g => decide (g.seq ≤ d.seqMax)) && !engWritesOut s (d.seqMax + 1))
/-- R184: whose deque a source of a core is. -/
def sourceOwner (cid : Nat) : Source → Nat
  | .peer c => c
  | _ => cid
/-- R184: a record of a core's deque can be taken. -/
def recReleased (s : State) (owner : Nat) (d : DequeRec) : Bool := if owner = s.core.cid.toNat then releasedNow s d else d.released

/-- A record leaves the place that a source of a core names. -/
def removeSource (cid : Nat) (src : Source) (s : State) : State :=
  let mine := cid == s.core.cid.toNat
  match src with
  | .own => if mine then s.upCore fun c => { c with deque := c.deque.dropLast } else upPeer cid (fun p => { p with deque := p.deque.dropLast }) s
  | .ovf => if mine then s.upCore fun c => { c with dequeOvf := c.dequeOvf.dropLast } else upPeer cid (fun p => { p with ovf := p.ovf.dropLast }) s
  | .fifo f =>
    let s1 := upDisp (fun d => { d with fifo := d.fifo.erase f }) s
    if recGang f.record then upGang (recDomain f.record) (fun g => { g with queued := without (recRank f.record) g.queued }) s1 else s1
  | .peer c => if c = s.core.cid.toNat then s.upCore fun c => { c with deque := c.deque.tail } else upPeer c (fun p => { p with deque := p.deque.tail }) s

/-- R306: the highest PRIO among the members of a gang that are queued, here or at other dies. -/
def gangPrio (s : State) (domain : BitVec 16) : Nat :=
  ((s.die.disp.fifo.filter fun f => recGang f.record && recDomain f.record == domain).map fun f => recPrio f.record).foldl max
    (match gangOf s domain with | some g => g.remotePrio | none => 0)
def reservedOf (s : State) (cid : Nat) : Option (BitVec 16 × BitVec 16) :=
  if cid = s.core.cid.toNat then s.core.reserved else match peerOf s cid with | some p => p.reserved | none => none
/-- R306: a reserved core takes only a non-gang record above its gang's priority. -/
def reserveLets (s : State) (cid p : Nat) (r : Rec) : Bool :=
  match reservedOf s cid with
  | none => true
  | some (d, _) => !recGang r && decide (gangPrio s d < p)

/-! ## Gangs that wait (R305, R306) -/

/-- R306: every member of a gang is queued, has ended, or is parked. -/
def gangQueued (s : State) (g : Gang) : Bool :=
  (List.range (gangSize g)).all fun r =>
    g.queued.contains (BitVec.ofNat 16 r) || g.ended.contains (BitVec.ofNat 16 r)
      || s.die.disp.parked.any fun p => recGang p.record && recDomain p.record == g.w0.extractLsb' 32 16
          && (recRank p.record).toNat == r
/-- R306: the gang the die reserves for: highest priority, then lowest DOMAIN. -/
def gangFirst (s : State) (g : Gang) : Bool :=
  let d := g.w0.extractLsb' 32 16
  !(s.die.disp.gangs.any fun h =>
    let e := h.w0.extractLsb' 32 16
    e != d && !h.placed && gangQueued s h
      && (decide (gangPrio s d < gangPrio s e) || (gangPrio s d == gangPrio s e && decide (e.toNat < d.toNat))))

/-- R298, R306: the cores of the die reserved for a gang, with the ranks. -/
def reservedCores (s : State) (domain : BitVec 16) : List (Nat × BitVec 16) :=
  (s.core.cid.toNat :: s.die.disp.peers.map (·.cid.toNat)).filterMap fun c =>
    match reservedOf s c with
    | some (d, k) => if d == domain then some (c, k) else none
    | none => none
/-- The queued members of a gang on this die. -/
def gangRecs (s : State) (domain : BitVec 16) : List FifoRec :=
  s.die.disp.fifo.filter fun f => recGang f.record && recDomain f.record == domain
/-- R305, R380: a gang of level 1 lies in one cluster, which has a free core for each member that is queued: that of the cores it holds, or
the first one that its members name, or else the lowest. -/
def gangCluster (s : State) (domain : BitVec 16) : Option Nat :=
  match reservedCores s domain with
  | (c, _) :: _ => some (c / 8)
  | [] =>
    let ms := gangRecs s domain
    ((ms.filterMap fun f => aclCluster s f.record) ++ List.range 17).find? fun k =>
      decide (ms.length ≤ ((freeCores s).filter fun c => c / 8 == k && (reservedOf s c).isNone).length)
def gangLevel (g : Gang) : Nat := (g.w0.extractLsb' 29 3).toNat
/-- R305: a core that a member of a gang may have by the gang's LEVEL. -/
def levelLets (s : State) (domain : BitVec 16) (cid : Nat) : Bool :=
  match gangOf s domain with
  | some g => gangLevel g != 1 || gangCluster s domain == some (cid / 8)
  | none => true

/-- R298: a FIFO record of higher effective priority than a gang could be placed on a core. -/
def outranked (s : State) (domain : BitVec 16) (cid : Nat) : Bool :=
  s.die.disp.fifo.any fun f => !recGang f.record && decide (gangPrio s domain < f.eff) && mayPlace s cid f
/-- R297, R305, R306: a core may be reserved for a member of a gang whose placement has begun. -/
def mayReserve (s : State) (f : FifoRec) (domain : BitVec 16) (cid : Nat) : Bool :=
  let late := match (gangOf s domain).bind (·.placing) with | some c => decide (c + 4096 ≤ s.cycle) | none => false
  (match aclCluster s f.record with | none => true | some k => cid / 8 == k || late || clusterAbove s f.record)
    && (reservedOf s cid).isNone && servesOn s cid f.record && levelLets s domain cid && !outranked s domain cid
/-- R298, R306, R310: a complete gang that the die reserves for, of a priority that ok holds of, has a member that could be placed on a core. -/
def gangClaims (s : State) (cid : Nat) (ok : Nat → Bool) : Bool :=
  s.die.disp.gangs.any fun g =>
    let d := g.w0.extractLsb' 32 16
    !g.placed && gangQueued s g && gangFirst s g && ok (gangPrio s d)
      && (gangRecs s d).any fun f => !g.reservedRanks.contains (recRank f.record) && mayReserve s f d cid
/-- The choice of a free core: the record it takes, or one that never runs (R292); none below a complete gang that waits for it (R298). -/
def choose (s : State) (cid : Nat) : Option (Source × DequeRec) :=
  match bestCand ((candidates s cid).filter fun x =>
      ((neverRun s x.2.2.record).isSome || servesOn s cid x.2.2.record) && reserveLets s cid x.1 x.2.2.record
        && !gangClaims s cid fun p => decide (x.1 < p)) with
  | some (_, src, d) => if recReleased s (sourceOwner cid src) d then some (src, d) else none
  | none => none

/-- A core that takes a record gives its reservation back (R306). -/
def unreserve (cid : Nat) (s : State) : State :=
  match reservedOf s cid with
  | some (d, k) => upGang d (fun g => { g with reservedRanks := without k g.reservedRanks }) s
  | none => s

/-- The window set that stands with a record in a FIFO (R293). -/
def Source.win : Source → Option (Vector W64 24)
  | .fifo f => f.win
  | _ => none
/-- CORE_TAKES_RECORD for this core. -/
def coreTakes (s0 : State) : State :=
  let s := ageAll (expireAffinity s0)
  if !coreFree s then s0
  else match choose s s.core.cid.toNat with
    | none => s0
    | some (src, d) =>
      let s1 := removeSource s.core.cid.toNat src s
      match neverRun s1 d.record with
      | some s2 => s2
      | none => placeHere src.win d.record (unreserve s.core.cid.toNat s1)

/-- A record runs on another core of the die. -/
def peerStarts (cid : Nat) (r : Rec) (s : State) : State :=
  let gs := match peerOf s cid with | some p => (runsFrom p.free60 (recGran r)).elim [] runGranules | none => []
  upDisp (fun d => { d with slots := d.slots.filter fun x => !(r.w7 != 0 && x.1 == r.w7) })
    (upPeer cid (fun q => { q with
      free := false, prio := BitVec.ofNat 7 (recPrio r), gang := recGang r, domain := recDomain r, endPending := false
      victim := false, reserved := none, startTick := s.tick, since := s.cycle, ready := false
      free60 := q.free60.filter fun g => !gs.contains g }) s)

/-- CORE_TAKES_RECORD for another core of the die, which chooses as this one does; a context that is still here is written out first (R352). -/
def peerTakes (cid : Nat) (s0 : State) : State :=
  let s := ageAll (expireAffinity s0)
  match peerOf s cid with
  | none => s0
  | some p =>
    if !p.free || p.offline then s0
    else match choose s cid with
      | none => s0
      | some (src, d) =>
        let s1 := removeSource cid src s
        match neverRun s1 d.record with
        | some s2 => s2
        | none => if leftCore s d.record then peerStarts cid d.record (unreserve cid s1) else s0

/-- A peer's task has ended: its core is free, unless it takes a record from its own deque. -/
def peerFree (cid : Nat) (s : State) : State :=
  upPeer cid (fun q => { q with free := true, endPending := false, victim := false, gang := false }) s

/-! ## Rotation and parking (R301, R303) -/

/-- R301: the quantum of a level, and whether one of the cycles a task has run and of its bundles is over. -/
def quantumOf (s : State) (p : Nat) : Nat := (s.core.sys.quant.get (BitVec.ofNat 7 p).toFin).toNat
def quantumOver (s : State) (p used : Nat) (ready : Bool) : Bool := quantumOf s p != 0 && decide (quantumOf s p ≤ used) && ready
/-- R301: the running tasks of the die whose quantum has expired and is to be acted on, in ascending core-in-die order. -/
def quantumDue (s : State) : List Running :=
  let me := s.core.cid.toNat
  let free := fun (x : Running) => !x.ending && !x.victim && !(x.gang && heldGang s x.domain)
  let expired := fun (x : Running) =>
    if x.cid = me then quantumOver s x.prio s.core.quantumUsed (decide (256 ≤ s.core.bundlesSince))
    else match peerOf s x.cid with
      | some p => quantumOver s x.prio (s.cycle - p.since) p.ready
      | none => false
  let due := (runningAll s).filter fun x => free x && expired x
  (List.range 136).filterMap fun c => due.find? fun x => x.cid == c
def restartQuantum (cid : Nat) (s : State) : State :=
  if cid = s.core.cid.toNat then s.upCore fun c => { c with quantumUsed := 0 } else upPeer cid (fun p => { p with since := s.cycle }) s
/-- R301: a record has caused a rotation in this cycle, or was returned by one. -/
def spent (s : State) (r : Rec) : Bool := s.die.disp.rotated.any fun x => x.1 == s.cycle && x.2 == r
def spend (r : Rec) (s : State) : State :=
  upDisp (fun d => { d with rotated := (s.cycle, r) :: d.rotated.filter fun x => x.1 == s.cycle }) s
/-- QUANTUM_EXPIRY: the first of the expiries that are due rotates its task, where a record waits for its core, or starts its quantum
again. -/
def quantumExpire (s0 : State) : State :=
  match quantumDue s0 with
  | [] => s0
  | v :: _ =>
    let s := ageAll (expireAffinity s0)
    match bestFifo (fun f => affine s f v.cid && servesOn s v.cid f.record && decide (v.prio ≤ f.eff) && !spent s f.record) s.die.disp.fifo with
    | some f => preemptAll v 2 false (spend f.record (restartQuantum v.cid s))
    | none => restartQuantum v.cid s

/-- R303: PARKING. -/
def parkDue (s : State) : Bool :=
  match s.core.task with
  | none => false
  | some t =>
    let w := (s.core.sys.waitpark.extractLsb' 0 32).toNat
    s.core.run == .running && !s.core.mon && parkable s.core.waiting && w != 0 && decide (w ≤ s.core.waitCycles)
      && !gangHeld s && s.core.asyncs.preempt.isNone && pendEnd s == 0
      && (s.core.waiting != .bar || (barOf s (s.core.waitArg.setWidth 3)).arrived)
      && let s' := ageAll (expireAffinity s)
         (candidates s' s'.core.cid.toNat).any (fun x => canServe s' x.2.2.record && decide (recPrio t.record ≤ x.1))
           || gangClaims s' s'.core.cid.toNat fun p => decide (recPrio t.record ≤ p)
def park (s : State) : State := if parkDue s then preemptCore s.core.cid.toNat 3 true s else s

/-- R76, R177: a message matches a selection word. -/
def msgMatches (sel : W64) (m : Msg) : Bool :=
  (sel.getLsbD 17 || m.tag == sel.extractLsb' 32 16) && (sel.getLsbD 16 || m.rank == sel.extractLsb' 0 16)

/-- R303: a parked task may be woken (a parked WFE at once: DEDUCED, log entry 100). -/
def wakeable (s : State) (p : Parked) : Bool :=
  match p.kind with
  | .bar => p.phaseEnd || match ctxFind s p.record.w7 with
    | some x => (x.bars.get (p.arg.extractLsb' 0 3).toFin).complete
    | none => false
  | .recv => match gangOf s (recDomain p.record) with
    | some g => g.overflow.any fun m => m.rank == recRank p.record && msgMatches p.arg m.msg
    | none => false
  | _ => true
/-- PARK_WAKE. -/
def parkWake (s : State) : State :=
  match s.die.disp.parked.find? (wakeable s) with
  | none => s
  | some p => fifoEnterWith p.win true p.record (upDisp (fun d => { d with parked := d.parked.erase p }) s)

/-! ## The placing of gangs (R306, R308, R309) -/

/-- A core reserved for a member: this one or a peer (R306). -/
def reserveFor (f : FifoRec) (domain : BitVec 16) (s : State) : State :=
  let rank := recRank f.record
  let done := fun st => upGang domain (fun g => { g with reservedRanks := rank :: without rank g.reservedRanks }) st
  match (freeCores s).find? (mayReserve s f domain) with
  | none => s
  | some c =>
    if c = s.core.cid.toNat then done (s.upCore fun k => { k with reserved := some (domain, rank) })
    else done (upPeer c (fun p => { p with reserved := some (domain, rank) }) s)

/-- R306: a die reserves for one incomplete gang at a time: the cores that another one holds are given back. -/
def releaseOthers (domain : BitVec 16) (s : State) : State :=
  let keep := fun (r : Option (BitVec 16 × BitVec 16)) => r.filter fun x => x.1 == domain
  upDisp (fun d => { d with
    gangs := d.gangs.map fun g => if g.w0.extractLsb' 32 16 == domain || g.placed then g else { g with reservedRanks := [], placing := none }
    peers := d.peers.map fun p => { p with reserved := keep p.reserved } })
    (s.upCore fun c => { c with reserved := keep c.reserved })
/-- GANG_PLACEMENT; remote are the ranks that other dies have reserved cores for, of a gang whose LEVEL spans dies (R305). -/
def gangPlace (domain : BitVec 16) (remote : List Nat) (s : State) : State :=
  match gangOf s domain with
  | none => s
  | some g =>
    if g.placed || !gangQueued s g || !gangFirst s g then s
    else
      let far := if gangLevel g < 3 then [] else remote
      let s1 := upGang domain (fun g => { g with
        placing := match g.placing with | some c => some c | none => some s.cycle
        reservedRanks := (far.map (BitVec.ofNat 16)) ++ g.reservedRanks.filter fun r => !far.contains r.toNat }) (releaseOthers domain s)
      ((gangRecs s domain).filter fun f => !g.reservedRanks.contains (recRank f.record)).foldl (fun st f => reserveFor f domain st) s1

/-- R306: every queued member holds a reservation. -/
def gangReady (g : Gang) : Bool := !g.placed && !g.queued.isEmpty && g.queued.all fun r => g.reservedRanks.contains r
/-- GANG_START: every member on its reserved core. -/
def gangStart (domain : BitVec 16) (s0 : State) : State :=
  let s := ageAll (expireAffinity s0)
  match gangOf s domain with
  | none => s0
  | some g =>
    let mine := gangRecs s domain
    let cores := reservedCores s domain
    if !gangReady g || cores.any (fun c => outranked s domain c.1)
        || mine.any (fun f => cores.any fun c => c.1 != s.core.cid.toNat && c.2 == recRank f.record && !leftCore s f.record) then s0
    else
      let s1 := upGang domain (fun g => { g with
          placed := true, placing := none, queued := [], reservedRanks := [], remotePrio := 0
          cluster := if gangLevel g = 1 then cores.head?.map (·.1 / 8) else none })
        (upDisp (fun d => { d with fifo := d.fifo.filter fun f => !(recGang f.record && recDomain f.record == domain) }) s)
      cores.foldl (fun st c =>
        match mine.find? fun f => recRank f.record == c.2 with
        | none => st
        | some f => if c.1 = s.core.cid.toNat then placeHere f.win f.record (st.upCore fun k => { k with reserved := none }) else peerStarts c.1 f.record st) s1

end Sys2Proof.Machine
end

