-- ==== Sys2Proof/Machine/Grotto.lean ====
section
/-! DEFINITION. The Grotto controller (R94 to R104, R183): sequences, snapshots, space, the commands and their status. -/
namespace Sys2Proof.Machine

def upGrotto (f : Grotto → Grotto) (s : State) : State := s.upDie fun d => { d with grotto := f d.grotto }

/-- R101: held chunks of a sequence. -/
def seqHeld (q : Seq) : Nat := (q.ring.map fun r => (r.chunks.filter fun c => c.2.2).length).sum
/-- R101: free chunks of the arena. -/
def arenaFree (g : Grotto) : Nat :=
  g.sizeG.toNat * 2 ^ 21 - (g.seqs.map fun q => q.size + seqHeld q).sum

/-! ## The arena and its cache (R94, R95, R101) -/

/-- A chunk map with one chunk's place set. -/
def putChunk (n p : Nat) (cs : List (Nat × Nat)) : List (Nat × Nat) := (n, p) :: cs.filter fun x => !(x.1 == n)
def chunkPlace (cs : List (Nat × Nat)) (n : Nat) : Option Nat := (cs.find? fun x => x.1 == n).map (·.2)

/-- Places of the arena that a sequence's state and its snapshots refer to. -/
def placesOf (q : Seq) : List Nat := q.chunks.map (·.2) ++ q.ring.flatMap fun r => r.chunks.map fun c => c.2.1
def allPlaces (g : Grotto) : List Nat := g.seqs.flatMap placesOf
/-- The place a new chunk takes: the lowest that nothing refers to (log entry 92). -/
def freePlace (g : Grotto) : Nat :=
  let used := allPlaces g
  ((List.range (used.length + 1)).find? fun p => !used.contains p).getD used.length

/-- R95: the lines of a place of the arena. -/
def placeLines (s : State) (p : Nat) : List (BitVec 50) :=
  (List.range 8).map fun j => lineOf (BitVec.ofNat 56 (s.core.agent.toNat * 2 ^ 46 + s.die.grotto.base.toNat + 512 * p + 64 * j))
/-- R17, R20: a line of the arena as the controller reads it, under its page's key; none where it is uncorrectable or not mapped. -/
def arenaRead (l : BitVec 50) (s : State) : Option LineData × State :=
  match physOf s (lineIa l) with
  | none => (none, s)
  | some (pa0, tier2, key) =>
    let pa := pa0 / 64 * 64
    match dramGet s pa tier2 with
    | none => (some (lineData s l), s)
    | some d => match readCode tier2 d with
      | none => (none, uncorrectable l pa tier2 s.core.agent .grotto s)
      | some (d', fixed) =>
        (some (cipherLine s true key l d'.cipher), if fixed then countRow pa tier2 (setDram l pa tier2 d' s) else s)
/-- R17: a line of the arena written. -/
def arenaWrite (l : BitVec 50) (d : LineData) (s : State) : State :=
  match physOf s (lineIa l) with
  | none => s
  | some (pa, tier2, key) => setDram l (pa / 64 * 64) tier2 (codeLineOf tier2 (cipherLine s false key l d) 0) s
/-- The 512 bytes of a place as the arena holds them. -/
def placeRead (p : Nat) (s : State) : Option (List Byte) × State :=
  (placeLines s p).foldl (fun acc l =>
    let r := arenaRead l acc.2
    (match acc.1, r.1 with | some bs, some d => some (bs ++ toBytes 64 d.toNat) | _, _ => none, r.2)) (some [], s)
def placeWrite (p : Nat) (bytes : List Byte) (s : State) : State :=
  (placeLines s p).zipIdx.foldl (fun st x => arenaWrite x.1 (BitVec.ofNat 512 (ofBytes ((bytes.drop (64 * x.2)).take 64))) st) s

/-- R94, R379: the chunks the cache holds, as 16 banks of 16 ways; a disabled way of a bank takes 256 with it (log entry 92). -/
def cacheChunks (g : Grotto) : Nat := 65536 - 256 * g.deadWays.length
/-- R94: the cache is a write-back one; the least recently used chunk gives way, and nothing is written back that no sequence refers
to any more (log entry 92). -/
def trimStore : Nat → State → State
  | 0, s => s
  | n + 1, s =>
    let g := s.die.grotto
    if g.store.length ≤ cacheChunks g then s
    else match g.store.getLast? with
      | none => s
      | some c =>
        let s1 := upGrotto (fun g => { g with store := g.store.dropLast }) s
        trimStore n (if c.dirty && (allPlaces g).contains c.place then placeWrite c.place c.bytes s1 else s1)
/-- A chunk enters the cache, or is used in it. -/
def storePut (p : Nat) (bytes : List Byte) (dirty : Bool) (s : State) : State :=
  trimStore (s.die.grotto.store.length + 1) (upGrotto (fun g => { g with store := ⟨p, bytes, dirty⟩ :: g.store.filter fun c => !(c.place == p) }) s)
/-- The bytes at a place, by way of the cache; none where the arena's lines cannot be read. -/
def storeGet (p : Nat) (s : State) : Option (List Byte) × State :=
  match s.die.grotto.store.find? fun c => c.place == p with
  | some c => (some c.bytes, storePut p c.bytes c.dirty s)
  | none => match placeRead p s with
    | (some bs, s1) => (some bs, storePut p bs false s1)
    | r => r
def zeroChunk : List Byte := List.replicate 512 0
/-- R94: a chunk of a sequence's live state; one that has never been written reads as zero. -/
def liveGet (q : Seq) (n : Nat) (s : State) : Option (List Byte) × State :=
  match chunkPlace q.chunks n with
  | some p => storeGet p s
  | none => (some zeroChunk, s)

/-! ## Sequences and snapshots (R99, R103) -/

/-- A snapshot leaves the ring; what older ones need of its chunks goes to the next older. -/
def dropSnap (pos : BitVec 32) : List Snapshot → List Snapshot
  | [] => []
  | [r] => if r.pos == pos then [] else [r]
  | a :: r :: rest =>
    if a.pos == pos then r :: rest
    else if r.pos == pos then
      { a with chunks := a.chunks ++ r.chunks.filter fun c => !a.chunks.any fun x => x.1 == c.1 } :: rest
    else a :: dropSnap pos (r :: rest)

def oldestUnpinned (q : Seq) : Option Snapshot := q.ring.find? fun r => !r.pinned
def snapAt (q : Seq) (pos : BitVec 32) : Option Snapshot := q.ring.find? fun r => r.pos == pos
def newestPos (q : Seq) : Option (BitVec 32) := q.ring.getLast?.map (·.pos)

/-- R99: the chunks in which a snapshot's state differs from the live one, by place: the first copy aside at or above it. -/
def snapDiff (q : Seq) (pos : BitVec 32) : List (Nat × Nat) :=
  (q.ring.filter fun r => decide (pos.toNat ≤ r.pos.toNat)).foldl (fun acc r =>
    acc ++ (r.chunks.filter fun c => !acc.any fun x => x.1 == c.1).map fun c => (c.1, c.2.1)) []
/-- R99: a snapshot's state. -/
def snapState (q : Seq) (pos : BitVec 32) : List (Nat × Nat) :=
  (snapDiff q pos).foldl (fun cs x => putChunk x.1 x.2 cs) q.chunks

def setSeq (q : Seq) (g : Grotto) : Grotto :=
  { g with seqs := g.seqs.map fun x => if x.handle == q.handle then q else x }

/-- A status word (R98). -/
def grStatus (code : Nat) (held : Nat) (flag : Bool) (hi : BitVec 32) : W64 :=
  BitVec.ofNat 64 (hi.toNat * 2 ^ 32 + (if flag then 2 ^ 16 else 0) + held % 32 * 2 ^ 8 + code)

def word32 (gen : BitVec 6) (agent : BitVec 10) (index : Nat) : BitVec 32 :=
  BitVec.ofNat 32 (gen.toNat * 2 ^ 26 + agent.toNat * 2 ^ 16 + index % 2 ^ 16)

/-- R400: the lowest index that is not open, looked for from a number up. -/
def freeIndexFrom (g : Grotto) : Nat → Nat → Nat
  | 0, i => i
  | n + 1, i => if g.seqs.any fun q => q.handle.toNat == i then freeIndexFrom g n (i + 1) else i
/-- R96, R400: the generation of an index: one above its last, 1 the first time. -/
def nextGen (g : Grotto) (i : Nat) : BitVec 6 :=
  match g.gens.find? fun x => x.1.toNat == i with
  | some (_, k) => k + 1
  | none => 1

/-- A new sequence opened; its index and generation. -/
def openSeq (size : Nat) (chunks : List (Nat × Nat)) (shared : List Nat) (ring : List Snapshot) (g : Grotto) :
    Grotto × Nat × BitVec 6 :=
  let i := freeIndexFrom g (g.seqs.length + 1) 0
  let k := nextGen g i
  let h : BitVec 20 := BitVec.ofNat 20 i
  ({ g with
      seqs := g.seqs ++ [⟨h, k, size, chunks, shared, ring⟩]
      gens := (h, k) :: g.gens.filter fun x => !(x.1 == h) }, i, k)

/-- R99, R400: the status word of a refused command: its further fields are zero. -/
def grRefused (code : Nat) : W64 := BitVec.ofNat 64 code

/-- R99: one command of this die's controller: the new records and the status word. -/
def grRun (s : State) (op : BitVec 7) (w : W64) (ext : W32) : Grotto × W64 :=
  let g := s.die.grotto
  let refuse := fun (k : Nat) => (g, grRefused k)
  let pos : BitVec 32 := w.extractLsb' 32 32
  if !g.en then refuse 5
  else if op = 0x28 then
    let n := w.toNat
    if n = 0 ∨ 2 ^ 26 < n ∨ n % 512 ≠ 0 then refuse 6
    else if 65536 ≤ g.seqs.length then refuse 4
    else if arenaFree g < n / 512 then refuse 5
    else
      let (g', i, k) := openSeq (n / 512) [] [] [] g
      (g', grStatus 0 0 false (word32 k s.core.agent i))
  else
    match seqFind s w with
    | none => refuse 1
    | some q =>
      let held := q.ring.length
      if op = 0x29 then ({ g with seqs := g.seqs.filter fun x => !(x.handle == q.handle) }, grStatus 0 0 false 0)
      else if op = 0x2A then
        if (match newestPos q with | some p => decide (pos.toNat ≤ p.toNat) | none => false) then refuse 7
        else if held < 16 then
          (setSeq { q with ring := q.ring ++ [⟨pos, false, []⟩] } g, grStatus 0 (held + 1) false 0)
        else
          match oldestUnpinned q with
          | none => refuse 3
          | some v =>
            ({ setSeq { q with ring := dropSnap v.pos q.ring ++ [⟨pos, false, []⟩] } g with ring := satInc g.ring },
             grStatus 0 held true v.pos)
      else if op = 0x2B then
        match snapAt q pos with
        | none => refuse 2
        | some _ =>
          let ring := (q.ring.filter fun r => decide (r.pos.toNat ≤ pos.toNat)).map fun r =>
            if r.pos == pos then { r with chunks := [] } else r
          (setSeq { q with chunks := snapState q pos, ring := ring } g, grStatus 0 ring.length false 0)
      else if op = 0x2C then
        match snapAt q pos with
        | none => refuse 2
        | some _ =>
          if 65536 ≤ g.seqs.length then refuse 4
          else if arenaFree g < q.size then refuse 5
          else
            let (g', i, k) := openSeq q.size (snapState q pos) (List.range q.size) [⟨pos, false, []⟩] g
            (g', grStatus 0 0 false (word32 k s.core.agent i))
      else if op = 0x2D then
        let kept := q.ring.filter fun r => decide (pos.toNat < r.pos.toNat)
        (setSeq { q with ring := kept } g, grStatus 0 (held - kept.length) false 0)
      else if op = 0x2E then
        match snapAt q pos with
        | none => refuse 2
        | some _ =>
          let pin := ext.getLsbD 0
          (setSeq { q with ring := q.ring.map fun r => if r.pos == pos then { r with pinned := pin } else r } g,
           grStatus 0 0 pin 0)
      else
        match q.ring.reverse[(ext.extractLsb' 0 4).toNat]? with
        | none => refuse 2
        | some r => (g, grStatus 0 held r.pinned r.pos)

/-- R99, R101: a command at this die's controller: the new state and its status word; none where SROLL meets a chunk of the snapshot
that cannot be read. -/
def grPerform (op : BitVec 7) (w : W64) (ext : W32) (s : State) : Option W64 × State :=
  let go := fun (st : State) => let r := grRun st op w ext; (some r.2, upGrotto (fun _ => r.1) st)
  if op = 0x2B && s.die.grotto.en then
    match seqFind s w with
    | none => go s
    | some q =>
      let pos : BitVec 32 := w.extractLsb' 32 32
      if (snapAt q pos).isNone then go s
      else
        let r := (snapDiff q pos).foldl (fun (acc : Bool × State) x => let g := storeGet x.2 acc.2; (acc.1 && g.1.isSome, g.2)) (true, s)
        if r.1 then go r.2 else (none, r.2)
  else go s

/-! ## Chunks of a CPYST (R100, R101) -/

/-- What became of a chunk write. -/
inductive ChunkRes where | ok | noSpace | bad
deriving DecidableEq, Repr

/-- The live chunk n of an open sequence becomes b: in its place, or in a new one where something else refers to that. -/
def putLive (q : Seq) (n : Nat) (b : List Byte) (s : State) : State :=
  let g := setSeq q s.die.grotto
  let p := match chunkPlace q.chunks n with
    | some p => if (allPlaces g).count p = 1 && !q.shared.contains n then p else freePlace g
    | none => freePlace g
  storePut p b true (upGrotto (fun _ => setSeq { q with chunks := putChunk n p q.chunks, shared := without n q.shared } g) s)
/-- A sequence with the old chunk n copied aside, into a held chunk, for its newest snapshot; a chunk that a fork shares is copied aside
like any other, since its parent may let go of it (log entry 12). -/
def putAside (q : Seq) (top : Snapshot) (n : Nat) (old : List Byte) (s : State) : Seq × State :=
  let p := freePlace (setSeq q s.die.grotto)
  let q' := { q with ring := q.ring.dropLast ++ [{ top with chunks := (n, p, true) :: top.chunks }] }
  (q', storePut p old true (upGrotto (setSeq q') s))

/-- R100, R101: the write of one chunk. An eviction counts and stays. -/
def writeChunk (n : Nat) (b : List Byte) : Nat → Seq → State → ChunkRes × State
  | 0, _, s => (.noSpace, s)
  | fuel + 1, q, s =>
    match q.ring.getLast? with
    | none => (.ok, putLive q n b s)
    | some top =>
      if top.chunks.any fun c => c.1 == n then (.ok, putLive q n b s)
      else if 0 < arenaFree s.die.grotto then
        match liveGet q n s with
        | (some old, s1) => let r := putAside q top n old s1; (.ok, putLive r.1 n b r.2)
        | (none, s1) => (.bad, s1)
      else
        match oldestUnpinned q with
        | none => (.noSpace, s)
        | some v =>
          let q1 := { q with ring := dropSnap v.pos q.ring }
          writeChunk n b fuel q1 (upGrotto (fun g => { setSeq q1 g with spill := satInc g.spill }) s)
/-- The subcause a chunk write stops a channel with; 0 where it is done (R90, R101). -/
def ChunkRes.code : ChunkRes → Nat | .ok => 0 | .noSpace => 9 | .bad => 7

/-- R97, R100: a CPYST of a sequence of the other die. -/
def stFar (s : State) (c : Cmd) : Bool := handleAgent c.e2 == otherDie s
/-- R90, R101: the CPYST at the head of a channel stops: GROTTO_FAULT for want of a chunk, or for an arena read. One that is
not at the head keeps the subcause until it is. -/
def stateStop (k : BitVec 2) (i code : Nat) (s : State) : State :=
  if i ≠ 0 then (match (chOf s k).queue[i]? with | some c => setCmd k i { c with refused := some code } s | none => s)
  else if code = 7 then
    match (chOf s k).queue with
    | c :: _ => if c.live then raiseAsync (fun x => { x with grottoFault := some 1 }) (setCh k (fun h => { h with stop := some 7, popped := 0 }) s)
        else dropEnded k 7 s
    | [] => s
  else stopChannel k code s

/-- R97: a chunk of a command's sequence by the piece that moves it, the piece's bytes, and whether the other controller has been asked
for it. -/
def stChunk (c : Cmd) (p : Nat) : Nat := stOff c / 512 + p
def stBytes (s : State) (c : Cmd) (p : Nat) : List Byte := (List.range 512).map fun j => cmdSpadRead s c (512 * p + j)
def markAsked (k : BitVec 2) (i p : Nat) (c : Cmd) (s : State) : State := setCmd k i { c with sent := p :: c.sent } s

/-- The CPYST at a place of a channel's queue whose piece p can move in a direction. -/
def stateCmd (k : BitVec 2) (i p : Nat) (into : Bool) (s : State) : Option Cmd :=
  match (chOf s k).queue[i]? with
  | none => none
  | some c =>
    if (chOf s k).stop.isSome || !c.isState || stIn c != into || !pieceReady s ((chOf s k).queue.take i) c p then none else some c

/-- STATE_CHUNK_WRITE: piece p of the CPYST at a place of a channel's queue is performed at the controller of this die; a chunk for
the other die goes there, and outside is that controller's answer: 0, or the subcause. A sequence that has been closed stops the
command as a stale handle does (R97, log entry 93). -/
def stateWrite (k : BitVec 2) (i p : Nat) (outside : Option Nat) (s : State) : State :=
  match stateCmd k i p true s with
  | none => s
  | some c =>
    if stFar s c then
      match outside with
      | none => match c.refused with
        | some code => stateStop k i code s
        | none =>
          if c.sent.contains p then s
          else markAsked k i p c (s.send (.chunkPut (otherDie s) k p c.e2 (stChunk c p) (stBytes s c p)))
      | some code => if !c.sent.contains p then s else if code = 0 then markLanded k i p c s else stateStop k i code s
    else
      match seqFind s c.e2 with
      | none => stateStop k i 1 s
      | some q => match writeChunk (stChunk c p) (stBytes s c p) 17 q s with
        | (.ok, s1) => markLanded k i p c s1
        | (r, s1) => stateStop k i r.code s1
/-- COPY_CHUNK_LANDED of a CPYST: piece p is read; of the other die's sequence it is asked for, and outside is the answer: its bytes, or
none where they cannot be read. -/
def stateRead (k : BitVec 2) (i p : Nat) (outside : Option (Option (List Byte))) (s : State) : State :=
  let land := fun (c : Cmd) (bs : List Byte) (st : State) =>
    markLanded k i p c (cmdSpadWrite c (bs.zipIdx.map fun b => (512 * p + b.2, b.1)) st)
  match stateCmd k i p false s with
  | none => s
  | some c =>
    if stFar s c then
      match outside with
      | none => match c.refused with
        | some code => stateStop k i code s
        | none =>
          if c.sent.contains p then s
          else markAsked k i p c (s.send (.chunkAsk (otherDie s) k p c.e2 (stChunk c p)))
      | some (some bs) => if c.sent.contains p then land c bs s else s
      | some none => if c.sent.contains p then stateStop k i 7 s else s
    else
      match seqFind s c.e2 with
      | none => stateStop k i 1 s
      | some q => match liveGet q (stChunk c p) s with
        | (some bs, s1) => land c bs s1
        | (none, s1) => stateStop k i 7 s1

/-! ## Requests of other cores and of the other die (R97, R100, R102, R105) -/

/-- The check of a CPYST. -/
def askedCheck (id : Nat) (w : W64) (off len : Nat) (s : State) : State :=
  s.send (.stateAnswer id (match seqFind s w with | none => 1 | some q => if q.size * 512 < off + len then 1 else 0))
/-- The read of a chunk. -/
def askedRead (id : Nat) (w : W64) (n : Nat) (s : State) : State :=
  match seqFind s w with
  | none => s.send (.chunkDone id 1)
  | some q => match liveGet q n s with
    | (some bs, s1) => s1.send (.chunkData id bs)
    | (none, s1) => s1.send (.chunkDone id 7)
/-- The write of a chunk. -/
def askedWrite (id : Nat) (w : W64) (n : Nat) (bs : List Byte) (s : State) : State :=
  match seqFind s w with
  | none => s.send (.chunkDone id 1)
  | some q => let r := writeChunk n bs 17 q s; r.2.send (.chunkDone id r.1.code)
/-- A Grotto command. -/
def askedCommand (id : Nat) (op : BitVec 7) (w : W64) (ext : W32) (s : State) : State :=
  match grPerform op w ext s with
  | (some v, s1) => s1.send (.grottoStatus id v)
  | (none, s1) => s1.send (.grottoFailed id)
/-- R105: the word of a sequence with the position of its newest snapshot. -/
def newestWord (s : State) (w : W64) : Option W64 :=
  ((seqFind s w).bind newestPos).map fun p => BitVec.ofNat 64 (w.toNat % 2 ^ 32 + p.toNat * 2 ^ 32)
/-- R105: the question whether a sequence holds a snapshot, and the roll to the newest one: the status has its position in [63:32]. -/
def askedPos (id : Nat) (w : W64) (s : State) : State := s.send (.stateAnswer id (if (newestWord s w).isSome then 0 else 1))
def askedRoll (id : Nat) (w : W64) (s : State) : State :=
  match newestWord s w with
  | none => s.send (.grottoStatus id 2)
  | some v => match grPerform 0x2B v 0 s with
    | (some _, s1) => s1.send (.grottoStatus id (v &&& 0xFFFFFFFF00000000))
    | (none, s1) => s1.send (.grottoFailed id)

/-! ## The commands at issue (R98, R102, R183) -/

/-- R97, R98: a Grotto command leaves the core for its controller; its status word is scoreboarded. -/
def grotSend (s : State) (d : BitVec 6) (op : BitVec 7) (w : W64) (ext : W32) (st : State) : State :=
  let st1 := pushAwait { scalarAwait s d cSlot with grot := some (op, w, ext) } st
  if op != 0x28 && handleAgent w == otherDie s then st1.send (.grotto (otherDie s) st.core.nextId op w ext) else st1
/-- R289: happens-before orders Grotto work as it does global accesses: a command waits for an earlier acquire of the core. -/
def grotAct (op : BitVec 7) (g : Guard) (d b : BitVec 6) (ext : W32) : Act :=
  mkAct cSlot [.s d, .s b] noPriv fun s =>
    if !guardOn g s then .skip
    else if acquireHold s then .stall .structural id
    else .now (grotSend s d op (readS s b) ext)

def actSopen (f : CTwo) : Act := grotAct 0x28 f.g f.a f.b 0
def actSclose (f : CTwo) : Act := grotAct 0x29 f.g f.a f.b 0
def actSsnap (f : CTwo) : Act := grotAct 0x2A f.g f.a f.b 0
def actSroll (f : CTwo) : Act := grotAct 0x2B f.g f.a f.b 0
def actSfork (f : CTwo) : Act := grotAct 0x2C f.g f.a f.b 0
def actSdrop (f : CTwo) : Act := grotAct 0x2D f.g f.a f.b 0
def actSpin (f : CSpin) : Act := grotAct 0x2E f.g f.d f.b (if f.pin then 1 else 0)
def actSqry (f : CSqry) : Act := grotAct 0x2F f.g f.d f.b (f.k.setWidth 32)

/-! ## Execution -/

/-- SOPEN (R99): the bundle of this syllable alone issues. -/
def execSopen (f : CTwo) (s : State) : Host.Outcome State Fault Refusal :=
  .next (issueActs [(actSopen f).of (.sopen f)] s)
/-- SCLOSE (R99): the bundle of this syllable alone issues. -/
def execSclose (f : CTwo) (s : State) : Host.Outcome State Fault Refusal :=
  .next (issueActs [(actSclose f).of (.sclose f)] s)
/-- SSNAP (R99): the bundle of this syllable alone issues. -/
def execSsnap (f : CTwo) (s : State) : Host.Outcome State Fault Refusal :=
  .next (issueActs [(actSsnap f).of (.ssnap f)] s)
/-- SROLL (R99): the bundle of this syllable alone issues. -/
def execSroll (f : CTwo) (s : State) : Host.Outcome State Fault Refusal :=
  .next (issueActs [(actSroll f).of (.sroll f)] s)
/-- SFORK (R99): the bundle of this syllable alone issues. -/
def execSfork (f : CTwo) (s : State) : Host.Outcome State Fault Refusal :=
  .next (issueActs [(actSfork f).of (.sfork f)] s)
/-- SDROP (R99): the bundle of this syllable alone issues. -/
def execSdrop (f : CTwo) (s : State) : Host.Outcome State Fault Refusal :=
  .next (issueActs [(actSdrop f).of (.sdrop f)] s)
/-- SPIN (R99): the bundle of this syllable alone issues. -/
def execSpin (f : CSpin) (s : State) : Host.Outcome State Fault Refusal :=
  .next (issueActs [(actSpin f).of (.spin f)] s)
/-- SQRY (R99): the bundle of this syllable alone issues. -/
def execSqry (f : CSqry) (s : State) : Host.Outcome State Fault Refusal :=
  .next (issueActs [(actSqry f).of (.sqry f)] s)

end Sys2Proof.Machine
end

