-- ==== Sys2Proof/Machine/Engine.lean ====
section
/-! DEFINITION. The rest of the C class (R73 to R76, R177 to R187): messages, collective posts, weights, and tasks. -/
namespace Sys2Proof.Machine

/-! ## Messages (R73 to R76, R177, R178) -/

/-- A place is free in the mailbox or its spill area (R75). -/
def mailRoom (s : State) : Bool := decide (0 < mailPlaces s) && s.core.spillMove.isNone

/-- The running task's rank, domain and gang size; a task in no gang is rank 0 of a gang of one (R177). -/
def myRank (s : State) : BitVec 16 := match s.core.task with | some t => t.rank | none => 0
def myDomain (s : State) : BitVec 16 := match s.core.task with | some t => t.domain | none => 0
def amGang (s : State) : Bool := match s.core.task with | some t => t.gang | none => false
def myGang (s : State) : Nat := match s.core.task with | some t => if t.gang then t.gsize.toNat else 1 | none => 1

/-- R177: a SEND that is not sent. -/
def sendBad (s : State) (w : W64) : Bool :=
  w.extractLsb' 57 7 != 0 || msgLen w == 0 || decide (128 < msgLen w) || decide (myGang s ≤ (msgRank w).toNat)
def countDropped (s : State) : State :=
  s.upCore fun c => { c with task := c.task.map fun t =>
    { t with dropped := if t.dropped == 0xFFFF then t.dropped else t.dropped + 1 } }

/-- n bytes of the scratchpad at a task-visible address. -/
def spadList (s : State) (a : W64) (n : Nat) : List Byte := spadBytes s.core.spad (spadAddr s) a n

def actSend (f : CTwo) : Act :=
  mkAct cSlot [.s f.a, .s f.b] noPriv fun s =>
    if guardOn f.g s then
      let a := readS s f.a
      let w := readS s f.b
      match addrSpanFault s a (msgLen w) with
      | some x => .raise .scratchBounds x
      | none =>
        if sendBad s w then .now countDropped
        else if s.core.outFull then .stall .structural id
        else
          let m : Msg := ⟨msgTag w, myDomain s, myRank s, spadList s a (msgLen w)⟩
          .now fun st => st.upCore fun c => { c with outMail := c.outMail ++ [⟨amGang s, msgRank w, m, s.core.accSeq⟩] }
    else .skip

/-- R75, R308: the message at a place leaves; spilled messages move up, and messages of the gang overflow follow them. -/
def takeMail (i : Nat) (s : State) : State :=
  let n := s.core.mbox.length
  let s1 := refillMail (s.upCore fun c => { c with
    mbox := c.mbox.eraseIdx i, spill := if i < n then c.spill else c.spill.eraseIdx (i - n) })
  match s.core.task with
  | some t => if t.gang then takeOverflow t.domain t.rank s1 else s1
  | none => s1

def actRecv (f : CPair) : Act :=
  mkAct cSlot [.s f.d, .s (pairLo f.p), .s (pairHi f.p)] noPriv fun s =>
    if guardOn f.g s then
      let a := readS s (pairLo f.p)
      let sel := readS s (pairHi f.p)
      match addrSpanFault s a 128 with
      | some x => .raise .scratchBounds x
      | none =>
        match (allMail s).findIdx? (msgMatches sel) with
        | none => .stall .recv fun st => st.upCore fun c => { c with waitArg := sel }
        | some i =>
          let m := (allMail s).getD i ⟨0, 0, 0, []⟩
          .now fun st =>
            let st1 := takeMail i st
            pushResult s f.d cSlot (mailHeader m) (st1.setSpad (spadPut st1.core.spad (spadAddr s) a m.payload))
    else .skip

/-- R177: a malformed buffer word. -/
def bufBad (w : W64) : Bool :=
  w.extractLsb' 57 7 != 0 || w.extractLsb' 22 10 != 0 || decide (msgLen w < 64) || decide (2 ^ 24 < msgLen w)
    || msgLen w % 64 != 0 || (w.extractLsb' 0 22).toNat % 64 != 0

def actRecvp (f : CRecvp) : Act :=
  mkAct cSlot [.s f.a, .s f.b] noPriv fun s =>
    if guardOn f.g s then
      let w := readS s f.a
      let sel := readS s f.b
      let a := (w.extractLsb' 0 22).toNat
      if bufBad w then .raise .scratchBounds (BitVec.ofNat 64 a)
      else match spanBad (spadAddr s) a (msgLen w) with
        | some x => .raise .scratchBounds x
        | none =>
          if 8 ≤ s.core.posted.length then .stall .structural id
          else
            let b : PostedBuf := ⟨w.extractLsb' 0 22, w.extractLsb' 32 25, sel.getLsbD 16, sel.extractLsb' 0 16,
              sel.extractLsb' 32 16, f.sem, f.inc⟩
            .now fun st => st.upCore fun c => { c with posted := c.posted ++ [b] }
    else .skip

/-- R178. -/
def mbstatWord (s : State) : W64 :=
  let dropped := match s.core.task with | some t => t.dropped.toNat | none => 0
  BitVec.ofNat 64 (dropped * 2 ^ 32 + s.core.posted.length * 2 ^ 16 + (if s.core.outMail.isEmpty then 0 else 2 ^ 12)
    + s.core.spill.length * 2 ^ 5 + s.core.mbox.length)
def actMbstat (f : COne) : Act :=
  mkAct cSlot [.s f.a] noPriv fun s => if guardOn f.g s then .now (pushResult s f.a cSlot (mbstatWord s)) else .skip

/-- R76: the oldest posted buffer with the tag and a matching source. -/
def bufFor (s : State) (src tag : BitVec 16) : Option PostedBuf :=
  s.core.posted.find? fun b => b.tag == tag && (b.any || b.rank == src)
/-- R76: data lands in a posted buffer, which signals and retires. -/
def fillBuf (b : PostedBuf) (data : List Byte) (s : State) : State :=
  let look := fun (a : W64) => if a.toNat < 2 ^ 22 then spadMap s.core.sys.spw a.toNat else none
  let s1 := s.setSpad (spadPut s.core.spad look (b.addr.setWidth 64) data)
  semRaise b.sem b.inc.toNat (s1.upCore fun c => { c with posted := c.posted.erase b, latch := true })
/-- POSTED_BUFFER_FILL (R76): a message from another core, of a gang; one longer than its buffer is refused at its sender. -/
def postedFill (domain src tag : BitVec 16) (data : List Byte) (s : State) : State :=
  match bufFor s src tag with
  | some b => if amGang s && myDomain s == domain && decide (data.length ≤ b.len.toNat) then fillBuf b data s else s
  | none => s

/-- R74, R308: messages for a rank wait in its gang's overflow. -/
def overflowHas (s : State) (domain rank : BitVec 16) : Bool :=
  match gangOf s domain with | some g => g.overflow.any fun m => m.rank == rank | none => false
/-- R308: the gang overflow takes a message for a rank; not while older ones of the rank are still to be moved there (R354). -/
def overflowTakes (s : State) (domain rank : BitVec 16) : Bool :=
  !(match s.core.spillMove with | some (t, _) => t.gang && t.domain == domain && t.rank == rank | none => false)
    && match gangOf s domain with
       | some g => (ovfFree g).isSome
       | none => false
/-- R73, R74, R308: a message goes to the mailbox of the running task of its rank, unless older ones wait in the overflow. -/
def toMailbox (s : State) (gang : Bool) (rank : BitVec 16) (m : Msg) : Bool :=
  mailMine s gang m.gang rank && !(gang && overflowHas s m.gang rank)

/-- MAILBOX_DELIVERY (R75, R308): a message of another core's gang member, to the running task of the rank, or to its gang's overflow.
Where neither has a place the sender keeps it. -/
def deliverMail (rank : BitVec 16) (m : Msg) (s : State) : State :=
  if toMailbox s true rank m then
    (if mailRoom s then placeMail m s else raiseAsync (fun a => { a with mailbox := true }) s)
  else if overflowTakes s m.gang rank then toOverflow rank m s else s

/-- MESSAGE_ACCEPT (R74, R75): the oldest message not accepted: its earlier accesses are performed, and its receiver has a place, or
refuses it for now. away says that the task of the rank runs on no core, so that the overflow takes it. A task in no gang sends only to
itself. -/
def acceptMail (refused away : Bool) (s : State) : State :=
  match s.core.outMail with
  | [] => s
  | o :: rest =>
    if (s.core.accs.any fun g => decide (g.seq ≤ o.seq)) || engWritesOut s (o.seq + 1) then s
    else
      let gone := s.upCore fun c => { c with outMail := rest, outFull := false }
      let held := s.upCore fun c => { c with outFull := true }
      if toMailbox s o.gang o.dst o.msg then
        (if mailRoom s then placeMail o.msg gone else raiseAsync (fun a => { a with mailbox := true }) held)
      else if !o.gang then gone
      else if away || mailMine s true o.msg.gang o.dst then
        (if overflowTakes s o.msg.gang o.dst then toOverflow o.dst o.msg gone else held)
      else if refused then held
      else gone.send (.message o.dst o.msg)

/-! ## CPYMSG (R76, R173) -/

/-- The message of a CPYMSG. -/
def cmdPayload (s : State) (c : Cmd) : List Byte := (List.range (msgLen c.e2)).map (cmdSpadRead s c)

/-- R76: the receiver of a CPYMSG is the task that runs on this core. -/
def msgHere (s : State) (c : Cmd) : Bool :=
  (c.gang.isSome || c.live) && mailMine s c.gang.isSome (c.gang.getD 0) (msgRank c.e2)
/-- R76, R88: a CPYMSG moves once a matching buffer is posted: of this core, else of another core whose buffer length the outside
gives. -/
def moveMessage (k : BitVec 2) (other : Option Nat) (s : State) : State :=
  match (chOf s k).stop, (chOf s k).queue with
  | none, c :: _ =>
    if !c.isMsg || !c.checked || !c.landed.isEmpty || !copyReleased s c c.ord then s
    else
      let all := { c with landed := List.range (pieces c) }
      if msgHere s c then
        match bufFor s c.rank (msgTag c.e2) with
        | none => s
        | some b =>
          if b.len.toNat < msgLen c.e2 then stopChannel k 8 s
          else setCmd k 0 all (fillBuf b (cmdPayload s c) s)
      else if c.gang.isNone then s
      else
        match other with
        | none => s
        | some n =>
          if n < msgLen c.e2 then stopChannel k 8 s
          else setCmd k 0 all (s.send (.bulk (msgRank c.e2) (msgTag c.e2) (cmdPayload s c)))
  | _, _ => s

/-- COPY_CHUNK_LANDED: a piece of the command at a place of a channel's queue, a CPYST's read, or a CPYMSG. What comes from outside:
the length of the receiver's buffer, or the chunk, none of it where it cannot be read. -/
def chunkLanded (k : BitVec 2) (i p : Nat) (outside : Bool) (n : Nat) (bytes : List Byte) (s : State) : State :=
  match (chOf s k).queue[i]? with
  | some c =>
    if c.isMsg then moveMessage k (if outside then some n else none) s
    else if c.isState then stateRead k i p (if outside then some (if bytes.isEmpty then none else some bytes) else none) s
    else landPiece k i p s
  | none => s

/-! ## Collectives and weights (R179 to R182) -/

/-- The checks of several spans at once, in the order of R334. -/
def multiCheck (s : State) (l : List (Span × List Need × Need)) : GCheck :=
  let bad := l.filter fun x => x.2.1.any fun n => (spanIas s n x.1).isNone
  match lowestBad (fun _ => true) (bad.map (·.1.1)) with
  | some a => .fault .range a
  | none =>
    let heads := l.flatMap fun x => (pageHeads x.1 ((spanIas s .rd x.1).getD [])).map fun h => (h.1, h.2, x.2.2)
    let looks := heads.map fun h => (h, headLook s h.2.2 (h.1, h.2.1))
    let miss := looks.filter fun x => x.2 == .miss
    if !miss.isEmpty then .wait (askProbes (miss.map fun x => (x.1.2.1, some x.1.2.2)))
    else match lowestBad (fun _ => true) ((looks.filter fun x => x.2 == .page).map fun x => x.1.1) with
      | some a => .fault .page a
      | none => match lowestBad (fun _ => true) ((looks.filter fun x => x.2 == .protect).map fun x => x.1.1) with
        | some a => .fault .protect a
        | none => .ok (l.map fun x => (spanIas s .rd x.1).getD [])

/-- A check's answer as a syllable's. -/
def checkOut (g : GCheck) (ok : List (List (Nat × Nat)) → SylOut) : SylOut :=
  match g with
  | .fault c a => .raise c a
  | .wait f => .stall .engine f
  | .ok cs => ok cs

/-- R180: a post enters the core's queue of eight. -/
def pushPost (s : State) (p : CollPost) : SylOut :=
  if 8 ≤ s.core.posts.length then .stall .structural id
  else .now fun st => st.upCore fun c => { c with posts := c.posts ++ [p] }

def lineVa (a : W64) : W64 := a &&& ~~~63

def actColl (f : CColl) : Act :=
  mkAct cSlot [.s f.a] noPriv fun s =>
    if guardOn f.g s then
      let d := lineVa (readS s f.a)
      checkOut (multiCheck s [((d, List.range 64), [.rd, .w], .w)]) fun _ =>
        pushPost s ⟨false, d, 0, f.ext, f.ord, f.sc, s.core.sys.win, s.core.mon, s.core.agent, s.core.accSeq, true, 0, 0⟩
    else .skip

def actCollarm (f : CArm) : Act :=
  mkAct cSlot [.s f.a, .s f.b] noPriv fun s =>
    if guardOn f.g s then
      let d := lineVa (readS s f.a)
      let fl := readS s f.b &&& ~~~7
      checkOut (multiCheck s [((d, List.range 64), [.rd, .w], .w), ((fl, List.range 8), [.rd], .rd)]) fun _ =>
        pushPost s ⟨true, d, fl, f.ext, f.ord, f.sc, s.core.sys.win, s.core.mon, s.core.agent, s.core.accSeq, true, 0, 0⟩
    else .skip

/-- R182: the smaller of each four-bit weight and its ceiling; MIGR is kept. -/
def capWeights (v ceil old : BitVec 16) : BitVec 16 :=
  (old.extractLsb' 12 4
    ++ BitVec.ofNat 4 (min (v.extractLsb' 8 4).toNat (ceil.extractLsb' 8 4).toNat)
    ++ BitVec.ofNat 4 (min (v.extractLsb' 4 4).toNat (ceil.extractLsb' 4 4).toNat)
    ++ BitVec.ofNat 4 (min (v.extractLsb' 0 4).toNat (ceil.extractLsb' 0 4).toNat) : BitVec (4 + 4 + 4 + 4))

/-- R182: BWSET: in monitor code weights and ceilings, in task code weights up to the ceilings; TARGET chooses the HBM controllers, the
Toesque ports, or both. The monitor's weights apply to the die's migration traffic. A weight of 0 counts as 1 at an arbiter. -/
def bwset (v : BitVec 16) (hbm links : Bool) (s : State) : State :=
  let set := fun (w : Weights) => { w with hbm := if hbm then v else w.hbm, links := if links then v else w.links }
  let mon := fun (w : Weights) => { set w with hbmCeil := if hbm then v else w.hbmCeil, linksCeil := if links then v else w.linksCeil }
  if s.core.mon then (s.upCore fun c => { c with weights := mon c.weights }).upDie fun d => { d with migr := mon d.migr }
  else s.upCore fun c => { c with weights := { c.weights with
    hbm := if hbm then capWeights v c.weights.hbmCeil c.weights.hbm else c.weights.hbm
    links := if links then capWeights v c.weights.linksCeil c.weights.links else c.weights.links } }
def actBwset (f : COne) : Act :=
  mkAct cSlot [.s f.a] noPriv fun s =>
    if guardOn f.g s then
      let x := readS s f.a
      .now (bwset (x.extractLsb' 0 16) (x.getLsbD 16) (x.getLsbD 17))
    else .skip

/-! ## Tasks (R184 to R187) -/

/-- R184: the record a SPAWN pushes. -/
def spawnRec (s : State) (r : Rec) : Rec :=
  let mine := match s.core.task with | some t => recPrio t.record | none => 127
  { r with w4 := setField (setField (setField r.w4 0 7 (min (recPrio r) mine)) 17 1 0) 32 16 (myDomain s).toNat, w7 := 0 }

/-- R184: places for a spawned record: in the deque, by way of the overflow area, or of a FIFO. -/
def spawnRoom (s : State) : Bool :=
  if s.core.deque.length < 32 ∨ s.core.dequeOvf.length < 512 then true
  else match s.core.dequeOvf.head? with
    | some o => releasedNow s (ovfRec s o) && !fifoFull s (recPrio (ovfRec s o).record)
    | none => true
/-- R70, R184: a record at the bottom of the deque; a full one moves its top record to the overflow area, and that its oldest to its
FIFO. -/
def pushDeque (d : DequeRec) (s : State) : State :=
  match s.core.deque with
  | top :: rest =>
    if s.core.deque.length < 32 then s.upCore fun c => { c with deque := c.deque ++ [d] }
    else
      let s1 := match s.core.dequeOvf with
        | o :: more => if s.core.dequeOvf.length < 512 then s
          else fifoEnter false (ovfRec s o).record (s.upCore fun c => { c with dequeOvf := more })
        | [] => s
      (putOvf top s1).upCore fun c => { c with deque := rest ++ [d] }
  | [] => s.upCore fun c => { c with deque := [d] }

def actSpawn (f : COne) : Act :=
  mkAct cSlot [.s f.a] noPriv fun s =>
    if guardOn f.g s then
      let a := readS s f.a
      match addrSpanFault s (lineVa a) 64 with
      | some x => .raise .scratchBounds x
      | none =>
        if !spawnRoom s then .stall .structural id
        else
          let bs := spadList s (lineVa a) 64
          let r := recOfWords fun i => BitVec.ofNat 64 (ofBytes ((bs.drop (8 * i)).take 8))
          .now (pushDeque ⟨spawnRec s r, false, s.core.accSeq⟩)
    else .skip

/-- R185: the status word of TAKE and STEAL. -/
def takeWord (code victim : Nat) : W64 := BitVec.ofNat 64 (victim * 2 ^ 16 + code)

/-- R185: VICTIM where no record was taken from any deque: the spec gives no value, a free one (log entry 36), the same whenever it is
asked for (R10). -/
def noVictim : Nat := (Config.freeWord 0).toNat % 512

/-- R184, R185: a record taken from a core's deque: written at once where it is released, else held until it is; an
acquire (R281), which later global accesses and copies wait for. -/
def takeRec (s : State) (dst : BitVec 6) (owner : Nat) (d : DequeRec) (a : W64) (st : State) : State :=
  let word := takeWord 0 ((s.core.agent.toNat % 2) * 136 + owner)
  if recReleased s owner d then
    pushResult s dst cSlot word (engBarrier st.core.accSeq (st.setSpad (spadPut st.core.spad (spadAddr s) a (recBytes d.record))))
  else pushAwait { scalarAwait s dst cSlot with held := some (d, a, word), acq := true } st

def actTake (f : CTwo) : Act :=
  mkAct cSlot [.s f.a, .s f.b] noPriv fun s =>
    if guardOn f.g s then
      let a := readS s f.b
      let me := s.core.cid.toNat
      match addrSpanFault s a 64 with
      | some x => .raise .scratchBounds x
      | none =>
        match atSource s me .own, atSource s me .ovf with
        | some (_, d), _ => .now fun st => takeRec s f.a me d a (removeSource me .own st)
        | none, some (_, d) => .now fun st => takeRec s f.a me d a (removeSource me .ovf st)
        | none, none => .now (pushResult s f.a cSlot (takeWord 1 noVictim))
    else .skip

/-- R185: the deques a STEAL looks at, or none for BADVICTIM. -/
def stealFrom (s : State) (sel : W64) : Option (List Nat) :=
  if sel.getLsbD 9 then some (searchOrder s.core.cid.toNat)
  else
    let c := (sel.extractLsb' 0 9).toNat
    let die := s.core.agent.toNat % 2
    if 272 ≤ c ∨ c / 136 ≠ die ∨ c % 136 = s.core.cid.toNat then none else some [c % 136]

def actSteal (f : CPair) : Act :=
  mkAct cSlot [.s f.d, .s (pairLo f.p), .s (pairHi f.p)] noPriv fun s =>
    if guardOn f.g s then
      let a := lineVa (readS s (pairLo f.p))
      match addrSpanFault s a 64 with
      | some x => .raise .scratchBounds x
      | none =>
        match stealFrom s (readS s (pairHi f.p)) with
        | none => .now (pushResult s f.d cSlot (takeWord 2 noVictim))
        | some cs =>
          match cs.findSome? fun c => (atSource s s.core.cid.toNat (.peer c)).map fun d => (c, d.2) with
          | none => .now (pushResult s f.d cSlot (takeWord 1 noVictim))
          | some (c, d) => .now fun st => takeRec s f.d c d a (removeSource s.core.cid.toNat (.peer c) st)
    else .skip

/-- R186: JOIN stops the task at the boundary after its bundle. In a delay bundle of a pending end it has no effect (R267). -/
def actJoin (f : COne) : Act :=
  mkAct cSlot [.s f.a] noPriv fun s =>
    if guardOn f.g s && noEndPending s then
      let a := readS s f.a
      checkOut (multiCheck s [((a, List.range 8), [.rd, .w, .a], .a)]) fun _ =>
        if a.toNat % 8 ≠ 0 then .raise .align a
        else .now fun st => if s.core.task.isSome then st.upCore fun c => { c with joinReq := some a } else st
    else .skip

/-- R187: the status of a DOMSET. -/
def domsetCode (s : State) (w : W64) : Nat :=
  let level : BitVec 3 := w.extractLsb' 0 3
  let count := (w.extractLsb' 48 16).toNat
  let srank := (w.extractLsb' 32 16).toNat
  let b := barOf s level
  if level.toNat < 5 then 1
  else if myGang s < count ∨ (count ≠ 0 ∧ count ≤ srank) then 2
  else if b.arrived || b.asked then 3 else 0
def domsetTask (w : W64) (t : TaskInfo) : TaskInfo :=
  let d : Option SubDom :=
    if w.extractLsb' 48 16 = 0 then none else some ⟨w.extractLsb' 48 16, w.extractLsb' 32 16, w.extractLsb' 16 16⟩
  match (w.extractLsb' 0 3).toNat with
  | 5 => { t with sub5 := d }
  | 6 => { t with sub6 := d }
  | _ => { t with sub7 := d }
def domset (w : W64) (s : State) : State :=
  match s.core.task with
  | none => s
  | some t =>
    let t' := domsetTask w t
    (s.upCore fun c => { c with task := some t' }).upSys fun y => { y with dommem := dommemOf t' }
def actDomset (f : CTwo) : Act :=
  mkAct cSlot [.s f.a, .s f.b] noPriv fun s =>
    if guardOn f.g s then
      let w := readS s f.b
      let code := domsetCode s w
      .now fun st => pushResult s f.a cSlot (BitVec.ofNat 64 code) (if code = 0 then domset w st else st)
    else .skip

/-! ## Execution -/

/-- SEND (R177): the bundle of this syllable alone issues. -/
def execSend (f : CTwo) (s : State) : Host.Outcome State Fault Refusal :=
  .next (issueActs [(actSend f).of (.send f)] s)
/-- RECV (R177): the bundle of this syllable alone issues. -/
def execRecv (f : CPair) (s : State) : Host.Outcome State Fault Refusal :=
  .next (issueActs [(actRecv f).of (.recv f)] s)
/-- RECVP (R177): the bundle of this syllable alone issues. -/
def execRecvp (f : CRecvp) (s : State) : Host.Outcome State Fault Refusal :=
  .next (issueActs [(actRecvp f).of (.recvp f)] s)
/-- MBSTAT (R178): the bundle of this syllable alone issues. -/
def execMbstat (f : COne) (s : State) : Host.Outcome State Fault Refusal :=
  .next (issueActs [(actMbstat f).of (.mbstat f)] s)
/-- COLL (R180): the bundle of this syllable alone issues. -/
def execColl (f : CColl) (s : State) : Host.Outcome State Fault Refusal :=
  .next (issueActs [(actColl f).of (.coll f)] s)
/-- COLLARM (R181): the bundle of this syllable alone issues. -/
def execCollarm (f : CArm) (s : State) : Host.Outcome State Fault Refusal :=
  .next (issueActs [(actCollarm f).of (.collarm f)] s)
/-- BWSET (R182): the bundle of this syllable alone issues. -/
def execBwset (f : COne) (s : State) : Host.Outcome State Fault Refusal :=
  .next (issueActs [(actBwset f).of (.bwset f)] s)
/-- SPAWN (R184): the bundle of this syllable alone issues. -/
def execSpawn (f : COne) (s : State) : Host.Outcome State Fault Refusal :=
  .next (issueActs [(actSpawn f).of (.spawn f)] s)
/-- TAKE (R185): the bundle of this syllable alone issues. -/
def execTake (f : CTwo) (s : State) : Host.Outcome State Fault Refusal :=
  .next (issueActs [(actTake f).of (.take f)] s)
/-- STEAL (R185): the bundle of this syllable alone issues. -/
def execSteal (f : CPair) (s : State) : Host.Outcome State Fault Refusal :=
  .next (issueActs [(actSteal f).of (.steal f)] s)
/-- JOIN (R186): the bundle of this syllable alone issues. -/
def execJoin (f : COne) (s : State) : Host.Outcome State Fault Refusal :=
  .next (issueActs [(actJoin f).of (.join f)] s)
/-- DOMSET (R187): the bundle of this syllable alone issues. -/
def execDomset (f : CTwo) (s : State) : Host.Outcome State Fault Refusal :=
  .next (issueActs [(actDomset f).of (.domset f)] s)

end Sys2Proof.Machine
end

