-- ==== Sys2Proof/Machine/Image.lean ====
section
/-! DEFINITION. The context image as bytes, and a context read back from them (R343, R348, R350, R351). -/
namespace Sys2Proof.Machine

def wordsBytes (ws : List W64) : List Byte := ws.flatMap fun w => toBytes 8 w.toNat

/-- R2: STEPID of this part. -/
def stepId : W64 := 0x90B00

/-- R351: the header. -/
def imgHeader (va : W64) (c : Ctx) : List Byte :=
  wordsBytes [BitVec.ofNat 64 (c.step.toNat * 2 ^ 32 + (stepId.toNat >>> 16) % 2 ^ 16 * 2 ^ 16 + 0x4358),
    BitVec.ofNat 64 ((if c.inCore then 2 ^ 63 else 0) + c.agent.toNat * 2 ^ 16 + c.core.toNat),
    (va &&& ~~~63) ||| BitVec.ofNat 64 ((if c.spill.isEmpty then 0 else 2) + (if c.granules.isEmpty then 1 else 0)), 0]

/-- R347 of a saved context. -/
def imgChstop (c : Ctx) : W64 :=
  (List.range 4).foldl (fun acc k =>
    match (c.channels.toList.getD k ⟨[], none, 0, []⟩).stop with
    | none => acc
    | some sub => acc ||| BitVec.ofNat 64 ((2 ^ 15 + sub.toNat * 256) <<< (16 * k))) 0

/-- R350: the 24 words at 0x0020. -/
def imgSystem (c : Ctx) : List Byte :=
  let y := c.sys
  wordsBytes [y.vrm, y.fpsr, y.thr, y.qcnt, y.lpw, y.lpe, 0, 0, y.hintdrop, y.collide, c.stream.q0, c.stream.q1, c.stream.q2,
    c.stream.annul.setWidth 64, y.tstate, y.taskid, y.dommem, y.mxlive.setWidth 64, BitVec.ofNat 64 (pieceSum c.snap),
    imgChstop c, y.cause, y.fmask, y.faddr, 0]

/-- R187: the specification that entered a subdomain. -/
def subWord (l : Nat) : Option SubDom → W64
  | none => 0
  | some d => BitVec.ofNat 64 (d.count.toNat * 2 ^ 48 + d.srank.toNat * 2 ^ 32 + d.sid.toNat * 2 ^ 16 + l)
/-- R351: the domain state; of a level whose phase is complete as R264 leaves it. Of the weights of R182 it has room for one set: that of the HBM controllers (DESIGN CHOICE, log entry 94). -/
def imgDomain (c : Ctx) : List Byte :=
  let t := c.task
  wordsBytes [BitVec.ofNat 64 (ofBytes (c.bars.toList.map fun b => BitVec.ofNat 8
      ((if b.arrived && !b.complete then 128 else 0) + (if b.complete then b.phase + 1 else b.phase).toNat))),
    BitVec.ofNat 64 (t.gsize.toNat * 2 ^ 48 + t.domain.toNat * 2 ^ 32 + t.rank.toNat * 2 ^ 16 + t.glevel.toNat),
    subWord 5 t.sub5, subWord 6 t.sub6, subWord 7 t.sub7,
    BitVec.ofNat 64 (c.weights.hbm.toNat * 2 ^ 16 + recPrio t.record), c.weights.hbmCeil.setWidth 64,
    c.bankNow.setWidth 64]

/-- R343: the entries of one result: header and payload of each 256-bit piece. -/
def pendEntries (r : Pend) : List Byte :=
  let kindReg : Nat × Nat := match r.dst with
    | .s n => (0, n.toNat)
    | .v n => (1, n.toNat)
    | .p n => (2, n.toNat)
    | .lsf set f => (3, set.toNat * 16 + f.toNat)
    | .ka => (4, 0)
    | .kb => (4, 1)
    | _ => (0, 0)
  (List.range r.pcs).flatMap fun i =>
    let head := 2 ^ 63 + kindReg.1 * 2 ^ 59 + kindReg.2 * 2 ^ 52 + i * 2 ^ 50 + r.left % 32 * 2 ^ 45 + r.slot % 16 * 2 ^ 41
      + r.flags.toNat * 2 ^ 34 + (if kindReg.1 = 2 then 0 else (r.mask.toNat >>> (32 * i)) % 2 ^ 32)
    let body := if kindReg.1 = 2 then r.val.toNat % 2 ^ 128 + r.mask.toNat * 2 ^ 128 else (r.val.toNat >>> (256 * i)) % 2 ^ 256
    toBytes 8 head ++ toBytes 32 body

/-- R351: a scoreboard record. -/
def awaitBytes (a : Await) : List Byte :=
  let kind := if a.load then 0 else if a.value.isSome then 2 else 1
  let w1 : W64 := if a.load then a.va else match a.value with | some v => v.setWidth 64 | none => 0
  let m := if a.load && a.vec then a.mask else 0
  wordsBytes [BitVec.ofNat 64 (2 ^ 63 + kind * 2 ^ 61 + (a.reg.toNat + if a.vec then 64 else 0) * 2 ^ 54 + a.syl.toNat), w1,
    m.extractLsb' 0 64, m.extractLsb' 64 64]
/-- R351: a re-issue entry. -/
def mxBytes (e : MxEntry) : List Byte :=
  wordsBytes (BitVec.ofNat 64 (2 ^ 63 + e.syllable.toNat) :: match e.op with
    | .mul _ _ _ _ _ _ ta t1 tb _ => [ta, t1, tb]
    | .zero _ => [0, 0, 0]
    | .store t => [t, 0, 0]
    | .plane t => [t, 0, 0])
def postBytes (p : CollPost) : List Byte :=
  wordsBytes [(p.ext ++ p.syl : BitVec (32 + 32)), p.desc, p.flag]
def postedBytes (b : PostedBuf) : List Byte :=
  wordsBytes [BitVec.ofNat 64 (b.len.toNat * 2 ^ 32 + b.addr.toNat),
    BitVec.ofNat 64 (b.sem.toNat * 2 ^ 56 + b.inc.toNat * 2 ^ 48 + b.tag.toNat * 2 ^ 32 + (if b.any then 2 ^ 16 else 0) + b.rank.toNat)]
/-- R350: layout sets: current value, then the two capture banks. -/
def setBytes (c : Ctx) : List Byte :=
  (List.range 8).flatMap fun n =>
    let v := fun (x : Vector (Vector W64 12) 8) => wordsBytes (x.toList.getD n (Vector.replicate 12 0)).toList
    v c.ls ++ v c.bank0 ++ v c.bank1

/-- R350: the fixed part, 20,480 bytes. p0 and p16 are held as they read, all ones (R136). -/
def imgFixed (va : W64) (c : Ctx) : List Byte :=
  padTo 32 (imgHeader va c) ++ padTo 192 (imgSystem c) ++ padTo 64 (wordsBytes c.regsT.toList)
    ++ padTo 192 (wordsBytes c.sys.win.toList) ++ padTo 32 (wordsBytes c.sys.spw.toList) ++ padTo 64 (imgDomain c)
    ++ padTo 128 (wordsBytes c.ab.toList) ++ padTo 256 (toBytes 128 c.ka.toNat ++ toBytes 128 c.kb.toNat)
    ++ padTo 512 (wordsBytes c.regsS.toList)
    ++ padTo 512 (c.regsP.toList.zipIdx.flatMap fun p => toBytes 16 (if p.2 % 16 = 0 then 2 ^ 128 - 1 else p.1.toNat))
    ++ padTo 512 (c.sem.toList.flatMap fun x => toBytes 2 x.toNat) ++ padTo 2304 (setBytes c)
    ++ padTo 8192 (c.regsV.toList.flatMap fun v => toBytes 128 v.toNat)
    ++ padTo 2304 (c.mbox.flatMap fun m => padTo 144 (mailBytes m)) ++ padTo 2560 (c.snap.flatMap pendEntries)
    ++ padTo 1536 (c.channels.toList.flatMap fun h => padTo 384 (h.queue.flatMap fun x =>
        wordsBytes [cmdWord x 0, cmdWord x 1, cmdWord x 2]))
    ++ padTo 512 (c.awaits.flatMap awaitBytes) ++ padTo 64 (c.mx.flatMap mxBytes)
    ++ padTo 192 (c.posts.flatMap postBytes) ++ padTo 128 (c.posted.flatMap postedBytes) ++ padTo 192 []

def bankBytes (b : Vector (BitVec 4096) 128) : List Byte := b.toList.flatMap fun r => toBytes 512 r.toNat
/-- R350: the image: the fixed part and the live banks. -/
def imgBytesOf (va : W64) (c : Ctx) : List Byte :=
  imgFixed va c ++ (if c.sys.mxlive.getLsbD 0 then bankBytes c.acc0 else [])
    ++ (if c.sys.mxlive.getLsbD 1 then bankBytes c.acc1 else [])

/-- R75, R352: the spilled messages of a slot. -/
def spillBytes (c : Ctx) : List Byte := c.spill.flatMap fun m => padTo 256 (mailBytes m)

/-! ## A context from an image (R351, R356, R357): rd gives the bytes by offset in the slot -/

def imgNum (rd : Nat → Byte) (a n : Nat) : Nat := ofBytes ((List.range n).map fun i => rd (a + i))
def imgW (rd : Nat → Byte) (a : Nat) : W64 := BitVec.ofNat 64 (imgNum rd a 8)
/-- The records of a section: at most k of n bytes each, those that a test keeps. -/
def imgEach {α : Type} (a n k : Nat) (f : Nat → Option α) : List α := (List.range k).filterMap fun i => f (a + n * i)

/-- R343: a snapshot entry. -/
def pendOfImg (rd : Nat → Byte) (a : Nat) : Option Pend :=
  let h := imgW rd a
  let piece := (h.extractLsb' 50 2).toNat
  let reg : BitVec 7 := h.extractLsb' 52 7
  let body := imgNum rd (a + 8) 32
  let left := (h.extractLsb' 45 5).toNat
  let slot := (h.extractLsb' 41 4).toNat
  let fl : BitVec 7 := h.extractLsb' 34 7
  let mask := BitVec.ofNat 128 ((h.extractLsb' 0 32).toNat <<< (32 * piece))
  let val := BitVec.ofNat 1024 (body <<< (256 * piece))
  let mk := fun (d : Dst) => some (⟨d, val, mask, left, slot, fl, 1⟩ : Pend)
  if !h.getLsbD 63 then none
  else match (h.extractLsb' 59 4).toNat with
    | 0 => mk (if reg = 0 then .flagsOnly else .s (reg.setWidth 6))
    | 1 => mk (.v (reg.setWidth 6))
    | 2 => some ⟨.p (reg.setWidth 5), BitVec.ofNat 1024 (body % 2 ^ 128), BitVec.ofNat 128 (body >>> 128), left, slot, fl, 1⟩
    | 3 => mk (.lsf (reg.extractLsb' 4 3) (reg.extractLsb' 0 4))
    | _ => mk (if reg = 0 then .ka else .kb)

/-- R343: the pieces of one result, of which the image has an entry each, together again. -/
def joinPieces : List (Nat × Pend) → List Pend
  | [] => []
  | (_, r) :: rest =>
    match rest, joinPieces rest with
    | (i, q) :: _, b :: bs =>
      if i ≠ 0 ∧ q.dst = r.dst ∧ q.left = r.left ∧ q.slot = r.slot then
        { r with val := r.val ||| b.val, mask := r.mask ||| b.mask, pcs := r.pcs + b.pcs } :: bs
      else r :: b :: bs
    | _, bs => r :: bs
/-- R343: the snapshot entries of an image. -/
def snapOfImg (rd : Nat → Byte) : List Pend :=
  joinPieces (imgEach 0x3BC0 40 64 fun a => (pendOfImg rd a).map fun r => (((imgW rd a).extractLsb' 50 2).toNat, r))

/-- The layout sets of the image: current values, or a capture bank. -/
def setsOfImg (rd : Nat → Byte) (k : Nat) : Vector (Vector W64 12) 8 :=
  Vector.ofFn fun n => Vector.ofFn fun f => imgW rd (0x9C0 + 288 * n.val + 96 * k + 8 * f.val)
def winOfImg (rd : Nat → Byte) : Vector W64 24 := Vector.ofFn fun i => imgW rd (0x120 + 8 * i.val)
def spwOfImg (rd : Nat → Byte) : Vector W64 4 := Vector.ofFn fun i => imgW rd (0x1E0 + 8 * i.val)

/-- A syllable decoded by its class; what its extension word says is kept elsewhere in the image. -/
def sylOf (dec : W32 → Option W32 → Except DecodeError Instr) (w : W32) : Option Instr :=
  match dec w none with
  | .ok i => some i
  | .error _ => match dec w (some 0) with
    | .ok i => some i
    | .error _ => none
/-- What a load to re-issue reads: bytes of a scalar with its extension, or of a vector; and whether it acquires. -/
def loadOfSyl (w : W32) : Nat × Bool × Bool × Bool :=
  match sylOf (decodeM .m0) w with
  | some (.ldg f) => (sizeBytes f.w, true, false, false)
  | some (.ldgn f) => (sizeBytes f.w, false, false, false)
  | some (.lda f) => (sizeBytes f.w, true, false, true)
  | some (.ldgv f) => (widthBytes f.w, false, true, false)
  | _ => (8, false, false, false)
/-- R351: a scoreboard record, numbered. -/
def awaitOfImg (rd : Nat → Byte) (a id : Nat) : Option Await :=
  let h := imgW rd a
  let w1 := imgW rd (a + 8)
  let kind := (h.extractLsb' 61 2).toNat
  let syl : W32 := h.extractLsb' 0 32
  let reg : BitVec 7 := h.extractLsb' 54 7
  let ld := loadOfSyl syl
  let m : W128 := imgW rd (a + 24) ++ imgW rd (a + 16)
  let places := if ld.2.2.1 then (List.range 128).filter m.getLsbD else List.range ld.1
  let lo := places.headD 0
  let cells := match windowCheck (winOfImg rd) w1 (w1 + BitVec.ofNat 64 (places.getLastD 0 - lo)) .rd with
    | some (ia, _) => places.map fun b => (b, (ia.toNat + (b - lo)) % 2 ^ 56)
    | none => []
  if !h.getLsbD 63 then none
  else some
    { id := id, mon := false, vec := reg.getLsbD 6, reg := reg.setWidth 6, mask := if kind = 0 && ld.2.2.1 then m else lowMask 8
      value := if kind = 2 then some (w1.setWidth 1024) else none, part := 0, load := kind == 0, va := if kind = 0 then w1 else 0
      bytes := if kind = 0 then cells else [], size := ld.1, sext := ld.2.1, acq := ld.2.2.2, slot := 9, syl := syl, iaddr := 0
      probe := none, grot := none, held := none }

/-- R351: a re-issue entry. -/
def mxOfImg (rd : Nat → Byte) (ls : Vector (Vector W64 12) 8) (ka kb : W1024) (a : Nat) : Option MxEntry :=
  let h := imgW rd a
  let ta := imgW rd (a + 8)
  let u := imgW rd (a + 16)
  let tb := imgW rd (a + 24)
  let mul := fun (scaled : Bool) (f : XMul) =>
    MxOp.mul scaled f.conv f.int f.zero f.acc f.budget ta u tb ((ls.get (cPls ta).toFin).getD 8 0)
  let op := match sylOf decodeX (h.extractLsb' 0 32) with
    | some (.mma f) => some (mul false f)
    | some (.mmas f) => some (mul true f)
    | some (.mconv f) => some (mul false f)
    | some (.mzero f) => some (.zero f.acc)
    | some (.mstore _) => some (.store ta)
    | some (.mplane _) => some (.plane ta)
    | _ => none
  if !h.getLsbD 63 then none else op.map fun o => ⟨o, h.extractLsb' 0 32, ka, kb, spwOfImg rd, false, [], true⟩

/-- R350: a collective post. -/
def postOfImg (rd : Nat → Byte) (agent : BitVec 10) (a : Nat) : Option CollPost :=
  let w := imgW rd a
  let mk := fun (arm : Bool) (ord sc : BitVec 2) =>
    some (⟨arm, imgW rd (a + 8), imgW rd (a + 16), w.extractLsb' 32 32, ord, sc, winOfImg rd, false, agent, 0, true, w.extractLsb' 0 32, 0⟩ : CollPost)
  match sylOf decodeC (w.extractLsb' 0 32) with
  | some (.coll f) => mk false f.ord f.sc
  | some (.collarm f) => mk true f.ord f.sc
  | _ => none
/-- R350: a posted buffer. -/
def postedOfImg (rd : Nat → Byte) (a : Nat) : Option PostedBuf :=
  let w := imgW rd a
  let x := imgW rd (a + 8)
  if w.extractLsb' 32 25 = 0 then none
  else some ⟨w.extractLsb' 0 22, w.extractLsb' 32 25, x.getLsbD 16, x.extractLsb' 0 16, x.extractLsb' 32 16, x.extractLsb' 56 8, x.extractLsb' 48 8⟩
/-- R73: the messages of a section of the image or of the spill. -/
def mailOfImg (rd : Nat → Byte) (a n k : Nat) : List Msg :=
  imgEach a n k fun o => let m := mailAt rd o; if m.payload.isEmpty then none else some m
/-- R187: a subdomain that has been entered. -/
def subOfImg (w : W64) : Option SubDom :=
  if w = 0 then none else some ⟨w.extractLsb' 48 16, w.extractLsb' 32 16, w.extractLsb' 16 16⟩

/-- R351, R352: the header's fields, and the bytes of the fixed part and of what follows it. -/
def imgInCore (rd : Nat → Byte) : Bool := (imgW rd 8).getLsbD 63
def imgCore (rd : Nat → Byte) : BitVec 9 := (imgW rd 8).extractLsb' 0 9
def imgRest (rd : Nat → Byte) (gran : Nat) : List (Nat × Nat) :=
  let live := imgW rd 0xA8
  let n := (if live.getLsbD 0 then 1 else 0) + (if live.getLsbD 1 then 1 else 0)
  let w2 := imgW rd 16
  [(0x5000, 65536 * n)] ++ (if w2.getLsbD 1 then [(0x25000, 64 * 256)] else []) ++ (if w2.getLsbD 0 then [(0x30000, 65536 * gran)] else [])
def bankOfImg (rd : Nat → Byte) (a : Nat) : Vector (BitVec 4096) 128 := Vector.ofFn fun r => BitVec.ofNat 4096 (imgNum rd (a + 512 * r.val) 512)

/-- R348, R350: the queue of a channel. -/
def channelOfImg (rd : Nat → Byte) (s : State) (r : Rec) (t : TaskInfo) (k : Nat) : Channel :=
  let stop := (imgW rd 0xB8) >>> (16 * k)
  let cmd := fun (a : Nat) =>
    let e0 := imgW rd a
    let set : BitVec 3 := e0.extractLsb' 51 3
    if !e0.getLsbD 56 then none
    else some { cmdOfWords s e0 (imgW rd (a + 8)) (imgW rd (a + 16)) with
      layout := (setsOfImg rd (if e0.getLsbD 54 then 2 else 1)).get set.toFin, win := winOfImg rd, spw := spwOfImg rd
      rank := t.rank, gang := if t.gang then some t.domain else none, tile := r.w3, block := r.w6, gsize := if t.gang then t.gsize else 1 }
  ⟨imgEach (0x45C0 + 384 * k) 24 16 cmd, if stop.getLsbD 15 then some (stop.extractLsb' 8 4) else none, 0, []⟩

/-- R351: the task of an image, its record the one that names it. -/
def taskOfImg (rd : Nat → Byte) (s : State) (r : Rec) : TaskInfo :=
  let d := fun (k : Nat) => imgW rd (0x200 + 8 * k)
  { taskOfRec s r with
    glevel := (d 1).extractLsb' 0 3, gsize := (d 1).extractLsb' 48 16, domain := (d 1).extractLsb' 32 16, rank := (d 1).extractLsb' 16 16
    sub5 := subOfImg (d 2), sub6 := subOfImg (d 3), sub7 := subOfImg (d 4) }
/-- R350: the system registers of an image. -/
def sysOfImg (rd : Nat → Byte) (y : Sys) : Sys :=
  let w := fun (k : Nat) => imgW rd (0x20 + 8 * k)
  { y with
    vrm := w 0, fpsr := w 1, thr := w 2, qcnt := w 3, lpw := w 4, lpe := w 5, hintdrop := w 8, collide := w 9, tstate := w 14
    taskid := w 15, dommem := w 16, mxlive := (w 17).setWidth 2, cause := w 20, fmask := w 21, faddr := w 22
    win := winOfImg rd, spw := spwOfImg rd }

/-- R350 to R352, R356: the context of record r that the bytes of its slot hold. What an image has no place for is as a fresh task has
it: the counts of dropped messages and of barrier cycles, and the event latch, which is set (DESIGN CHOICE, log entry 94). -/
def ctxOfImage (rd : Nat → Byte) (s : State) (r : Rec) : Ctx :=
  let t := taskOfImg rd s r
  let ls := setsOfImg rd 0
  let ka := BitVec.ofNat 1024 (imgNum rd 0x2C0 128)
  let kb := BitVec.ofNat 1024 (imgNum rd 0x340 128)
  let dom := fun (k : Nat) => imgW rd (0x200 + 8 * k)
  let live := imgW rd 0xA8
  let chans := Vector.ofFn fun (k : Fin 4) => channelOfImg rd s r t k.val
  let w2 := imgW rd 16
  { task := t, agent := (imgW rd 8).extractLsb' 16 10, core := imgCore rd, inCore := false, step := (imgW rd 0).extractLsb' 32 16
    regsS := Vector.ofFn fun i => imgW rd (0x3C0 + 8 * i.val)
    regsP := Vector.ofFn fun i => BitVec.ofNat 128 (imgNum rd (0x5C0 + 16 * i.val) 16)
    regsV := Vector.ofFn fun i => BitVec.ofNat 1024 (imgNum rd (0x12C0 + 128 * i.val) 128)
    regsT := Vector.ofFn fun i => imgW rd (0xE0 + 8 * i.val)
    acc0 := if live.getLsbD 0 then bankOfImg rd 0x5000 else Vector.replicate 128 0
    acc1 := if live.getLsbD 1 then bankOfImg rd (if live.getLsbD 0 then 0x15000 else 0x5000) else Vector.replicate 128 0
    ka := ka, kb := kb, sys := sysOfImg rd s.core.sys
    stream := ⟨imgW rd 0x70, imgW rd 0x78, imgW rd 0x80, (imgW rd 0x88).setWidth 3, none, none, none⟩
    snap := snapOfImg rd
    awaits := (List.range 16).filterMap fun i => awaitOfImg rd (0x4BC0 + 32 * i) (s.core.nextId + i)
    ls := ls, bank0 := setsOfImg rd 1, bank1 := setsOfImg rd 2, bankNow := (dom 7).setWidth 8
    ab := Vector.ofFn fun i => imgW rd (0x240 + 8 * i.val)
    sem := Vector.ofFn fun i => BitVec.ofNat 16 (imgNum rd (0x7C0 + 2 * i.val) 2)
    channels := chans, posts := imgEach 0x4E00 24 8 (postOfImg rd s.core.agent), posted := imgEach 0x4EC0 16 8 (postedOfImg rd)
    mbox := mailOfImg rd 0x32C0 144 16, mx := imgEach 0x4DC0 32 2 (mxOfImg rd ls ka kb)
    bars := Vector.ofFn fun i => let b := (dom 0).extractLsb' (8 * i.val) 8; ⟨b.setWidth 7, b.getLsbD 7, false, 0, false⟩
    weights := ⟨(dom 5).extractLsb' 16 16, (dom 5).extractLsb' 16 16, (dom 6).setWidth 16, (dom 6).setWidth 16⟩
    latch := true, spill := if w2.getLsbD 1 then mailOfImg rd 0x25000 256 64 else []
    asyncs := { Asyncs.none with copyFault := chans.toList.any fun h => h.stop.isSome && h.stop != some 9
                                 grottoFault := if chans.toList.any fun h => h.stop == some 9 then some 2 else none }
    barCycles := 0, granules := []
    region := if w2.getLsbD 0 then
        Memory.writeCells [] ((List.range (recGran r * 65536)).map fun i => (i, rd (0x30000 + i)))
      else []
    seq := 0 }

/-! ## Images that change (R352, R354) -/

/-- The image of a context is as these bytes of a memory hold it. -/
def imgSame (m : Memory) (base : Nat) (bs : List Byte) : Bool :=
  ((m.filter fun c => decide (base ≤ c.1) && decide (c.1 < base + bs.length)).map fun c => (c.1 - base, c.2))
    == (bs.zipIdx.filter fun b => b.1 != 0).map fun b => (b.2, b.1)
/-- The bytes of an image that differ from another's, by offset. -/
def imgDiff : Nat → List Byte → List Byte → List (Nat × Byte)
  | _, _, [] => []
  | i, [], y :: ys => (i, y) :: imgDiff (i + 1) [] ys
  | i, x :: xs, y :: ys => if x = y then imgDiff (i + 1) xs ys else (i, y) :: imgDiff (i + 1) xs ys
/-- R352: the VA of a slot is the IA of its memory (log entry 15). -/
def slotAt (va : W64) (cells : List (Nat × Byte)) : List (Nat × Byte) := cells.map fun c => ((va.toNat + c.1) % 2 ^ 56, c.2)
/-- R354: the image of a saved task changed, in the save area or in its slot. -/
def upImage (va : W64) (f : Ctx → Ctx) (s : State) : State :=
  match s.core.saveArea with
  | some (v, x) =>
    if v == va then
      (s.setSpad (s.core.spad.writeCells ((imgDiff 0 (imgBytesOf va x) (imgBytesOf va (f x))).map fun c => (0x3C0000 + c.1, c.2)))).upCore
        fun c => { c with saveArea := some (v, f x) }
    else upSlot s
  | none => upSlot s
where
  upSlot (s : State) : State :=
    match s.die.disp.slots.find? fun y => y.1 == va with
    | none => s
    | some (_, x) =>
      engPost (slotAt va (imgDiff 0 (imgBytesOf va x) (imgBytesOf va (f x))))
        (upDisp (fun d => { d with slots := d.slots.map fun y => if y.1 == va then (va, f x) else y }) s)

end Sys2Proof.Machine
end

