-- ==== Sys2Proof/Machine/MemEvents.lean ====
section
/-! DEFINITION. Steps of the memory controller, the home translation, and the coherence protocol (R14 to R62, R406). -/
namespace Sys2Proof.Machine

/-! ## Keys (R18, R19) -/

def upKeys (f : KeyUnit → KeyUnit) (s : State) : State := s.upDie fun d => { d with keys := f d.keys }

/-- R19: accesses that use a slot are held while a command on it is in progress. -/
def keyHeld (s : State) (slot : BitVec 9) : Bool := s.die.keys.busy && (s.die.keys.all || s.die.keys.slot == slot)
/-- The key of a line's page is held. -/
def lineHeld (s : State) (l : BitVec 50) : Bool := match physOf s (lineIa l) with | some (_, _, k) => keyHeld s k | none => false

/-- R18: a write of MKCTL as the control cores make it: ignored while BUSY. ERR clears where the word has a one at bit 62; ALL and
SLOT are stored; CMD 1 to 3 starts a command, 0 and 4 to 7 none. -/
def writeMkctl (w : W64) (s : State) : State :=
  if s.die.keys.busy then s
  else
    let cmd := (w.extractLsb' 9 3).toNat
    upKeys (fun k => { k with
      err := k.err && !w.getLsbD 62, all := w.getLsbD 12, slot := w.extractLsb' 0 9
      busy := decide (1 ≤ cmd ∧ cmd ≤ 3)
      cmd := if 1 ≤ cmd ∧ cmd ≤ 3 then BitVec.ofNat 2 cmd else k.cmd }) s
/-- R18: what a read of MKCTL returns: BUSY, ERR, ALL and SLOT, and CMD as zero. -/
def readMkctl (s : State) : W64 :=
  let k := s.die.keys
  BitVec.ofNat 64 ((if k.busy then 2 ^ 63 else 0) + (if k.err then 2 ^ 62 else 0) + (if k.all then 2 ^ 12 else 0) + k.slot.toNat)
/-- R18: MKDAT0 to MKDAT7 read as zero. -/
def readMkdat (_ : State) (_ : BitVec 3) : W64 := 0

/-- MK_LOAD, MK_LOAD_RANDOM, MK_ZEROISE (R18): a write of MKCTL with that command. Reads: b for ALL, n for SLOT, and k, 1 for a one
written at ERR. -/
def mkStart (cmd : Nat) (s : State) : State :=
  writeMkctl (BitVec.ofNat 64 ((if s.arg.k = 1 then 2 ^ 62 else 0) + (if s.arg.b then 2 ^ 12 else 0) + cmd * 2 ^ 9 + s.arg.n % 512)) s
def evMkLoad (s : State) : State := mkStart 1 s
def evMkLoadRandom (s : State) : State := mkStart 2 s
def evMkZeroise (s : State) : State := mkStart 3 s

/-- A slot's pair of keys replaced; zero keys are not listed. -/
def setSlot (slot : Nat) (x : BitVec 512) (ks : List (Nat × BitVec 512)) : List (Nat × BitVec 512) :=
  let rest := ks.filter fun k => !(k.1 == slot)
  if x = 0 then rest else (slot, x) :: rest

/-- R18, R377: slot 511 takes the tenant's code key only after a quote since the last turnover. -/
def slotOpen (s : State) (slot : Nat) : Bool := slot != 511 || s.die.boot.quoted

/-- R18, R19: MK_COMMAND_COMPLETE: the command's effect on its slots. ERR, set by a refused load, stays until a one is written to it,
a later load that succeeds included; a load of random keys (CMD 2) leaves MKDAT as it is and is not refused (DESIGN CHOICE, log
entry 50). -/
def evMkCommandComplete (s : State) : State :=
  let k := s.die.keys
  if !k.busy then s
  else
    let slots := if k.all then List.range 512 else [k.slot.toNat]
    let pair : BitVec 512 := BitVec.ofNat 512 (ofBytes (k.dat.toList.flatMap fun w => toBytes 8 w.toNat))
    let idle := { k with busy := false }
    match k.cmd.toNat with
    | 1 =>
      if pair.extractLsb' 0 256 == pair.extractLsb' 256 256 then upKeys (fun _ => { idle with err := true }) s
      else upKeys (fun _ => { idle with
        dat := Vector.replicate 8 0
        slots := (slots.filter (slotOpen s)).foldl (fun ks i => setSlot i pair ks) k.slots }) s
    | 2 =>
      (upKeys (fun _ => { idle with
        slots := slots.foldl (fun ks i => setSlot i (Config.drbg (s.die.boot.draws + i)) ks) k.slots }) s).upDie fun d =>
          { d with boot := { d.boot with draws := d.boot.draws + 512 } }
    | 3 => upKeys (fun _ => { idle with slots := slots.foldl (fun ks i => setSlot i 0 ks) k.slots }) s
    | _ => upKeys (fun _ => idle) s

/-! ## The hot-page tracker and migration (R22, R41, R42) -/

/-- MIGRATION. Reads: ia (its offset), b for the second tier, n for the frame, m for the lines copied in this step (0: all that
remain). While a page moves, the step copies its next lines. With k = 1 the tracker promotes the next candidate that can move (R42). -/
def evMigration (s : State) : State :=
  if s.die.xlate.migration.isSome then migrateLines s.arg.m s
  else if s.arg.k = 1 then (match (hotPages s).reverse.find? (hotReady s) with | some p => if s.die.xlate.hpEn then hotPromote p s else s | none => s)
  else if isLocal s s.arg.ia then
    migrateLines s.arg.m (migrateStart false (iaOffset s.arg.ia) s.arg.b (BitVec.ofNat 24 s.arg.n) (fillBuffer (iaOffset s.arg.ia) s))
  else s

/-- HOT_PAGE_EPOCH (R42). -/
def epochDue (s : State) : Bool := decide (s.die.xlate.hpSince + 2 ^ s.die.xlate.hpEpoch.toNat ≤ s.cycle)
def evHotPageEpoch (s : State) : State :=
  if epochDue s then upXlate (fun x => { x with hpSince := s.cycle, hpTable := x.hpTable.map fun p => (p.1, p.2 / 2) }) s else s

/-! ## Lines at the controller (R15, R16, R20, R21) -/

/-- What a step of the memory lets go on: accesses of the core, and hints that waited for them. -/
def settleMem (s : State) : State := serveHints (performReady s)

/-- R20: the class of a read by the number of an event. -/
def classOf : Nat → ReadClass
  | 0 => .cache
  | 1 => .engine
  | 2 => .agent
  | 3 => .grotto
  | _ => .walk

/-- R15, R94: bits that the array has lost of a line that DRAM alone holds, before its controller reads it. -/
def decayLine (l : BitVec 50) (flips : LineData × BitVec 16 × BitVec 48) (s : State) : State :=
  match physOf s (lineIa l) with
  | none => s
  | some (pa0, tier2, _) =>
    let pa := pa0 / 64 * 64
    if (homeFind s l).isSome then s
    else match dramGet s pa tier2 with
      | none => s
      | some d => setDram l pa tier2 ⟨l, d.cipher ^^^ flips.1, d.tag ^^^ flips.2.1, d.check ^^^ flips.2.2⟩ s

/-- MC_LINE_READ. Reads: line, agent, k for the class of the read (0 the die's caches, 1 its engines, 2 another agent; 3 a line of the
Grotto arena, which the controller reads when it fills a chunk), and the bits the array has lost since the write: data, x (tag), y (code). The line needs a way of its set (R62). An Error goes to every
requester that waits on the line; the hints among them are dropped (R20). -/
def evMcLineRead (s0 : State) : State :=
  let l := s0.arg.line
  if s0.arg.k = 3 then decayLine l (s0.arg.data, s0.arg.x.setWidth 16, s0.arg.y.setWidth 48) s0 else
  let s := makeRoom l (if isLocal s0 (lineIa l) then fillBuffer (iaOffset (lineIa l)) s0 else s0)
  if !isLocal s (lineIa l) || !dramOnly s l || lineHeld s l || setFull s l then s
  else
    let s1 := hotCheck l (hotSample l (mcRead l (s.arg.data, s.arg.x.setWidth 16, s.arg.y.setWidth 48) s.arg.agent (classOf s.arg.k) s))
    if lineBad s1 l then
      let hint := s1.core.prefs.any fun p => p.line == l
      let alone := hint && s.arg.k != 1 && !s1.core.accs.any (fun g => g.line == l)
      let s2 := settleMem (failWaiting l (dropPrefs l s1))
      if alone || s.arg.k = 2 then clearBad l s2 else s2
    else settleMem (serveWaiting l s1)

/-- MC_LINE_WRITE: a write that reaches the controller. Reads: line, mask, data, agent. -/
def evMcLineWrite (s : State) : State :=
  let l := s.arg.line
  if !isLocal s (lineIa l) || lineHeld s l then s
  else hotCheck l (hotSample l (mcWrite l s.arg.mask s.arg.data s.arg.agent s))

/-- FAST_FILL (R21, R27): the lines of a range of DRAM become zero with a zero tag and a valid code, at the place that their row has
at this moment; bytes of a line that an L2 holds stay as they are there. A line that has never been stored, whose bytes the loader gave
(log entry 1), is zero too. Reads: n (first PA), m (bytes), b (second tier). -/
def evFastFill (s : State) : State :=
  let s1 := (storedIn s s.arg.b s.arg.n s.arg.m).foldl (fun st a =>
    match dramGet st a s.arg.b with
    | none => st
    | some d =>
      let st1 := dramPut a s.arg.b none (clearBad d.line st)
      if (homeFind st d.line).isSome then st1 else putLine d.line 0 st1) s
  let fresh := (linesOf (s1.die.mem.map (·.1))).filter fun l =>
    isLocal s1 (lineIa l) && (homeFind s1 l).isNone && match physOf s1 (lineIa l) with
      | some (pa, t2, _) => t2 == s.arg.b && decide (s.arg.n ≤ pa) && decide (pa < s.arg.n + s.arg.m) && (dramGet s1 (pa / 64 * 64) t2).isNone
      | none => false
  fresh.foldl (fun st l => putLine l 0 st) s1

/-! ## Parking a bank (R25 to R27) -/

def parkOf (s : State) (e : BitVec 2) : ParkEntry := s.die.park.get e.toFin
def setPark (e : BitVec 2) (p : ParkEntry) (s : State) : State := s.upDie fun d => { d with park := d.park.set e.toFin p }

/-- BPCTL_SELECT: a write whose CMD is 0. Reads: n (entry). -/
def evBpctlSelect (s : State) : State := s.upDie fun d => { d with bpSel := BitVec.ofNat 2 s.arg.n }
/-- R25: what a read of BPCTL returns: the fields of the entry that ENTRY names, and CMD as zero. -/
def readBpctl (s : State) : W64 :=
  let p := parkOf s s.die.bpSel
  BitVec.ofNat 64 ((if p.busy then 2 ^ 63 else 0) + (if p.fail then 2 ^ 62 else 0) + p.phase.toNat * 2 ^ 60
    + (if p.rej then 2 ^ 59 else 0) + s.die.bpSel.toNat * 2 ^ 30 + p.pattern.toNat * 2 ^ 24 + p.pc.toNat * 2 ^ 4 + p.bank.toNat)

/-- R27: the bank is parked in another entry, or holds the park area. -/
def parkClash (s : State) (e : BitVec 2) (pc : BitVec 9) (bank : BitVec 4) : Bool :=
  Config.parkArea pc bank
    || (List.range 4).any fun i => i != e.toNat && let p := s.die.park.getD i (parkOf s e); p.phase != 0 && p.pc == pc && p.bank == bank

/-- R26: every row of a bank. -/
def bankRowCount : Nat := 2 ^ 16

/-- R26, R378: a bank counted as a lasting fault, or a row of it: it is parked and retired without a march. -/
def lastingBank (s : State) (pc : BitVec 9) (bank : BitVec 4) : Bool :=
  s.die.boot.lasting.any fun u =>
    (u % 4 == 1 && u / 4 == pc.toNat * 16 + bank.toNat)
      || (u % 4 == 0 && decide (u / 4 < 2 ^ 40) && u / 4 / 2 ^ 16 == pc.toNat * 16 + bank.toNat)

/-- R26, R379: rows of a bank repaired with spare rows of the stack: they are other rows from now on, with no events counted. -/
def repairRows (pc : BitVec 9) (bank : BitVec 4) (rows : List Nat) (s : State) : State :=
  let mine := fun (u : Nat) => u % 4 == 0 && u / 4 / 2 ^ 16 == pc.toNat * 16 + bank.toNat && rows.contains (u / 4 % 2 ^ 16)
  s.upDie fun d => { d with boot := { d.boot with
    lasting := d.boot.lasting.filter fun u => !mine u, events := d.boot.events.filter fun e => !mine e.1 } }

/-- A command to a park entry (R25 to R27). Reads: n (entry), m (PATTERN), k (PC), x (BANK), b (a one at REJ), and for an UNPARK nats (rows repaired).
A command selects its entry; one that R27 does not turn away stores PATTERN, PC and BANK and starts. A park command for the bank
that the entry already holds starts with the march. What becomes of the rows of a bank whose parked entry is given to another bank
the spec does not say: they stay in the entry, out of reach. ENTRY takes what a command writes there also where the command is ignored; REJ stays
until a one is written to it, with a command (b) before the command is weighed (DESIGN CHOICE, log entry 87). -/
def parkCommand (cmd : BitVec 2) (s0 : State) : State :=
  let e := BitVec.ofNat 2 s0.arg.n
  let s1 := s0.upDie fun d => { d with bpSel := e }
  let s := if s0.arg.b then setPark e { parkOf s1 e with rej := false } s1 else s1
  let p := parkOf s e
  let pc : BitVec 9 := BitVec.ofNat 9 s.arg.k
  let bank : BitVec 4 := s.arg.x.setWidth 4
  let pat : BitVec 3 := BitVec.ofNat 3 s.arg.m
  if p.busy then s
  else if parkClash s e pc bank then setPark e { p with rej := true } s
  else
    let q := { p with pattern := pat, pc := pc, bank := bank, cmd := cmd }
    if cmd = 3 then
      let s := if p.phase = 2 then repairRows pc bank s.arg.nats s else s
      let left := p.failing.filter fun r => !s.arg.nats.contains r
      if p.phase = 0 then setPark e q s
      else if left.isEmpty then setPark e { q with busy := true, phase := 3, failing := [], rows := 0 } s
      else setPark e { q with failing := left } s
    else if p.phase = 2 && p.pc == pc && p.bank == bank then setPark e { q with busy := true, fail := false, failing := [] } s
    else setPark e { q with busy := true, phase := 1, fail := false, failing := [], rows := 0 } s
def evParkTestUnpark (s : State) : State := parkCommand 1 s
def evParkTest (s : State) : State := parkCommand 2 s
def evUnpark (s : State) : State := parkCommand 3 s

/-- R26: rows of the bank of an entry, from p.rows up, copied with ciphertext, tag and code unchanged: into the entry, or back. k
rows, or with 0 all that remain. -/
def copyRows (e : BitVec 2) (back : Bool) (k : Nat) (s : State) : State :=
  let p := parkOf s e
  let upTo := if k = 0 then bankRowCount else min bankRowCount (p.rows + k)
  let mine := fun (pa : Nat) => hbmPc pa == p.pc.toNat && hbmBank pa == p.bank.toNat && decide (p.rows ≤ hbmRow pa) && decide (hbmRow pa < upTo)
  if back then
    let go := p.lines.filter fun x => mine x.1
    (setPark e { p with rows := upTo, lines := p.lines.filter fun x => !mine x.1 } s).upDie fun d =>
      { d with dram := (go.map fun x => (x.1, false, x.2)) ++ d.dram.filter fun x => !(!x.2.1 && mine x.1) }
  else
    let go := s.die.dram.filter fun x => !x.2.1 && mine x.1
    (setPark e { p with rows := upTo, lines := (go.map fun x => (x.1, x.2.2)) ++ p.lines } s).upDie fun d =>
      { d with dram := d.dram.filter fun x => !(!x.2.1 && mine x.1) }

/-- PARKING_COMPLETE: the next rows of the bank are copied; with the last the control cores repair rows with spare ones (nats), and the
march begins; or, for a bank in which a lasting fault is left, the entry rests parked and the bank's frames leave their free queue (R26,
R379). Reads: n (entry), m (rows of this step, 0 for all that remain), nats. -/
def evParkingComplete (s : State) : State :=
  let e := BitVec.ofNat 2 s.arg.n
  if !((parkOf s e).busy && (parkOf s e).phase == 1) then s
  else
    let s1 := copyRows e false s.arg.m s
    let p := parkOf s1 e
    if p.rows < bankRowCount then s1
    else
      let s1 := repairRows p.pc p.bank s.arg.nats s1
      let retire := lastingBank s1 p.pc p.bank
      let s2 := setPark e { p with phase := 2, busy := !retire } s1
      if !retire then s2
      else (upXlate (fun x => { x with freeFrames := x.freeFrames.filter fun f => !frameRetired s2 f }) s2).upDie fun d =>
        { d with boot := { d.boot with degr := true } }
/-- MARCH_COMPLETE. Reads: n (entry), nats (failing rows). A record of a failing row holds in its PA field the number of the row
(pseudo-channel, bank, row) and 0 as IA, since a row has no one address (DESIGN CHOICE, log entry 88). -/
def evMarchComplete (s : State) : State :=
  let e := BitVec.ofNat 2 s.arg.n
  let p := parkOf s e
  if !(p.busy && p.phase == 2) then s
  else
    let rows := s.arg.nats
    let q := { p with fail := !rows.isEmpty, failing := rows }
    let s1 := rows.foldl (fun st r => logError .failingRow ((p.pc.toNat * 16 + p.bank.toNat) * 2 ^ 16 + r) 0 st.core.agent .none st) s
    setPark e (if p.cmd == 1 && rows.isEmpty then { q with phase := 3, rows := 0 } else { q with busy := false }) s1
/-- UNPARKING_COMPLETE: the next rows go back to the bank; with the last the entry is idle. Reads: n (entry), m (rows of this step,
0 for all that remain). -/
def evUnparkingComplete (s : State) : State :=
  let e := BitVec.ofNat 2 s.arg.n
  if !((parkOf s e).busy && (parkOf s e).phase == 3) then s
  else
    let s1 := copyRows e true s.arg.m s
    let p := parkOf s1 e
    if p.rows < bankRowCount then s1 else setPark e { p with busy := false, phase := 0 } s1

/-! ## Translation (R35, R37, R38, R40) -/

/-- PAGE_TABLE_WALK. Reads: ia (its offset), b (remote). -/
def evPageTableWalk (s : State) : State :=
  let off := iaOffset s.arg.ia
  if (bufferFind s.die.xlate off).isSome then s else walkIn off s.arg.b s

/-- R37: the page of an IA is being changed. -/
def changing (s : State) (ia : BitVec 56) : Bool :=
  match s.die.xlate.change with
  | none => false
  | some c => c.all || pageNo (iaOffset ia) c.size == c.page

/-- R38, R43, R260: an answer noted by everyone who asked for a page: the held bundle, hints, stopped tasks, copies, collectives. -/
def noteAnswer (ia : BitVec 56) (r : ProbeReply) (s : State) : State :=
  let note := fun (q : BitVec 56 × Option ProbeReply) => if pageBase q.1 0 == pageBase ia 0 && q.2.isNone then (q.1, some r) else q
  (s.upDie fun d => { d with coll := { d.coll with colls := d.coll.colls.map fun c => { c with probes := c.probes.map note } } }).upCore
    fun c => { c with
      probes := c.probes.map note
      hints := c.hints.map fun h => { h with probes := h.probes.map note }
      leaving := c.leaving.map fun l => { l with probes := l.probes.map note }
      channels := c.channels.map fun h => { h with queue := h.queue.map fun k => { k with probes := k.probes.map note } } }

/-- R38: an answer that grants what a data access needs of the page installs an entry, whatever becomes of the bundle. -/
def installAnswer (ia : BitVec 56) (r : ProbeReply) (s : State) : State :=
  let mine := s.core.needs.filter fun q => pageBase q.1 0 == pageBase ia 0
  let s1 := s.upCore fun c => { c with needs := c.needs.filter fun q => !(pageBase q.1 0 == pageBase ia 0) }
  match r with
  | .mapped size rd wr ex => if mine.any fun q => permits q.2 rd wr ex then filterInstall s1 ia size rd wr ex else s1
  | .unmapped => s1
/-- What the answer to a probe does at a core and its channels (R38, R260). A PROBE that succeeds installs the page in the filter, as an
access's probe does. -/
def answerProbe (ia : BitVec 56) (r : ProbeReply) (s : State) : State :=
  let waits := s.core.awaits.filter fun a => match a.probe with
    | some (x, _, _) => pageBase x 0 == pageBase ia 0 && a.value.isNone
    | none => false
  serveHints <| waits.foldl (fun st a => match a.probe with
    | some (x, k, n) =>
      let st1 := resolve a.id ((probeResult (probeNeed k) n.toNat x r).setWidth 1024) st
      match r with
      | .mapped size rd wr ex => if permits (probeNeed k) rd wr ex then filterInstall st1 x size rd wr ex else st1
      | .unmapped => st1
    | none => st) (installAnswer ia r (noteAnswer ia r s))

/-- HOME_PROBE: this die answers a probe of one of its pages, and sets RP for a prober of another agent; a page in change is
answered once the change is over (log entry 13). Reads: ia, agent (the prober). -/
def evHomeProbe (s : State) : State :=
  let ia := s.arg.ia
  if !isLocal s ia || changing s ia then s
  else
    let far := !(s.arg.agent == s.core.agent)
    let off := iaOffset ia
    let s1 := match bufferFind s.die.xlate off with
      | some e => if far && entOk e && !e.getLsbD 44 then writeLeaf off (setField e 44 1 1) s else s
      | none => walkIn off far s
    if far then s1.send (.probeReply s.arg.agent ia (homeReply s1 ia) (inTier2 s1 ia)) else answerProbe ia (homeReply s1 ia) s1

/-- R24: what the home of a page has said of its tier. -/
def noteTier (ia : BitVec 56) (r : ProbeReply) (tier2 : Bool) (s : State) : State :=
  match r with
  | .mapped size _ _ _ => upXlate (fun x =>
      let rest := x.farTier2.filter fun p => !(pageBase ia p.2 == p.1)
      { x with farTier2 := if tier2 then (pageBase ia size, size) :: rest else rest }) s
  | .unmapped => s
/-- PROBE_ANSWER: the answer of another home to a probe, with m = 1 for a page of the second tier, or (b) to the check of a strong
access of n bytes (k: 1 it passes, 2 it is mixed, R286). Reads: ia, reply, m, b, k, n. -/
def evProbeAnswer (s : State) : State :=
  if s.arg.b then
    s.upCore fun c => { c with strong := c.strong.map fun q =>
      if q.1 == s.arg.ia && q.2.1 == s.arg.n && q.2.2.isNone then (q.1, q.2.1, some (s.arg.k == 1)) else q }
  else answerProbe s.arg.ia s.arg.reply (noteTier s.arg.ia s.arg.reply (s.arg.m == 1) s)

/-- R37: the acknowledgements a change waits for: of this core, of each other core of the die, and where the invalidations go
pod-wide of each other configured agent. How they are counted the spec does not say: one for each receiver, a core that is offline
among them (DESIGN CHOICE, log entry 89). -/
def changeAcks (s : State) (pod : Bool) : Nat :=
  1 + s.die.disp.peers.length + (if pod then (without s.core.agent s.die.links.configured).length else 0)

/-- R37, step 4: on the last acknowledgement the home drops the old entries and reads the new one; BUSY clears. -/
def invAckOne (s : State) : State :=
  match s.die.xlate.change with
  | none => s
  | some c =>
    if c.waitAcks ≤ 1 then
      let s1 := upXlate (fun x => { x with
        change := none
        buffer := if c.all then [] else x.buffer.filter fun b => !(b.1 == c.page && entSize b.2 == c.size) }) s
      if c.all then s1 else fillBuffer (c.page ++ 0#16 : BitVec (30 + 16)) s1
    else upXlate (fun x => { x with change := some { c with waitAcks := c.waitAcks - 1 } }) s

/-- Two pages share a byte. -/
def pagesMeet (a : BitVec 56) (sa : BitVec 2) (b : BitVec 56) (sb : BitVec 2) : Bool :=
  pageBase a sb == pageBase b sb || pageBase b sa == pageBase a sa
/-- R40: an access admitted under the page has not reached its home, or a copy holds it. -/
def pageInUse (s : State) (d : DeferInv) : Bool :=
  let hit := fun (x : BitVec 56) => d.all || pageBase x d.size == pageBase d.ia d.size
  (s.core.accs.any fun g => (accBytes g).any fun a => hit (BitVec.ofNat 56 a))
    || s.core.channels.toList.any fun h => h.queue.any fun c => (c.checked || c.record.isSome || !c.blocks.isEmpty) && c.pages.any hit
/-- R40: the entries of the page go, with the answers that a held bundle, a hint, a stopped task, a command or a collective not yet
started has had about it, which are asked for again, and the core acknowledges. -/
def ackInv (d : DeferInv) (s : State) : State :=
  let stale := fun (q : BitVec 56 × Option ProbeReply) => (d.all || pageBase q.1 d.size == pageBase d.ia d.size) && q.2.isSome
  let keep := fun (l : List (BitVec 56 × Option ProbeReply)) => l.filter fun q => !stale q
  let again := (s.core.hints.flatMap fun h => (h.probes.filter stale).map (·.1)).filter fun ia => !isLocal s ia
  let s1 := s.upCore fun c => { c with
    filter := if d.all then [] else c.filter.filter fun f => !pagesMeet f.base f.size d.ia d.size
    probes := keep c.probes
    hints := c.hints.map fun h => { h with probes := h.probes.map fun q => if stale q then (q.1, none) else q }
    leaving := c.leaving.map fun l => { l with probes := keep l.probes }
    channels := c.channels.map fun h => { h with queue := h.queue.map fun k => if k.checked then k else { k with probes := keep k.probes } } }
  let s2 := s1.upDie fun x => { x with coll := { x.coll with
    colls := x.coll.colls.map fun c => if c.checked then c else { c with probes := keep c.probes } } }
  let s3 := again.foldl (fun st ia => st.send (.probe (iaAgent ia) ia)) s2
  if isLocal s d.ia then invAckOne s3 else s3.send (.filterAck d.ia)
def takeInv (d : DeferInv) (s : State) : State :=
  if pageInUse s d then s.upCore fun c => { c with deferInv := c.deferInv ++ [d] } else ackInv d s

/-- R37, steps 1 and 2: a change starts: invalidations go to every core of the die, this one too, and with pod to every agent. A
change of all pages goes pod-wide whatever RP its pages have (DESIGN CHOICE, log entry 89). -/
def htStart (c : HtChange) (pod : Bool) (s : State) : State :=
  if s.die.xlate.change.isSome then s
  else
    let s1 := (upXlate (fun x => { x with
      change := some { c with waitAcks := changeAcks s pod }
      cmdSize := c.size, cmdPage := c.page }) s).send (.filterInv pod c.page c.size c.all)
    takeInv ⟨(s.core.agent ++ (c.page ++ 0#16 : BitVec (30 + 16)) : BitVec (10 + (30 + 16))), c.size, c.all⟩ s1
/-- R37: what a read of HTCMD returns: BUSY, SIZE and IAPAGE, and CMD as zero. -/
def readHtcmd (s : State) : W64 :=
  let x := s.die.xlate
  BitVec.ofNat 64 ((if x.change.isSome then 2 ^ 63 else 0) + x.cmdSize.toNat * 2 ^ 58 + x.cmdPage.toNat * 2 ^ 16)
/-- R34: RP of the page, in the buffer or the table. -/
def pageRp (s : State) (off : BitVec 46) : Bool :=
  match bufferFind s.die.xlate off with
  | some e => e.getLsbD 44
  | none => match tableWalk s off with | .leaf e _ => e.getLsbD 44 | _ => false
/-- HT_CHANGE_PAGE. Reads: n (SIZE), m (IAPAGE). -/
def evHtChangePage (s : State) : State :=
  let page : BitVec 30 := BitVec.ofNat 30 s.arg.m
  htStart ⟨false, BitVec.ofNat 2 s.arg.n, page, 0⟩ (pageRp s (page ++ 0#16 : BitVec (30 + 16))) s
/-- HT_CHANGE_ALL. Reads: n (SIZE) and m (IAPAGE), which HTCMD stores. -/
def evHtChangeAll (s : State) : State := htStart ⟨true, BitVec.ofNat 2 s.arg.n, BitVec.ofNat 30 s.arg.m, 0⟩ true s

/-- FILTER_INV_ACK: an acknowledgement of another core or agent. -/
def evFilterInvAck (s : State) : State := invAckOne s

/-- FILTER_INVALIDATE. Reads: ia, n (SIZE), b (all pages). -/
def evFilterInvalidate (s : State) : State := takeInv ⟨s.arg.ia, BitVec.ofNat 2 s.arg.n, s.arg.b⟩ s
/-- FILTER_ACK_WHEN_FREE. -/
def evFilterAckWhenFree (s : State) : State :=
  match s.core.deferInv.find? fun d => !pageInUse s d with
  | none => s
  | some d => ackInv d (s.upCore fun c => { c with deferInv := c.deferInv.erase d })

/-! ## Coherence (R52 to R62) -/

/-- READ_SHARED, READ_OWN, UPGRADE, READ_SHARED_UNC: requests of other agents. Reads: coh. -/
def evReadShared (s : State) : State := arriveHome (txnOf .readShared s.arg.coh) s
def evReadOwn (s : State) : State := arriveHome (txnOf .readOwn s.arg.coh) s
def evUpgrade (s : State) : State := arriveHome (txnOf .upgrade s.arg.coh) s
def evReadSharedUnc (s : State) : State := arriveHome (txnOf .readUnc s.arg.coh) s
/-- READ_OWN_UNC. Reads: coh, mask. -/
def evReadOwnUnc (s : State) : State := arriveHome { txnOf .ownUnc s.arg.coh with mask := s.arg.mask } s

/-- R200: an atomic operation by its number in a ReadOwn with ATOM. -/
def atomOfNat : Nat → AtomOp
  | 0 => .add
  | 1 => .min
  | 2 => .max
  | 3 => .minn
  | 4 => .maxn
  | 5 => .and
  | 6 => .or
  | 7 => .xor
  | 8 => .xchg
  | 9 => .cas
  | 10 => .faddB
  | _ => .faddF
/-- R286: a strong access of another agent at this home: it passes and is recorded, or it clashes with the recorded one, which
stays; the asker is told. -/
def strongAtHome (ia : Nat) (n : Nat) (agent : BitVec 10) (cid : BitVec 8) (s : State) : State :=
  let key := coreKey agent cid
  let ok := !mixedWith s key ia n
  (if ok then noteStrong ia n key s else s).send (.strongReply agent (BitVec.ofNat 56 ia) n cid ok)
/-- READ_OWN_ATOM. Reads: coh, n (operation), m (bytes), k (offset), x and y; with b, only the check of R286, with n the asking
core's number on its die. -/
def evReadOwnAtom (s : State) : State :=
  if s.arg.b then
    let ia := (lineIa s.arg.coh.line).toNat + s.arg.k
    if isLocal s (BitVec.ofNat 56 ia) then strongAtHome ia s.arg.m s.arg.coh.src (BitVec.ofNat 8 s.arg.n) s else s
  else arriveHome { txnOf .ownAtom s.arg.coh with atom := some (atomOfNat s.arg.n, s.arg.m, s.arg.k, s.arg.x, s.arg.y) } s

/-- R61: a message for a home that has come to another agent, or for a holder that has come to the home, is unexpected. -/
def atHomeOnly (f : State → State) (s : State) : State :=
  if isLocal s (lineIa s.arg.coh.line) then settleMem (f s) else countInt s
def elsewhereOnly (f : State → State) (s : State) : State :=
  if isLocal s (lineIa s.arg.coh.line) then countInt s else f s
/-- WRITE_BACK, INV_ACK. Reads: coh. -/
def evWriteBack (s : State) : State := atHomeOnly (writeBackAt s.arg.coh) s
def evInvAck (s : State) : State := atHomeOnly (invAckAt s.arg.coh) s
/-- FORWARD, INVALIDATE: to this agent as a holder. Reads: coh. -/
def evForward (s : State) : State := elsewhereOnly (forwardAt s.arg.coh) s
def evInvalidate (s : State) : State := elsewhereOnly (invalidateAt s.arg.coh) s

/-- R49: the fields of a 16-byte coherence header: TYPE, FLAGS, TICKET, SRC, REQ, TXN, ERR, LINE. -/
structure CohHeader where
  type : BitVec 4
  flags : BitVec 8
  ticket : BitVec 16
  src : BitVec 10
  req : BitVec 10
  txn : BitVec 12
  err : BitVec 4
  line : BitVec 50
deriving DecidableEq, Repr

def CohHeader.toBits (h : CohHeader) : W128 :=
  BitVec.ofNat 128 (h.type.toNat * 2 ^ 124 + h.flags.toNat * 2 ^ 116 + h.ticket.toNat * 2 ^ 100 + h.src.toNat * 2 ^ 90
    + h.req.toNat * 2 ^ 80 + h.txn.toNat * 2 ^ 68 + h.err.toNat * 2 ^ 64 + h.line.toNat)
def CohHeader.ofBits (w : W128) : CohHeader :=
  ⟨w.extractLsb' 124 4, w.extractLsb' 116 8, w.extractLsb' 100 16, w.extractLsb' 90 10, w.extractLsb' 80 10, w.extractLsb' 68 12,
    w.extractLsb' 64 4, w.extractLsb' 0 50⟩

/-- R49: the TYPE of a message. -/
def CohOp.type : CohOp → Nat
  | .readShared => 0
  | .readSharedUnc => 0
  | .readOwn => 1
  | .readOwnUnc => 1
  | .readOwnAtom => 1
  | .upgrade => 2
  | .writeBack => 3
  | .forward => 4
  | .invalidate => 5
  | .invAck => 6
  | .data => 7
  | .error => 8
/-- R49: the FLAGS of a message: UNC, ATOM, DIRTY, NOCOPY, DONE, FWD, SHARE, PAYLOAD from bit 0 up. A masked write and an atomic
carry a payload of their own. -/
def cohFlags (op : CohOp) (m : Coh) : BitVec 8 :=
  let unc := m.unc || op == .readSharedUnc || op == .readOwnUnc
  let pay := m.data.isSome || op == .readOwnUnc || op == .readOwnAtom
  BitVec.ofNat 8 ([unc, op == .readOwnAtom, m.dirty, m.nocopy, m.done, m.fwd, m.share, pay].zipIdx.foldl
    (fun a x => a + if x.1 then 2 ^ x.2 else 0) 0)
/-- R49: the header of a message. -/
def cohHeader (op : CohOp) (m : Coh) (err : BitVec 4) : CohHeader :=
  ⟨BitVec.ofNat 4 op.type, cohFlags op m, m.ticket.getD 0, m.src, m.req, m.txn, if op == .error then err else 0, m.line⟩
/-- R50: the virtual channel a message travels on. -/
inductive CohChannel where | request | response | forwardInvalidate | bulk
deriving DecidableEq, Repr
def cohChannel (op : CohOp) (m : Coh) : CohChannel :=
  let f := cohFlags op m
  if f.getLsbD 0 && f.getLsbD 7 then .bulk
  else match op with
    | .readShared | .readSharedUnc | .readOwn | .readOwnUnc | .readOwnAtom | .upgrade => .request
    | .forward | .invalidate => .forwardInvalidate
    | .writeBack | .invAck | .data | .error => .response

/-- R49: a receiver drops a message with a reserved TYPE or ERR. -/
def CohHeader.reserved (h : CohHeader) : Bool :=
  decide (9 ≤ h.type.toNat) || decide (h.type.toNat = 8 ∧ (h.err = 0 ∨ 4 ≤ h.err.toNat))
/-- DATA. Reads: coh; with b, a message of any TYPE by its 16-byte header in data, which is dropped and counted where that is
reserved (R49, R61). -/
def evData (s : State) : State :=
  if s.arg.b then (if (CohHeader.ofBits (s.arg.data.setWidth 128)).reserved then countInt s else s)
  else settleMem (dataAt s.arg.coh s)

/-- R20, R101: the Grotto command with a number has met an uncorrectable arena read at the other die: its status is not delivered, and
its core, or its image, has the fault. -/
def grotFailed (id : Nat) (s : State) : State :=
  let asks := fun (a : Await) => a.id == id && a.grot.isSome
  let fault := fun (a : Asyncs) => { a with grottoFault := some 1 }
  let img := fun (x : W64 × Ctx) =>
    if x.2.awaits.any asks then (x.1, { x.2 with awaits := x.2.awaits.filter (fun a => !asks a), asyncs := fault x.2.asyncs }) else x
  if s.core.awaits.any asks then raiseAsync fault (s.upCore fun c => { c with awaits := c.awaits.filter fun a => !asks a })
  else upDisp (fun d => { d with slots := d.slots.map img }) (s.upCore fun c => { c with saveArea := c.saveArea.map img })
/-- ERROR: an Error message (R20, R198), or with b an uncorrectable arena read at the other die's controller for the Grotto command
with the number m. Reads: coh, n (code), b, m. -/
def evError (s : State) : State :=
  if s.arg.b then grotFailed s.arg.m s else settleMem (errorAt s.arg.coh s.arg.n s)

/-- R46: another core of the die takes a line into its L1: the L2 records it; where it takes it to write, every other copy is
recalled, else a modified one returns its data. -/
def peerTakesLine (core : BitVec 8) (excl : Bool) (l : BitVec 50) (s : State) : State :=
  if core == s.core.cid then s else noteHolder core l (if excl then recallL1 l s else shareL1 l s)
/-- HOME_DIE_READ, HOME_DIE_EXCLUSIVE: the caches or (b) the engines of this die want a line of its own; with b and n = 1 the fetch reads
a line of tags uncached (R65). Reads: line; b; n; k, the core-in-die plus one of another core whose L1 takes it (0: this core); m, 1 for a
write of the whole line (R21), and for an engine's the number plus one of its copy channel (R77): m of a read, n of a write. -/
def evHomeDieRead (s : State) : State :=
  let l := s.arg.line
  if lineReadable s l then (if s.arg.k = 0 || !isLocal s (lineIa l) then s else peerTakesLine (BitVec.ofNat 8 (s.arg.k - 1)) false l s)
  else settleMem (homeDie (if s.arg.b then .readUnc else .homeRead) (s.arg.b && s.arg.n != 1) false s.arg.m l s)
def evHomeDieExclusive (s : State) : State :=
  let l := s.arg.line
  if lineWritable s l then (if s.arg.k = 0 || !isLocal s (lineIa l) then s else peerTakesLine (BitVec.ofNat 8 (s.arg.k - 1)) true l s)
  else settleMem (homeDie .homeExcl s.arg.b (s.arg.m == 1) s.arg.n l s)
/-- REQUEST_RESEND, WAITING_REQUEST_SERVE, WAY_FREE_WAIT, HOME_SLICE_EVICTION. Reads: line. With b REQUEST_RESEND sends the writes of
engines that waited for room (R49), and WAY_FREE_WAIT writes back what disabled ways still hold (R379). -/
def evRequestResend (s : State) : State := if s.arg.b then sendLater s else resendAt s.arg.line s
def evWaitingRequestServe (s : State) : State := settleMem (serveWaiting s.arg.line s)
def evWayFreeWait (s : State) : State := settleMem (if s.arg.b then clearDead s else wayFree s.arg.line s)
def evHomeSliceEviction (s : State) : State :=
  if isLocal s (lineIa s.arg.line) && !lineHeld s s.arg.line then hotCheck s.arg.line (evictHome s.arg.line s) else s
/-- TICKET_SKIP. Reads: n (slice). -/
def evTicketSkip (s : State) : State := ticketSkip (slice48 s.arg.n) s
/-- LOCAL_SLICE_READ, LOCAL_SLICE_WRITE, LOCAL_SLICE_EVICTION: lines of other homes. Reads: line, b for an uncached read, k = 1
where the fetch asks for it and not an engine (R65), and n, the number plus one of the copy channel that asks (R77). -/
def evLocalSliceRead (s : State) : State := localRead s.arg.b (s.arg.b && s.arg.k != 1) s.arg.n s.arg.line s
def evLocalSliceWrite (s : State) : State := settleMem (localWrite s.arg.line s)
def evLocalSliceEviction (s : State) : State := giveUp s.arg.line s
/-- CODE_LINE_FILL, ICACHE_FILL. Reads: n (the code line's number, its IA divided by 128). -/
def evCodeLineFill (s : State) : State := codeFill (BitVec.ofNat 49 s.arg.n) s
def evIcacheFill (s : State) : State := icacheFill (BitVec.ofNat 49 s.arg.n) s

/-! ## Execution -/

/-- HOT_PAGE_EPOCH (R42): the step of this name, on what is in s.arg. -/
def execHotPageEpoch (s : State) : Host.Outcome State Fault Refusal := .next (evHotPageEpoch s)
/-- MC_LINE_WRITE (R21): the step of this name, on what is in s.arg. -/
def execMcLineWrite (s : State) : Host.Outcome State Fault Refusal := .next (evMcLineWrite s)
/-- FAST_FILL (R21): the step of this name, on what is in s.arg. -/
def execFastFill (s : State) : Host.Outcome State Fault Refusal := .next (evFastFill s)
/-- MK_LOAD (R18): the step of this name, on what is in s.arg. -/
def execMkLoad (s : State) : Host.Outcome State Fault Refusal := .next (evMkLoad s)
/-- MK_LOAD_RANDOM (R18): the step of this name, on what is in s.arg. -/
def execMkLoadRandom (s : State) : Host.Outcome State Fault Refusal := .next (evMkLoadRandom s)
/-- MK_ZEROISE (R18): the step of this name, on what is in s.arg. -/
def execMkZeroise (s : State) : Host.Outcome State Fault Refusal := .next (evMkZeroise s)
/-- MK_COMMAND_COMPLETE (R19): the step of this name, on what is in s.arg. -/
def execMkCommandComplete (s : State) : Host.Outcome State Fault Refusal := .next (evMkCommandComplete s)
/-- BPCTL_SELECT (R25): the step of this name, on what is in s.arg. -/
def execBpctlSelect (s : State) : Host.Outcome State Fault Refusal := .next (evBpctlSelect s)
/-- PARK_TEST_UNPARK (R26): the step of this name, on what is in s.arg. -/
def execParkTestUnpark (s : State) : Host.Outcome State Fault Refusal := .next (evParkTestUnpark s)
/-- PARK_TEST (R26): the step of this name, on what is in s.arg. -/
def execParkTest (s : State) : Host.Outcome State Fault Refusal := .next (evParkTest s)
/-- UNPARK (R26): the step of this name, on what is in s.arg. -/
def execUnpark (s : State) : Host.Outcome State Fault Refusal := .next (evUnpark s)
/-- PARKING_COMPLETE (R26): the step of this name, on what is in s.arg. -/
def execParkingComplete (s : State) : Host.Outcome State Fault Refusal := .next (evParkingComplete s)
/-- MARCH_COMPLETE (R26): the step of this name, on what is in s.arg. -/
def execMarchComplete (s : State) : Host.Outcome State Fault Refusal := .next (evMarchComplete s)
/-- UNPARKING_COMPLETE (R26): the step of this name, on what is in s.arg. -/
def execUnparkingComplete (s : State) : Host.Outcome State Fault Refusal := .next (evUnparkingComplete s)
/-- HOME_PROBE (R38): the step of this name, on what is in s.arg. -/
def execHomeProbe (s : State) : Host.Outcome State Fault Refusal := .next (evHomeProbe s)
/-- PROBE_ANSWER (R38): the step of this name, on what is in s.arg. -/
def execProbeAnswer (s : State) : Host.Outcome State Fault Refusal := .next (evProbeAnswer s)
/-- PAGE_TABLE_WALK (R35): the step of this name, on what is in s.arg. -/
def execPageTableWalk (s : State) : Host.Outcome State Fault Refusal := .next (evPageTableWalk s)
/-- HT_CHANGE_PAGE (R37): the step of this name, on what is in s.arg. -/
def execHtChangePage (s : State) : Host.Outcome State Fault Refusal := .next (evHtChangePage s)
/-- HT_CHANGE_ALL (R37): the step of this name, on what is in s.arg. -/
def execHtChangeAll (s : State) : Host.Outcome State Fault Refusal := .next (evHtChangeAll s)
/-- FILTER_INVALIDATE (R40): the step of this name, on what is in s.arg. -/
def execFilterInvalidate (s : State) : Host.Outcome State Fault Refusal := .next (evFilterInvalidate s)
/-- FILTER_ACK_WHEN_FREE (R40): the step of this name, on what is in s.arg. -/
def execFilterAckWhenFree (s : State) : Host.Outcome State Fault Refusal := .next (evFilterAckWhenFree s)
/-- FILTER_INV_ACK (R37): the step of this name, on what is in s.arg. -/
def execFilterInvAck (s : State) : Host.Outcome State Fault Refusal := .next (evFilterInvAck s)
/-- MIGRATION (R41): the step of this name, on what is in s.arg. -/
def execMigration (s : State) : Host.Outcome State Fault Refusal := .next (evMigration s)
/-- READ_SHARED (R54): the step of this name, on what is in s.arg. -/
def execReadShared (s : State) : Host.Outcome State Fault Refusal := .next (evReadShared s)
/-- READ_OWN (R55): the step of this name, on what is in s.arg. -/
def execReadOwn (s : State) : Host.Outcome State Fault Refusal := .next (evReadOwn s)
/-- UPGRADE (R55): the step of this name, on what is in s.arg. -/
def execUpgrade (s : State) : Host.Outcome State Fault Refusal := .next (evUpgrade s)
/-- WRITE_BACK (R56): the step of this name, on what is in s.arg. -/
def execWriteBack (s : State) : Host.Outcome State Fault Refusal := .next (evWriteBack s)
/-- READ_SHARED_UNC (R56): the step of this name, on what is in s.arg. -/
def execReadSharedUnc (s : State) : Host.Outcome State Fault Refusal := .next (evReadSharedUnc s)
/-- READ_OWN_UNC (R56): the step of this name, on what is in s.arg. -/
def execReadOwnUnc (s : State) : Host.Outcome State Fault Refusal := .next (evReadOwnUnc s)
/-- READ_OWN_ATOM (R56): the step of this name, on what is in s.arg. -/
def execReadOwnAtom (s : State) : Host.Outcome State Fault Refusal := .next (evReadOwnAtom s)
/-- HOME_DIE_READ (R56): the step of this name, on what is in s.arg. -/
def execHomeDieRead (s : State) : Host.Outcome State Fault Refusal := .next (evHomeDieRead s)
/-- HOME_DIE_EXCLUSIVE (R56): the step of this name, on what is in s.arg. -/
def execHomeDieExclusive (s : State) : Host.Outcome State Fault Refusal := .next (evHomeDieExclusive s)
/-- FORWARD (R57): the step of this name, on what is in s.arg. -/
def execForward (s : State) : Host.Outcome State Fault Refusal := .next (evForward s)
/-- INVALIDATE (R57): the step of this name, on what is in s.arg. -/
def execInvalidate (s : State) : Host.Outcome State Fault Refusal := .next (evInvalidate s)
/-- INV_ACK (R53): the step of this name, on what is in s.arg. -/
def execInvAck (s : State) : Host.Outcome State Fault Refusal := .next (evInvAck s)
/-- DATA (R53): the step of this name, on what is in s.arg. -/
def execData (s : State) : Host.Outcome State Fault Refusal := .next (evData s)
/-- ERROR (R20): the step of this name, on what is in s.arg. -/
def execError (s : State) : Host.Outcome State Fault Refusal := .next (evError s)
/-- REQUEST_RESEND (R52): the step of this name, on what is in s.arg. -/
def execRequestResend (s : State) : Host.Outcome State Fault Refusal := .next (evRequestResend s)
/-- TICKET_SKIP (R52): the step of this name, on what is in s.arg. -/
def execTicketSkip (s : State) : Host.Outcome State Fault Refusal := .next (evTicketSkip s)
/-- WAITING_REQUEST_SERVE (R52): the step of this name, on what is in s.arg. -/
def execWaitingRequestServe (s : State) : Host.Outcome State Fault Refusal := .next (evWaitingRequestServe s)
/-- WAY_FREE_WAIT (R62): the step of this name, on what is in s.arg. -/
def execWayFreeWait (s : State) : Host.Outcome State Fault Refusal := .next (evWayFreeWait s)
/-- HOME_SLICE_EVICTION (R48): the step of this name, on what is in s.arg. -/
def execHomeSliceEviction (s : State) : Host.Outcome State Fault Refusal := .next (evHomeSliceEviction s)
/-- LOCAL_SLICE_READ (R57): the step of this name, on what is in s.arg. -/
def execLocalSliceRead (s : State) : Host.Outcome State Fault Refusal := .next (evLocalSliceRead s)
/-- LOCAL_SLICE_WRITE (R57): the step of this name, on what is in s.arg. -/
def execLocalSliceWrite (s : State) : Host.Outcome State Fault Refusal := .next (evLocalSliceWrite s)
/-- LOCAL_SLICE_EVICTION (R57): the step of this name, on what is in s.arg. -/
def execLocalSliceEviction (s : State) : Host.Outcome State Fault Refusal := .next (evLocalSliceEviction s)
/-- CODE_LINE_FILL (R65): the step of this name, on what is in s.arg. -/
def execCodeLineFill (s : State) : Host.Outcome State Fault Refusal := .next (evCodeLineFill s)
/-- ICACHE_FILL (R64): the step of this name, on what is in s.arg. -/
def execIcacheFill (s : State) : Host.Outcome State Fault Refusal := .next (evIcacheFill s)

end Sys2Proof.Machine
end

