-- ==== Sys2Proof/Machine/EngineEvents.lean ====
section
/-! DEFINITION. Steps of the scratchpad's granules, the messages, the copy channels, the collective engine and the matrix unit
(R72, R75, R76, R78 to R93, R100, R180, R181, R184, R245, R369, R370). -/
namespace Sys2Proof.Machine

/-! ## Granules (R72, R93) -/

/-- The granules that the regions of an SPW set cover. -/
def spwGranules (spw : Vector W64 4) : List Nat :=
  spw.toList.flatMap fun w => if spwV w then (List.range (spwCount w)).map fun i => spwPbase w + i else []
/-- The granules that a command's scratchpad span touches; a chain may come to any of its task's (R92). -/
def cmdGranules (c : Cmd) : List Nat :=
  let n := cmdSpan c
  if c.isChain then spwGranules c.spw
  else if n = 0 then []
  else ((List.range (n / 2 ^ 16 + 2)).filterMap fun i =>
    (cmdLook c (cmdSpadBase c + BitVec.ofNat 64 (min (i * 2 ^ 16) (n - 1)))).map (· / 2 ^ 16)).eraseDups

/-- R72, R93: work of a task that has ended still uses a granule. -/
def granuleUsed (s : State) (g : Nat) : Bool :=
  (s.core.channels.toList.any fun h => h.queue.any fun c => !c.live && (cmdGranules c).contains g)
    || (mxAll s).any fun e => !e.live && (spwGranules e.spw).contains g
/-- R72: the regions of ended tasks that no work uses any more. -/
def releasable (s : State) : List (List Nat) := s.core.freeing.filter fun r => !r.any (granuleUsed s)
/-- REGION_RELEASE: the regions that can be released go to clearing; with b another core of the die has granules free again: n (core in
die), nats. -/
def evRegionRelease (s : State) : State :=
  if s.arg.b then upPeer s.arg.n (fun p => { p with free60 := (List.range 60).filter fun g => p.free60.contains g || s.arg.nats.contains g }) s
  else
    let rs := releasable s
    setGranules rs.flatten .clearing (s.upCore fun c => { c with freeing := c.freeing.filter fun r => !rs.contains r })
/-- GRANULE_CLEAR_DONE: a granule reads as zero and is free. Reads: n (granule). -/
def evGranuleClearDone (s : State) : State :=
  let g := s.arg.n
  if g < 60 ∧ s.core.granules.getD g .held = .clearing then
    setGranules [g] .free (s.setSpad (s.core.spad.clear (g * 2 ^ 16) (2 ^ 16)))
  else s

/-! ## Messages (R75, R76) -/

/-- MAILBOX_DELIVERY: a message of another core. Reads: n (rank), msg. -/
def evMailboxDelivery (s : State) : State := deliverMail (BitVec.ofNat 16 s.arg.n) s.arg.msg s
/-- MESSAGE_ACCEPT. Reads: b (the receiver has no place), k = 1 where the task of the rank runs on no core. -/
def evMessageAccept (s : State) : State := acceptMail s.arg.b (s.arg.k == 1) s
/-- POSTED_BUFFER_FILL. Reads: x (domain), n (source rank), m (tag), bytes. -/
def evPostedBufferFill (s : State) : State :=
  postedFill (s.arg.x.setWidth 16) (BitVec.ofNat 16 s.arg.n) (BitVec.ofNat 16 s.arg.m) s.arg.bytes s

/-! ## Copies (R78 to R93, R100) -/

/-- COPY_COMMAND_START. Reads: n (channel), and with b the answer of the other die's controller to a CPYST: k (0, or the subcause it
refuses with). n = 4 is the check of a CPYST of another core or die: k (its number there), x (sequence word), y (offset), m (bytes). -/
def evCopyCommandStart (s : State) : State :=
  if s.arg.n = 4 then askedCheck s.arg.k s.arg.x s.arg.y.toNat s.arg.m s
  else copyStart (BitVec.ofNat 2 s.arg.n) (if s.arg.b then some s.arg.k else none) s
/-- COPY_CHUNK_LANDED. Reads: n (channel), m (place in its queue), k (piece); with b what the outside brings: x (length of the
receiver's buffer, for a CPYMSG), bytes (the chunk another die's controller has sent; none where it cannot be read). n = 4 is the
read of a chunk for another core or die: k (its number there), x (sequence word), m (chunk). -/
def evCopyChunkLanded (s : State) : State :=
  if s.arg.n = 4 then askedRead s.arg.k s.arg.x s.arg.m s
  else chunkLanded (BitVec.ofNat 2 s.arg.n) s.arg.m s.arg.k s.arg.b s.arg.x.toNat s.arg.bytes s
/-- COPY_COMMAND_COMPLETE, CHAIN_RECORD_READ. Reads: n (channel). -/
def evCopyCommandComplete (s : State) : State := copyComplete (BitVec.ofNat 2 s.arg.n) s
def evChainRecordRead (s : State) : State := chainRead (BitVec.ofNat 2 s.arg.n) s
/-- STATE_CHUNK_WRITE. Reads: n (channel), m (place in its queue), k (piece); with b the answer of the other die's controller: x (0, or the
subcause). n = 4 is the write of a chunk of another core or die: k (its number there), x (sequence word), m (chunk), bytes. -/
def evStateChunkWrite (s : State) : State :=
  if s.arg.n = 4 then askedWrite s.arg.k s.arg.x s.arg.m s.arg.bytes s
  else stateWrite (BitVec.ofNat 2 s.arg.n) s.arg.m s.arg.k (if s.arg.b then some s.arg.x.toNat else none) s

/-! ## The matrix unit (R93, R245, R382) -/

/-- MATRIX_START: the head of the queue starts, once the array is awake, and occupies the unit for its cycles (R244, R245, R405). -/
def evMatrixStart (s : State) : State :=
  match s.core.mxRun, s.core.mxQueue with
  | none, e :: es =>
    if s.die.boot.gated.contains (BitVec.ofNat 9 (packageCore s)) then s
    else s.upCore fun c => { c with mxRun := some e, mxQueue := es, mxLeft := mxCycles e.op }
  | _, _ => s
/-- The instruction in execution completes; the array has been idle since then (R382). -/
def matrixDone (s : State) : State :=
  match s.core.mxRun with
  | some e => (mxFinish e (s.upCore fun c => { c with mxRun := none, mxLeft := 0 })).upDie fun d => { d with boot := { d.boot with arraySince := s.cycle } }
  | none => s
/-- MATRIX_COMPLETE: not before the instruction's cycles have passed. -/
def evMatrixComplete (s : State) : State := if s.core.mxLeft = 0 then matrixDone s else s

/-! ## Deques (R184) -/

def markReleased (s : State) (d : DequeRec) : DequeRec := { d with released := releasedNow s d }
/-- The package core id in a TAKE's or STEAL's status word. -/
def wordOwner (w : W64) : Nat := (w.extractLsb' 16 9).toNat
/-- R184, R185: the records of another core's deque that this core has taken and holds are released. -/
def freeHeld (cid : Nat) (s : State) : State :=
  s.upCore fun c => { c with awaits := c.awaits.map fun a => match a.held with
    | some (d, va, w) => if wordOwner w % 136 = cid then { a with held := some ({ d with released := true }, va, w) } else a
    | none => a }
/-- R70, R184: another core pushes a record: its deque of 32, then its overflow area of 512, then the FIFO. -/
def peerPush (cid : Nat) (r : Rec) (s : State) : State :=
  match peerOf s cid with
  | none => s
  | some p =>
    if p.deque.length < 32 then upPeer cid (fun q => { q with deque := q.deque ++ [⟨r, false, 0⟩] }) s
    else
      let s1 := if p.ovf.length < 512 then s else match p.ovf with
        | o :: _ => fifoEnter false o.record (upPeer cid (fun q => { q with ovf := q.ovf.tail }) s)
        | [] => s
      upPeer cid (fun q => { q with deque := q.deque.tail ++ [⟨r, false, 0⟩], ovf := q.ovf ++ p.deque.take 1 }) s1
/-- R185: another core steals the oldest record of this core's deque; not of one that is offline (R380). -/
def stolen (cid : Nat) (s : State) : State :=
  match s.core.deque with
  | d :: rest => if !s.core.offline && releasedNow s d then (s.upCore fun c => { c with deque := rest }).send (.spawnOut (BitVec.ofNat 8 cid) d.record) else s
  | [] => s
/-- SPAWN_RELEASE: the records whose spawner's accesses are performed can be taken. With b, of another core n of the die: those of its
deque (m = 0); or it pushes a record (m = 1), takes the most recent of its own (m = 2), or steals the oldest of this core's (m = 3). -/
def evSpawnRelease (s : State) : State :=
  if s.arg.b then
    match s.arg.m with
    | 0 => freeHeld s.arg.n (upPeer s.arg.n (fun p => { p with
        deque := p.deque.map fun r => { r with released := true }, ovf := p.ovf.map fun r => { r with released := true } }) s)
    | 1 => peerPush s.arg.n s.arg.record s
    | 2 => removeSource s.arg.n (if (dequeOf s s.arg.n).isEmpty then .ovf else .own) s
    | _ => stolen s.arg.n s
  else s.upCore fun c => { c with
    deque := c.deque.map (markReleased s), dequeOvf := c.dequeOvf.map fun o => { o with released := releasedNow s (ovfRec s o) } }

/-! ## Groups (R369) -/

/-- R369: CRC-32C, reflected, of bytes. -/
def crcBit (c : Nat) : Nat := if c % 2 = 1 then c / 2 ^^^ 0x82F63B78 else c / 2
def crcByte (c : Nat) (b : Byte) : Nat := crcBit (crcBit (crcBit (crcBit (crcBit (crcBit (crcBit (crcBit (c ^^^ b.toNat))))))))
def crc32c (bs : List Byte) : W32 := BitVec.ofNat 32 (bs.foldl crcByte 0xFFFFFFFF ^^^ 0xFFFFFFFF)

def groupOf (s : State) (e : BitVec 8) : Option Group :=
  match s.die.coll.groups.find? fun x => x.1 == e.toNat with
  | some (_, g) => if g.w0.getLsbD 63 then some g else none
  | none => none
def groupHash (g : Group) : W32 := g.w0.extractLsb' 0 32
/-- R180: a member's rank: its position in the list. -/
def rankIn (g : Group) (a : BitVec 10) : Option Nat := g.members.findIdx? fun x => x == a

/-! ## A collective's descriptor (R179) -/

def upColls (f : CollEng → CollEng) (s : State) : State := s.upDie fun d => { d with coll := f d.coll }
def setColl (i : Nat) (c : Coll) (s : State) : State := upColls (fun e => { e with colls := e.colls.set i c }) s

def dRoot (d : Rec) : Nat := (d.w0.extractLsb' 24 10).toNat
def dGroup (d : Rec) : BitVec 8 := d.w0.extractLsb' 16 8
def dType (d : Rec) : Nat := (d.w0.extractLsb' 12 4).toNat
def dRedop (d : Rec) : Nat := (d.w0.extractLsb' 8 4).toNat
def dOp (d : Rec) : Nat := (d.w0.extractLsb' 0 8).toNat
def dCount (d : Rec) : Nat := (d.w3.extractLsb' 0 40).toNat
def dSize (d : Rec) : Nat := if dType d = 1 then 2 else 4
/-- R180: the bytes of a member's source array and of its destination. -/
def dSrcLen (d : Rec) (n : Nat) : Nat := dCount d * dSize d * (if dOp d = 1 ∨ dOp d = 3 then n else 1)
def dDstLen (d : Rec) (n : Nat) : Nat := dCount d * dSize d * (if dOp d = 2 ∨ dOp d = 3 then n else 1)
/-- R180: a reserved value or field. -/
def dBad (d : Rec) (n : Nat) : Bool :=
  decide (2 < dType d) || decide (1 < dRedop d) || decide (4 < dOp d) || d.w0.extractLsb' 34 30 != 0
    || d.w3.extractLsb' 40 24 != 0 || d.w4 != 0 || d.w5 != 0 || d.w6 != 0 || d.w7.extractLsb' 8 55 != 0 || (dOp d == 4 && decide (n ≤ dRoot d))
/-- R180: what the members' descriptors must agree in. -/
def dKey (d : Rec) : Nat × Nat × Nat × Nat × Nat × Nat := (dOp d, dRedop d, dType d, (dGroup d).toNat, dCount d, dRoot d)

/-- An access of a post: the windows captured at issue. -/
def postIa (p : CollPost) (a b : W64) (need : Need) : Option (BitVec 56) :=
  if p.phys then (if canonical a && canonical b then some (a.setWidth 56) else none) else (windowCheck p.win a b need).map (·.1)
/-- The IAs of a span, or none for RANGE. -/
def postSpan (p : CollPost) (a : W64) (n : Nat) (need : Need) : Option (List Nat) :=
  if n = 0 then some []
  else (postIa p a (a + BitVec.ofNat 64 (n - 1)) need).map fun ia => (List.range n).map fun i => (ia.toNat + i) % 2 ^ 56
/-- R180: an address of every page a span can touch. -/
def pageProbes (ias : List Nat) : List (BitVec 56) :=
  ((ias.filter fun a => a % 2 ^ 16 == 0) ++ ias.take 1).map (BitVec.ofNat 56)

/-- R88: a release waits for the accesses before the post, and for the engines' writes. -/
def postOrdered (s : State) (p : CollPost) (on : Bool) : Bool :=
  !on || (!(s.core.accs.any fun g => decide (g.seq ≤ p.seq)) && !engWriting s)
/-- R88: the first read waits for the accesses before the post, with acquire for all, otherwise for acquires. -/
def postAcquired (s : State) (p : CollPost) : Bool :=
  postOrdered s p (p.ord.getLsbD 0) && !(s.core.accs.any fun g => decide (g.seq ≤ p.seq) && g.acq)

/-! ## Values (R180) -/

def collElem (d : Rec) (bs : List Byte) (i : Nat) : Nat := ofBytes ((bs.drop (i * dSize d)).take (dSize d))
/-- R180: one step of a reduction. -/
def redStep (d : Rec) (acc x : Nat) : Nat :=
  if dType d = 2 then
    (if dRedop d = 0 then (acc + x) % 2 ^ 32 else if sextInt acc 32 < sextInt x 32 then x else acc)
  else if dRedop d = 0 then (deliver fp32 .rne (addF .rne (decodeF fp32 acc) (decodeF fp32 x))).1
  else maxF fp32 acc x
/-- R180: the members' elements reduced in ascending rank; NaN results are canonical. -/
def reduce (d : Rec) (xs : List Nat) : Nat :=
  let ws := if dType d = 1 then xs.map (· * 2 ^ 16) else xs
  let acc := match ws with | [] => 0 | w :: rest => rest.foldl (redStep d) w
  if dType d = 1 then (convF fp32 bf16 .rne acc).1
  else if dType d = 0 && (decodeF fp32 acc).isNan then fp32.qnan else acc
/-- R180: the elements of member r's destination; src q is member q's source array. -/
def collResult (d : Rec) (n r : Nat) (src : Nat → List Byte) : List Nat :=
  let k := dCount d
  match dOp d with
  | 0 => (List.range k).map fun i => reduce d ((List.range n).map fun q => collElem d (src q) i)
  | 1 => (List.range k).map fun i => reduce d ((List.range n).map fun q => collElem d (src q) (r * k + i))
  | 2 => (List.range n).flatMap fun q => (List.range k).map fun i => collElem d (src q) i
  | 3 => (List.range n).flatMap fun q => (List.range k).map fun i => collElem d (src q) (r * k + i)
  | _ => (List.range k).map fun i => collElem d (src (dRoot d)) i

/-! ## Posting (R180, R181) -/

/-- The first post of a kind whose wait is met. -/
def postReady (s : State) (arm : Bool) : Option CollPost := s.core.posts.find? fun p => p.arm == arm && extMet s p.ext
def dropPost (p : CollPost) (s : State) : State := s.upCore fun c => { c with posts := c.posts.erase p }
/-- A post handed to the engine. -/
def newColl (p : CollPost) : Coll :=
  { entry := none, post := some p, desc := none, checked := false, probes := [], fail := none, peers := [], running := false, mine := none, moved := 0
    members := [], done := false, wrote := false, told := false, others := [] }
def addColl (c : Coll) (s : State) : State := upColls (fun e => { e with colls := e.colls ++ [c] }) s

/-- COLL_POST_FORWARD. -/
def evCollPostForward (s : State) : State :=
  match postReady s false with
  | some p => addColl (newColl p) (dropPost p s)
  | none => s

def flagIas (a : Arm) : List Nat := (List.range 8).map fun i => (a.flagIa.toNat + i) % 2 ^ 56
/-- R181: an armed flag is read: it fires, is bad, or stays. The line is one of the local slice's. -/
def readFlag (a : Arm) (s : State) : State :=
  let l := lineOf a.flagIa
  let drop := fun st => upColls (fun e => { e with arms := e.arms.erase a }) st
  if lineBad s l then addColl { newColl a.post with fail := some 1 } (useUnc 0 (flagIas a) (drop s))
  else if !lineReadable s l then s
  else if s.die.mem.readNum a.flagIa.toNat 8 ≠ 0 then
    (if postOrdered s a.post true then addColl (newColl a.post) (dropUnc 0 (drop s)) else s)
  else upColls (fun e => { e with arms := e.arms.map fun b => if b == a then { b with changed := false } else b }) s

/-- ARM_ENTRY. -/
def evArmEntry (s : State) : State :=
  match postReady s true with
  | none => s
  | some p =>
    if 64 ≤ s.die.coll.arms.length then s
    else match postIa p p.flag (p.flag + 7) .rd with
      | none => s
      | some ia =>
        let a : Arm := ⟨p, ia, true⟩
        readFlag a (upColls (fun e => { e with arms := e.arms ++ [a] }) (dropPost p s))
/-- FLAG_REREAD. Reads: n (place in the arm table). -/
def evFlagReread (s : State) : State :=
  match s.die.coll.arms[s.arg.n]? with
  | some a => if a.changed then readFlag a s else s
  | none => s

/-! ## Starting (R180) -/

/-- R180: the checks of this member's own post after its descriptor has been read: its STATUS, or what it waits for. -/
def collProbe (s : State) (c : Coll) (ia : BitVec 56) : Option ProbeReply :=
  if isLocal s ia then some (homeReply s ia)
  else if !configured s (iaAgent ia) then some .unmapped
  else match c.probes.find? fun p => p.1 == ia with
    | some (_, r) => r
    | none => none
inductive CollCheck where
  | good
  | fail (k : BitVec 8)
  | wait (ias : List (BitVec 56))
def collCheck (s : State) (c : Coll) (p : CollPost) (d : Rec) : CollCheck :=
  match groupOf s (dGroup d) with
  | none => .fail 5
  | some g =>
    let n := g.members.length
    if (rankIn g s.core.agent).isNone then .fail 5
    else if dBad d n then .fail 7
    else
      match postSpan p d.w1 (dSrcLen d n) .rd, postSpan p d.w2 (dDstLen d n) .w with
      | some a, some b =>
        let asks := (pageProbes a).map (fun x => (x, Need.rd)) ++ (pageProbes b).map fun x => (x, Need.w)
        let unknown := (asks.filter fun x => (collProbe s c x.1).isNone).map (·.1)
        if !unknown.isEmpty then .wait unknown.eraseDups
        else
          let looks := asks.map fun x => replyLook x.2 ((collProbe s c x.1).getD .unmapped)
          if looks.contains .page then .fail 2 else if looks.contains .protect then .fail 3 else .good
      | _, _ => .fail 4

/-- R180: a descriptor has been read: its post meets the posts of others on its entry (R369). -/
def meetPosts (i : Nat) (c : Coll) (d : Rec) (s : State) : State :=
  let mine := { c with desc := some d, entry := some (dGroup d) }
  match s.die.coll.colls.find? fun x => x.post.isNone && !x.done && x.entry == some (dGroup d) with
  | none => setColl i mine s
  | some x => upColls (fun e => { e with
      colls := (e.colls.set i { mine with fail := c.fail <|> x.fail, peers := x.peers, others := x.others }).erase x }) s
/-- R369: the members of a collective: those it has begun with, else those its entry names. -/
def membersOf (s : State) (c : Coll) : List (BitVec 10) :=
  if c.members.isEmpty then (match c.entry.bind (groupOf s) with | some g => g.members | none => []) else c.members
/-- A message to every other member of a collective. -/
def sendOthers (c : Coll) (m : BitVec 10 → OutMsg) (s : State) : State :=
  (without s.core.agent (membersOf s c)).foldl (fun st a => st.send (m a)) s

/-- R369: the k-th post meets the k-th, so descriptors are read in the order of the posts. -/
def postsBefore (s : State) (i : Nat) : Bool :=
  (s.die.coll.colls.take i).any fun c => c.post.isSome && c.desc.isNone && !c.checked
/-- R180 step 1 of the collective at a place: its descriptor, which one whose flag was uncorrectable reads too, to know whom to tell
(R181). The other members of one whose descriptor is uncorrectable end with PEER: its entry is the one that the line last held
(DEDUCED, log entry 95). -/
def readDesc (i : Nat) (c : Coll) (p : CollPost) (s : State) : State :=
  if !postAcquired s p || postsBefore s i then s
  else match postSpan p p.desc 64 .rd with
    | none => setColl i { c with checked := true, fail := some (c.fail.getD 4) } s
    | some ias =>
      let a := ias.headD 0
      let d := recOfWords fun k => BitVec.ofNat 64 (s.die.mem.readNum (a + 8 * k) 8)
      if engBad s ias then
        let c' := { c with checked := true, fail := some 1, entry := some (dGroup d) }
        sendOthers c' (.collDone · 8) (setColl i c' (useUnc 0 ias s))
      else if !(engMissing s 0 p.seq ias).isEmpty then s
      else meetPosts i c d (dropUnc 0 (useUnc 0 ias s))

/-- R180 steps 1 to 3 of the collective at a place. -/
def ownChecks (i : Nat) (c : Coll) (p : CollPost) (s : State) : State :=
  match c.desc with
  | none => readDesc i c p s
  | some d =>
    if c.checked then s
    else if c.fail == some 1 then sendOthers c (.collDone · 8) (setColl i { c with checked := true } s)
    else match collCheck s c p d with
      | .good => sendOthers c (fun m => .collPost m d (match groupOf s (dGroup d) with | some g => groupHash g | none => 0))
          (setColl i { c with checked := true } s)
      | .fail k => sendOthers c (.collDone · 8) (setColl i { c with checked := true, fail := some k } s)
      | .wait ias =>
        let fresh := ias.filter fun x => !c.probes.any fun q => q.1 == x
        fresh.foldl (fun st x => st.send (.probe (iaAgent x) x)) (setColl i { c with probes := c.probes ++ fresh.map fun x => (x, none) } s)

/-- R180 step 4: every other member has posted. -/
def allPosted (g : Group) (me : BitVec 10) (c : Coll) : Bool :=
  (without me g.members).all fun m => c.peers.any fun p => p.agent == m
/-- R180 step 5, R369: the posts agree. -/
def postsAgree (g : Group) (d : Rec) (c : Coll) : Bool :=
  c.peers.all fun p => dKey p.desc == dKey d && p.hash == groupHash g

/-- R180 steps 4 and 5 of the collective at a place; at most eight run at once (R370). -/
def collBegin (i : Nat) (c : Coll) (s : State) : State :=
  match c.desc, c.entry.bind (groupOf s) with
  | some d, some g =>
    if !c.checked || c.fail.isSome || c.running || !allPosted g s.core.agent c then s
    else if !postsAgree g d c then setColl i { c with fail := some 6 } s
    else if 8 ≤ (s.die.coll.colls.filter (·.running)).length then s
    else setColl i { c with running := true, members := g.members } s
  | _, _ => s

/-- R369: the collective of an entry that another member's next post belongs to. -/
def peerColl (s : State) (e : BitVec 8) (who : BitVec 10) : Option Nat :=
  s.die.coll.colls.findIdx? fun c => c.entry == some e && !c.peers.any fun p => p.agent == who
/-- A collective that has ended here is forgotten once every other member's post has come, and, of a successful one, once all know of each
other that their writes are performed. -/
def sweepColls (s : State) : State :=
  upColls (fun k => { k with colls := k.colls.filter fun c => !c.done || (c.wrote && !c.told)
    || (without s.core.agent (membersOf s c)).any fun m => !(c.peers.any fun p => p.agent == m) || (c.wrote && !c.others.contains m) }) s
def peerPosts (e : BitVec 8) (p : PeerPost) (bad : Bool) (s : State) : State :=
  let put := fun (c : Coll) =>
    { c with peers := c.peers ++ [p], fail := c.fail <|> (if bad then some 8 else none) }
  match peerColl s e p.agent with
  | some i => match s.die.coll.colls[i]? with | some c => sweepColls (setColl i (put c) s) | none => s
  | none =>
    let c : Coll :=
      { entry := some e, post := none, desc := none, checked := false, probes := [], fail := none, peers := [], running := false
        mine := none, moved := 0, members := [], done := false, wrote := false, told := false, others := [] }
    addColl (put c) s

/-- COLLECTIVE_START: the next step of the collective at place n; or with b the post of another member (agent): n (entry),
record (its descriptor), bytes (its source array), x (its HASH), k (its STATUS, where it failed). -/
def evCollectiveStart (s : State) : State :=
  if s.arg.b then
    peerPosts (BitVec.ofNat 8 s.arg.n) ⟨s.arg.agent, s.arg.record, s.arg.bytes, s.arg.x.setWidth 32⟩ (s.arg.k != 0) s
  else
    match s.die.coll.colls[s.arg.n]? with
    | none => s
    | some c => match c.post with
      | none => s
      | some p => if c.checked then collBegin s.arg.n c s else ownChecks s.arg.n c p s

/-! ## Completing (R180, R354, R369) -/

/-- R180, R354: a post's signal: to the running task, to its image, or nowhere. -/
def postSignal (p : CollPost) (s : State) : State :=
  if !p.live || extInc p.ext = 0 then s
  else if p.slotVa = 0 then semRaise (extSig p.ext) (extInc p.ext) s
  else upImage p.slotVa (fun c => { c with
    sem := c.sem.set (extSig p.ext).toFin (BitVec.ofNat 16 (min 0xFFFF ((c.sem.get (extSig p.ext).toFin).toNat + extInc p.ext))) }) s

/-- R369: the IAs of the member list of an entry. -/
def listIas (w0 w1 : W64) : List Nat := (List.range (2 * (w0.extractLsb' 32 11).toNat)).map fun i => (w1.toNat + i) % 2 ^ 56
/-- R369: an entry with its member list read and its HASH computed. A list that is uncorrectable leaves it invalid (DESIGN CHOICE, log
entry 98). -/
def groupWith (s : State) (w0 w1 : W64) : Group :=
  let ids := (listIas w0 w1).map fun a => s.die.mem.read a
  let keep := if engBad s (listIas w0 w1) then 0x000007FF00000000 else 0x800007FF00000000
  { w0 := (w0 &&& keep) ||| (crc32c ids).setWidth 64, w1 := w1
    members := (List.range (ids.length / 2)).map fun i => BitVec.ofNat 10 (ofBytes ((ids.drop (2 * i)).take 2)) }
/-- R369: an entry that a running collective uses. -/
def entryUsed (s : State) (e : Nat) : Bool :=
  s.die.coll.colls.any fun c => c.running && match c.entry with | some x => x.toNat == e | none => false
/-- R369: a write of an entry takes effect when no collective uses the entry and its list can be read. -/
def applyGroups (s : State) : State :=
  (s.die.coll.deferred.filter fun d => !entryUsed s d.1 && (engMissing s 0 0 (listIas d.2.1 d.2.2)).isEmpty).foldl (fun st d =>
    let g := groupWith s d.2.1 d.2.2
    useUnc 0 (listIas d.2.1 d.2.2) (upColls (fun k => { k with
      groups := (d.1, g) :: k.groups.filter fun x => x.1 != d.1, deferred := k.deferred.erase d }) st)) s

def w7Ias (p : CollPost) : List Nat :=
  match postIa p p.desc (p.desc + 63) .w with
  | some ia => (List.range 8).map fun i => (ia.toNat + 56 + i) % 2 ^ 56
  | none => []
def engAllWritable (s : State) (ias : List Nat) : Bool := (linesOf ias).all (engWritable s)

/-- R180: the end of the collective at a place for this member: w7, the signal. -/
def collEnd (i : Nat) (c : Coll) (p : CollPost) (k : BitVec 8) (s : State) : State :=
  let bytes := toBytes 8 (2 ^ 63 + k.toNat)
  let s1 := engWrite 0 ((w7Ias p).zipIdx.map fun x => (x.1, bytes.getD x.2 0)) s
  applyGroups (sweepColls (postSignal p (setColl i { c with post := none, done := true, running := false } s1)))

/-- R362: collective data in pieces of 240 bytes. -/
def dataPieces : Nat → List Byte → List (List Byte)
  | 0, _ => []
  | n + 1, bs => if bs.isEmpty then [] else bs.take 240 :: dataPieces n (bs.drop 240)
/-- R180: the source array of a running collective is read, and goes to the other members. -/
def collRead (i : Nat) (c : Coll) (p : CollPost) (d : Rec) (g : Group) (s : State) : State :=
  match postSpan p d.w1 (dSrcLen d g.members.length) .rd with
  | none => s
  | some src =>
    if engBad s src then sendOthers c (.collDone · 1) (setColl i { c with fail := some 1 } (useUnc 0 src s))
    else if !(engMissing s 0 p.seq src).isEmpty then s
    else
      let mine := src.map fun a => s.die.mem.read a
      (dataPieces mine.length mine).foldl (fun st bs => sendOthers c (.collData · (c.entry.getD 0) bs) st)
        (setColl i { c with mine := some mine } (useUnc 0 src s))

/-- R370: the chunk of DST that is written next, of 64 KiB. -/
def nextChunk {α : Type} (c : Coll) (l : List α) : List α := (l.drop (65536 * c.moved)).take 65536
/-- R180, R370: with every member's source array here, DST is written, a chunk at a time. -/
def collMove (i : Nat) (c : Coll) (p : CollPost) (d : Rec) (g : Group) (mine : List Byte) (s : State) : State :=
  let n := g.members.length
  match rankIn g s.core.agent, postSpan p d.w2 (dDstLen d n) .w with
  | some r, some dst =>
    if (c.peers.any fun x => x.bytes.length != dSrcLen d n) || !engAllWritable s (nextChunk c dst) then s
    else
      let bytesOf := fun (q : Nat) =>
        if q = r then mine
        else ((c.peers.find? fun x => some x.agent == g.members[q]?).map (·.bytes)).getD []
      let out := (collResult d n r bytesOf).flatMap fun x => toBytes (dSize d) x
      setColl i { c with moved := c.moved + 1, wrote := decide (dst.length ≤ 65536 * (c.moved + 1)) }
        (engWrite 0 (nextChunk c (dst.zip out)) s)
  | _, _ => s

/-- R282: the writes of DST made here are performed: the other members are told. -/
def tellWrote (i : Nat) (c : Coll) (s : State) : State :=
  if c.wrote && !c.told && !engWriting s then
    applyGroups (sweepColls (sendOthers c (.collWrote · (c.entry.getD 0)) (setColl i { c with told := true } s)))
  else s
/-- R282: every member's writes are performed. -/
def allWrote (s : State) (c : Coll) : Bool := c.told && (without s.core.agent (membersOf s c)).all c.others.contains

/-- R180, R282, R370: the next step of a running collective. A release ends it only after every member's writes. -/
def collGo (i : Nat) (c : Coll) (p : CollPost) (d : Rec) (g : Group) (s : State) : State :=
  if !c.wrote then (match c.mine with
    | none => collRead i c p d g s
    | some mine => collMove i c p d g mine s)
  else if p.ord.getLsbD 1 && !c.told then tellWrote i c s
  else if (!p.ord.getLsbD 1 || (allWrote s c && postOrdered s p true)) && engAllWritable s (w7Ias p) then
    collEnd i c p 0 s
  else s

/-- What another member of an entry says of the collective in progress there: an uncorrectable source (k = 0), its DST writes performed
(k = 1), or the next bytes of its source array (k = 2). -/
def peerSays (e : BitVec 8) (who : BitVec 10) (k : Nat) (bytes : List Byte) (s : State) : State :=
  let put := fun (i : Nat) (f : Coll → Coll) => match s.die.coll.colls[i]? with | some c => setColl i (f c) s | none => s
  let find := fun (ok : Coll → Bool) => s.die.coll.colls.findIdx? fun c => c.entry == some e && ok c
  match k with
  | 0 => match find fun c => !c.done && c.fail.isNone && !c.wrote with
    | some i => put i fun c => { c with fail := some 1 }
    | none => s
  | 1 => match find fun c => c.fail.isNone && !c.others.contains who with
    | some i => sweepColls (put i fun c => { c with others := who :: c.others })
    | none => s
  | _ =>
    let wants := fun (c : Coll) (p : PeerPost) => p.agent == who && decide (p.bytes.length < dSrcLen p.desc (membersOf s c).length)
    match find fun c => c.peers.any (wants c) with
    | some i => put i fun c => { c with peers := c.peers.map fun p => if wants c p then { p with bytes := p.bytes ++ bytes } else p }
    | none => s

/-- COLLECTIVE_COMPLETE of the collective at place n; or with b what another member (agent) of entry n says: k, bytes. -/
def evCollectiveComplete (s : State) : State :=
  if s.arg.b then peerSays (BitVec.ofNat 8 s.arg.n) s.arg.agent s.arg.k s.arg.bytes s
  else
    match s.die.coll.colls[s.arg.n]? with
    | none => s
    | some c => match c.post with
      | none => tellWrote s.arg.n c s
      | some p =>
        match c.fail with
        | some k =>
          if c.checked && postOrdered s p (p.ord.getLsbD 1) && engAllWritable s (w7Ias p) then collEnd s.arg.n c p k s
          else s
        | none => match c.desc, c.entry.bind (groupOf s) with
          | some d, some g => if c.running then collGo s.arg.n c p d { g with members := membersOf s c } s else s
          | _, _ => s

/-! ## Execution -/

/-- REGION_RELEASE (R72): the step of this name, on what is in s.arg. -/
def execRegionRelease (s : State) : Host.Outcome State Fault Refusal := .next (evRegionRelease s)
/-- GRANULE_CLEAR_DONE (R72): the step of this name, on what is in s.arg. -/
def execGranuleClearDone (s : State) : Host.Outcome State Fault Refusal := .next (evGranuleClearDone s)
/-- MAILBOX_DELIVERY (R75): the step of this name, on what is in s.arg. -/
def execMailboxDelivery (s : State) : Host.Outcome State Fault Refusal := .next (evMailboxDelivery s)
/-- MESSAGE_ACCEPT (R75): the step of this name, on what is in s.arg. -/
def execMessageAccept (s : State) : Host.Outcome State Fault Refusal := .next (evMessageAccept s)
/-- POSTED_BUFFER_FILL (R76): the step of this name, on what is in s.arg. -/
def execPostedBufferFill (s : State) : Host.Outcome State Fault Refusal := .next (evPostedBufferFill s)
/-- COPY_COMMAND_START (R78): the step of this name, on what is in s.arg. -/
def execCopyCommandStart (s : State) : Host.Outcome State Fault Refusal := .next (evCopyCommandStart s)
/-- COPY_CHUNK_LANDED (R86): the step of this name, on what is in s.arg. -/
def execCopyChunkLanded (s : State) : Host.Outcome State Fault Refusal := .next (evCopyChunkLanded s)
/-- COPY_COMMAND_COMPLETE (R87): the step of this name, on what is in s.arg. -/
def execCopyCommandComplete (s : State) : Host.Outcome State Fault Refusal := .next (evCopyCommandComplete s)
/-- CHAIN_RECORD_READ (R92): the step of this name, on what is in s.arg. -/
def execChainRecordRead (s : State) : Host.Outcome State Fault Refusal := .next (evChainRecordRead s)
/-- STATE_CHUNK_WRITE (R100): the step of this name, on what is in s.arg. -/
def execStateChunkWrite (s : State) : Host.Outcome State Fault Refusal := .next (evStateChunkWrite s)
/-- COLL_POST_FORWARD (R180): the step of this name, on what is in s.arg. -/
def execCollPostForward (s : State) : Host.Outcome State Fault Refusal := .next (evCollPostForward s)
/-- COLLECTIVE_START (R180): the step of this name, on what is in s.arg. -/
def execCollectiveStart (s : State) : Host.Outcome State Fault Refusal := .next (evCollectiveStart s)
/-- COLLECTIVE_COMPLETE (R180): the step of this name, on what is in s.arg. -/
def execCollectiveComplete (s : State) : Host.Outcome State Fault Refusal := .next (evCollectiveComplete s)
/-- ARM_ENTRY (R181): the step of this name, on what is in s.arg. -/
def execArmEntry (s : State) : Host.Outcome State Fault Refusal := .next (evArmEntry s)
/-- FLAG_REREAD (R181): the step of this name, on what is in s.arg. -/
def execFlagReread (s : State) : Host.Outcome State Fault Refusal := .next (evFlagReread s)
/-- SPAWN_RELEASE (R184): the step of this name, on what is in s.arg. -/
def execSpawnRelease (s : State) : Host.Outcome State Fault Refusal := .next (evSpawnRelease s)
/-- MATRIX_START (R245): the step of this name, on what is in s.arg. -/
def execMatrixStart (s : State) : Host.Outcome State Fault Refusal := .next (evMatrixStart s)
/-- MATRIX_COMPLETE (R245): the step of this name, on what is in s.arg. -/
def execMatrixComplete (s : State) : Host.Outcome State Fault Refusal := .next (evMatrixComplete s)

end Sys2Proof.Machine
end

