-- ==== Sys2Proof/Machine/Links.lean ====
section
/-! DEFINITION. The Toesque links, the group table and the host's window (R361 to R369, R372). -/
namespace Sys2Proof.Machine

def upLinks (f : Links → Links) (s : State) : State := s.upDie fun d => { d with links := f d.links }
def portAt (s : State) (p : Nat) : Option Port := s.die.links.ports[p]?
def setPort (p : Nat) (x : Port) (s : State) : State := upLinks (fun l => { l with ports := l.ports.setIfInBounds p x }) s
/-- R363: a link integrity event of a port. -/
def countLink (p : Nat) (s : State) : State :=
  upLinks (fun l => { l with tqint := l.tqint.setIfInBounds p (satInc (l.tqint.getD p 0)) }) s

/-- R363: the counter at an offset of the Toesque register block, as the control cores read it. -/
def readTqint (s : State) (off : Nat) : Option W64 :=
  if off < 0x400 ∨ off % 8 ≠ 0 then none else s.die.links.tqint[(off - 0x400) / 8]?

/-! ## Flits (R362) -/

/-- Header bits [127:32], and the whole payload, as the CRC takes them: lowest byte first (log entry 31). -/
def flitHead (f : Flit) : Nat :=
  (((((((f.vc.toNat * 2 ^ 2 + f.kind.toNat) * 2 ^ 12 + f.seq.toNat) * 2 ^ 12 + f.ack.toNat) * 2 ^ 10 + f.dst.toNat) * 2 ^ 10 + f.src.toNat)
    * 2 ^ 4 + f.ttl.toNat) * 2 ^ 4 + f.units.toNat) * 2 ^ 39
/-- R361, R362: 240 bytes of payload, filled up with zeros. -/
def fullPayload (bs : List Byte) : List Byte := (bs ++ List.replicate 240 0).take 240
def flitCrc (f : Flit) : W32 := crc32c (toBytes 12 (flitHead f) ++ fullPayload f.payload)
/-- R361, R362: 256 bytes with the CRC they name. -/
def flitWhole (f : Flit) : Bool := f.payload.length == 240 && f.crc == flitCrc f
/-- The payload that UNITS counts. -/
def flitData (f : Flit) : List Byte := f.payload.take (16 * f.units.toNat)
/-- R366: the chip an agent belongs to. -/
def chipOf (a : BitVec 10) : Nat := (a.extractLsb' 1 9).toNat

/-- R366: the port that TQROUTE names for a chip and a virtual channel; none for a chip that is not configured. -/
def routePort (s : State) (chip : Nat) (vc : BitVec 3) : Option Nat :=
  match s.die.links.routes.find? fun r => r.1 == chip with
  | none => none
  | some (_, e) =>
    let bulk := (e.extractLsb' 8 6).toNat
    let coh := (e.extractLsb' 0 6).toNat
    if !e.getLsbD 63 || decide (36 ≤ bulk) || decide (36 ≤ coh) then none
    else if vc = 3 ∨ vc = 4 then some bulk else some coh
/-- The port towards an agent: the die-to-die link, number 36, within the package (R361). -/
def portTo (s : State) (dst : BitVec 10) (vc : BitVec 3) : Option Nat :=
  if chipOf dst = chipOf s.core.agent then some 36 else routePort s (chipOf dst) vc

/-- R365: the flits of a virtual channel that a port may still send in this interval of 1,024 cycles. -/
def paced (p : Port) (vc : BitVec 3) (now : Nat) : Bool :=
  match p.rates.get vc.toFin with
  | none => true
  | some r => decide ((if now < p.since + 1024 then p.sent.get vc.toFin else 0) < r.toNat)
def countSent (p : Port) (vc : BitVec 3) (now : Nat) : Port :=
  let p1 := if now < p.since + 1024 then p else { p with sent := Vector.replicate 8 0, since := now }
  { p1 with sent := p1.sent.set vc.toFin (p1.sent.get vc.toFin + 1) }

/-- R364, R365: a port has room for another unacknowledged flit, and its rate lets one of the virtual channel go. -/
def portOpen (p : Port) (vc : BitVec 3) (now : Nat) : Bool :=
  p.up && !p.training && p.resend == 0 && decide (p.replay.length < 2048) && paced p vc now
/-- R364: a data flit goes out on a port, numbered, and is kept for replay. -/
def putOut (n : Nat) (f : Flit) (p : Port) (s : State) : State :=
  let g0 := { f with seq := p.nextSeq, ack := p.expSeq - 1, payload := fullPayload f.payload }
  let g := { g0 with crc := flitCrc g0 }
  (setPort n { countSent p f.vc s.cycle with nextSeq := p.nextSeq + 1, replay := p.replay ++ [g] } s).send
    (.flit (BitVec.ofNat 6 n) g)
/-- R364, R365: a data flit goes out on a port, behind those of its virtual channel that the port holds. none: it has to wait. -/
def sendOn (n : Nat) (f : Flit) (s : State) : Option State :=
  match portAt s n with
  | none => none
  | some p => if !portOpen p f.vc s.cycle || p.held.any fun h => h.vc == f.vc then none else some (putOut n f p s)
/-- R364: a new flit that cannot go out yet is held. -/
def holdFlit (n : Nat) (f : Flit) (s : State) : State :=
  match portAt s n with
  | none => s
  | some p => if p.up then setPort n { p with held := p.held ++ [f] } s else s
/-- The oldest held flit of a virtual channel goes out. -/
def sendHeld (n : Nat) (vc : BitVec 3) (s : State) : State :=
  match portAt s n with
  | none => s
  | some p => match p.held.find? fun f => f.vc == vc with
    | some f => if portOpen p vc s.cycle then putOut n f { p with held := p.held.erase f } s else s
    | none => s
/-- R364, R365: the kept flits that are to go out again do, in order, as far as their rates let them, with the ACK of now. -/
def replayOn (n : Nat) : Nat → State → State
  | 0, s => s
  | k + 1, s => match portAt s n with
    | none => s
    | some p => match (p.replay.drop (p.replay.length - p.resend)).head? with
      | none => s
      | some f =>
        if !p.up || p.training || !paced p f.vc s.cycle then s
        else
          let g0 := { f with ack := p.expSeq - 1 }
          replayOn n k ((setPort n { countSent p f.vc s.cycle with resend := p.resend - 1 } s).send
            (.flit (BitVec.ofNat 6 n) { g0 with crc := flitCrc g0 }))
/-- The whole replay buffer is to go out again. -/
def replayAll (n : Nat) (p : Port) (s : State) : State :=
  replayOn n p.replay.length (setPort n { p with resend := p.replay.length } s)

/-! ### Flits that a port holds (R365) -/

/-- The flits of a virtual channel that a port holds, of at most 512; and which of the two marks, 25 % and 75 %, they reach. -/
def occupancy (p : Port) (vc : BitVec 3) : Nat := (p.queue.filter fun f => f.vc == vc).length
def marksOf (n : Nat) : Nat := (if 128 ≤ n then 1 else 0) + (if 384 ≤ n then 1 else 0)
/-- A link control flit of a port: unnumbered, with its ACK (log entry 31). -/
def ctlFlit (s : State) (p : Port) (payload : List Byte) : Flit :=
  let g : Flit := { vc := 0, kind := 1, seq := 0, ack := p.expSeq - 1, dst := 0, src := s.core.agent, ttl := 0
                    units := BitVec.ofNat 4 ((payload.length + 15) / 16), crc := 0, payload := fullPayload payload }
  { g with crc := flitCrc g }
/-- R365: the drain rates that a port asks for, VC 0 first; VC 1 and VC 2 are never paused (log entry 97). -/
def drainRate (tick k : Nat) : BitVec 16 :=
  let r := Config.drainRate tick k
  if (k == 1 || k == 2) && r == 0 then 1 else r
/-- A rate flit goes out where the occupancy of a virtual channel has crossed a mark. -/
def rateOut (n : Nat) (vc : BitVec 3) (before after : Port) (s : State) : State :=
  if marksOf (occupancy before vc) = marksOf (occupancy after vc) then s
  else s.send (.flit (BitVec.ofNat 6 n) (ctlFlit s after ((List.range 5).flatMap fun k => toBytes 2 (drainRate s.tick k).toNat)))

/-- R366, R367: a flit that a port holds: taken here, or forwarded with one hop less; one for a chip that TQROUTE does not configure is
dropped (DESIGN CHOICE, log entry 97). none: its next port cannot take it yet. -/
def passOn (n : Nat) (f : Flit) (s : State) : Option State :=
  if chipOf f.dst = chipOf s.core.agent then
    (if f.dst = s.core.agent ∨ n = 36 then some (s.send (.deliver f)) else sendOn 36 f s)
  else match routePort s (chipOf f.dst) f.vc with
    | some k => sendOn k { f with ttl := f.ttl - 1 } s
    | none => some s
/-- The oldest flit of a virtual channel leaves the port that holds it. -/
def drainPort (n : Nat) (vc : BitVec 3) (s : State) : State :=
  match portAt s n with
  | none => s
  | some p => match p.queue.find? fun f => f.vc == vc with
    | none => s
    | some f => match passOn n f s with
      | none => s
      | some t =>
        let q := (portAt t n).getD p
        let q' := { q with queue := q.queue.erase f }
        rateOut n vc q q' (setPort n q' t)

/-- FLIT_SEND: a data flit of this package for another agent leaves on the port its route names, or is held there. Reads: flit. With b, of a
port n: the oldest flit of virtual channel k that it has received goes on (m = 0), the oldest new one that it holds goes out (m = 1), or its
replay goes on (m = 2). -/
def evFlitSend (s : State) : State :=
  let f := s.arg.flit
  if s.arg.b then
    match s.arg.m with
    | 0 => drainPort s.arg.n (BitVec.ofNat 3 s.arg.k) s
    | 1 => sendHeld s.arg.n (BitVec.ofNat 3 s.arg.k) s
    | _ => replayOn s.arg.n 2048 s
  else if f.kind ≠ 0 ∨ 5 ≤ f.vc.toNat ∨ f.dst = s.core.agent ∨ f.ttl = 0 then s
  else match portTo s f.dst f.vc with
    | some n => (sendOn n f s).getD (holdFlit n f s)
    | none => s

/-- R364: the cumulative ACK of a flit that has come: the kept flits up to the one it names leave the replay buffer; one that names none of
them is old. -/
def takeAck (ack : BitVec 12) (p : Port) : Port :=
  match p.replay.findIdx? fun f => f.seq == ack with
  | some i => { p with replay := p.replay.drop (i + 1), resend := min p.resend (p.replay.length - (i + 1)), naks := 0 }
  | none => p

/-- R364: the receiver names the sequence number it expects. -/
def nakOut (n : Nat) (p : Port) (s : State) : State := s.send (.nak (BitVec.ofNat 6 n) p.expSeq)

/-- R364, R365, R367: the flit that is expected: one out of hops that is not for this package is dropped and counted; one that finds its
virtual channel full is dropped without a nak; any other is held and acknowledged. -/
def acceptFlit (n : Nat) (f : Flit) (p : Port) (s : State) : State :=
  let p1 := { p with expSeq := p.expSeq + 1 }
  if chipOf f.dst ≠ chipOf s.core.agent ∧ f.ttl ≤ 1 then countLink n (setPort n p1 s)
  else if 512 ≤ occupancy p f.vc then setPort n p s
  else
    let p2 := { p1 with queue := p.queue ++ [f] }
    rateOut n f.vc p1 p2 ((setPort n p2 s).send (.flit (BitVec.ofNat 6 n) (ctlFlit s p2 [])))

/-- FLIT_RECEIVE: a flit as a port has received it. Reads: n (port, 36 for the die-to-die link), flit. -/
def evFlitReceive (s : State) : State :=
  let n := s.arg.n
  let f := s.arg.flit
  match portAt s n with
  | none => s
  | some p =>
    if !p.up then s
    else if !flitWhole f then nakOut n p s
    else if 5 ≤ f.vc.toNat ∨ f.kind = 3 then countLink n s
    else
      let p1 := takeAck f.ack p
      let s1 := setPort n p1 s
      if f.kind ≠ 0 then s1
      else if f.seq = p.expSeq then acceptFlit n f p1 s
      else if (p.expSeq - 1 - f.seq).toNat < 2048 then s1
      else nakOut n p1 s1

/-- NAK: the peer names the sequence number it expects; after 16 without progress the port retrains (R364). Reads: n (port), m. -/
def evNak (s : State) : State :=
  match portAt s s.arg.n with
  | none => s
  | some p =>
    if !p.up || p.training then s
    else
      let p1 := takeAck (BitVec.ofNat 12 s.arg.m - 1) p
      let p2 := { p1 with naks := p1.naks + 1 }
      if 16 ≤ p2.naks then setPort s.arg.n { p2 with training := true } s
      else replayAll s.arg.n p2 s

/-- R368: a port goes down. -/
def portDown (n : Nat) (s : State) : State :=
  match portAt s n with
  | none => s
  | some p => if !p.up then s
    else logError .portDown n 0 s.core.agent .none (setPort n { p with up := false, training := false, replay := [], naks := 0, held := [], resend := 0 } s)
/-- PORT_DOWN. Reads: n (port). -/
def evPortDown (s : State) : State := portDown s.arg.n s

/-- RETRAIN_COMPLETE: the lanes are trained, and the port replays from the expected number; or with b they are not (R364, R368).
Reads: n (port), m (expected SEQ), b. -/
def evRetrainComplete (s : State) : State :=
  match portAt s s.arg.n with
  | none => s
  | some p =>
    if !p.training then s
    else if s.arg.b then portDown s.arg.n s
    else
      let p1 := { takeAck (BitVec.ofNat 12 s.arg.m - 1) p with training := false, naks := 0 }
      replayAll s.arg.n p1 s

/-- RATE_FLIT: five drain rates, VC 0 first, lowest byte first (R365, log entry 31); a damaged flit is answered with a nak, and one with a
reserved VC or KIND is counted, as any other (R362). Reads: n (port), flit. -/
def evRateFlit (s : State) : State :=
  let f := s.arg.flit
  match portAt s s.arg.n with
  | none => s
  | some p =>
    if !p.up then s
    else if !flitWhole f then nakOut s.arg.n p s
    else if 5 ≤ f.vc.toNat ∨ f.kind = 3 then countLink s.arg.n s
    else if f.kind ≠ 1 ∨ f.units = 0 then s
    else
      let rate := fun (k : Nat) => BitVec.ofNat 16 (ofBytes (((flitData f).drop (2 * k)).take 2))
      setPort s.arg.n { takeAck f.ack p with
        rates := Vector.ofFn fun i => if i.val < 5 then some (rate i.val) else p.rates.getD i.val none } s

/-! ## TQROUTE and the group table (R366, R369) -/

/-- R366: an entry written; the agents of the chips it leaves configured. -/
def writeRoute (chip : BitVec 9) (x : W64) (s : State) : State :=
  let e := x &&& 0x8000000000003F3F
  let routes := (chip.toNat, e) :: s.die.links.routes.filter fun r => r.1 != chip.toNat
  let s1 := upLinks (fun l => { l with routes := routes }) s
  let own := chipOf s.core.agent
  let chips := (routes.filter fun r => r.1 != own && (routePort s1 r.1 0).isSome).map (·.1)
  upLinks (fun l => { l with configured := (own :: chips).flatMap fun c => [BitVec.ofNat 10 (2 * c), BitVec.ofNat 10 (2 * c + 1)] }) s1

/-- GROUP_TABLE_WRITE: the member list is read and its HASH computed; a write to an entry in use waits, as one does whose list has not
come (R369). Reads: n (entry), x, y (w0, w1). With b the writes that wait are looked at again. -/
def evGroupTableWrite (s : State) : State :=
  if s.arg.b then applyGroups s
  else
    let n := s.arg.n % 256
    applyGroups (upColls (fun k => { k with deferred := (n, s.arg.x, s.arg.y) :: k.deferred.filter fun d => d.1 != n }) s)

/-! ## The host (R372, R375) -/

/-- R375: BRSTAT. -/
def brstat (b : Boot) : W64 :=
  let f := fun (x : Bool) (k : Nat) => if x then 2 ^ k else 0
  BitVec.ofNat 64 (f b.ready 63 + f b.safe 62 + f b.degr 61 + b.step.toNat % 32 * 2 ^ 56 + b.code.toNat * 2 ^ 48 + b.unit.toNat * 2 ^ 32)

/-- R372: a byte of BAR0: STEPID, BRSTAT, or what the spec gives no content for (log entry 32). -/
def barByte (s : State) (n : Nat) : Byte :=
  if n < 8 then BitVec.ofNat 8 (stepId.toNat >>> (8 * n))
  else if 0x1000 ≤ n ∧ n < 0x1008 then BitVec.ofNat 8 ((brstat s.die.boot).toNat >>> (8 * (n - 0x1000)))
  else BitVec.ofNat 8 ((Config.freeWord s.tick).toNat >>> (8 * (n % 8)))
/-- HOST_BAR_ACCESS: eight bytes at an offset of BAR0: STEPID and BRSTAT read; the doorbell takes writes. Reads: n (offset), write (the
value of a write). -/
def evHostBarAccess (s : State) : State :=
  let n := s.arg.n
  if 2 ^ 20 < n + 8 then s.send .unsupported
  else match s.arg.write with
    | some v => if 0x8000 ≤ n ∧ n < 0x9000 then s.send (.doorbell (n - 0x8000) v) else s
    | none =>
      s.send (.readData (BitVec.ofNat 64 (ofBytes ((List.range 8).map fun i => barByte s (n + i)))))

/-! ## Execution -/

/-- GROUP_TABLE_WRITE (R369): the step of this name, on what is in s.arg. -/
def execGroupTableWrite (s : State) : Host.Outcome State Fault Refusal := .next (evGroupTableWrite s)
/-- FLIT_SEND (R365): the step of this name, on what is in s.arg. -/
def execFlitSend (s : State) : Host.Outcome State Fault Refusal := .next (evFlitSend s)
/-- FLIT_RECEIVE (R364): the step of this name, on what is in s.arg. -/
def execFlitReceive (s : State) : Host.Outcome State Fault Refusal := .next (evFlitReceive s)
/-- NAK (R364): the step of this name, on what is in s.arg. -/
def execNak (s : State) : Host.Outcome State Fault Refusal := .next (evNak s)
/-- RETRAIN_COMPLETE (R364): the step of this name, on what is in s.arg. -/
def execRetrainComplete (s : State) : Host.Outcome State Fault Refusal := .next (evRetrainComplete s)
/-- RATE_FLIT (R365): the step of this name, on what is in s.arg. -/
def execRateFlit (s : State) : Host.Outcome State Fault Refusal := .next (evRateFlit s)
/-- PORT_DOWN (R368): the step of this name, on what is in s.arg. -/
def execPortDown (s : State) : Host.Outcome State Fault Refusal := .next (evPortDown s)
/-- HOST_BAR_ACCESS (R372): the step of this name, on what is in s.arg. -/
def execHostBarAccess (s : State) : Host.Outcome State Fault Refusal := .next (evHostBarAccess s)

end Sys2Proof.Machine
end

