-- ==== Sys2Proof/Machine/Issue.lean ====
section
/-! DEFINITION. Every syllable as it issues in a bundle (R148, R150). -/
namespace Sys2Proof.Machine

/-- The syllable of an instruction with an encoding; none for a step without one. -/
def issueOf (i : Instr) : Option Act :=
  match i with
  | .nop f => some ((actNop f).of (.nop f))
  | .add f => some ((actAdd f).of (.add f))
  | .sub f => some ((actSub f).of (.sub f))
  | .mul f => some ((actMul f).of (.mul f))
  | .mulh f => some ((actMulh f).of (.mulh f))
  | .mulhn f => some ((actMulhn f).of (.mulhn f))
  | .div f => some ((actDiv f).of (.div f))
  | .divn f => some ((actDivn f).of (.divn f))
  | .rem f => some ((actRem f).of (.rem f))
  | .remn f => some ((actRemn f).of (.remn f))
  | .and f => some ((actAnd f).of (.and f))
  | .or f => some ((actOr f).of (.or f))
  | .xor f => some ((actXor f).of (.xor f))
  | .andn f => some ((actAndn f).of (.andn f))
  | .shl f => some ((actShl f).of (.shl f))
  | .shr f => some ((actShr f).of (.shr f))
  | .sra f => some ((actSra f).of (.sra f))
  | .rol f => some ((actRol f).of (.rol f))
  | .min f => some ((actMin f).of (.min f))
  | .max f => some ((actMax f).of (.max f))
  | .minn f => some ((actMinn f).of (.minn f))
  | .maxn f => some ((actMaxn f).of (.maxn f))
  | .clz f => some ((actClz f).of (.clz f))
  | .ctz f => some ((actCtz f).of (.ctz f))
  | .popc f => some ((actPopc f).of (.popc f))
  | .mov f => some ((actMov f).of (.mov f))
  | .movh f => some ((actMovh f).of (.movh f))
  | .sext f => some ((actSext f).of (.sext f))
  | .zext f => some ((actZext f).of (.zext f))
  | .shadd1 f => some ((actShadd1 f).of (.shadd1 f))
  | .shadd2 f => some ((actShadd2 f).of (.shadd2 f))
  | .shadd3 f => some ((actShadd3 f).of (.shadd3 f))
  | .cmpeq f => some ((actCmpeq f).of (.cmpeq f))
  | .cmpne f => some ((actCmpne f).of (.cmpne f))
  | .cmplt f => some ((actCmplt f).of (.cmplt f))
  | .cmple f => some ((actCmple f).of (.cmple f))
  | .cmpltn f => some ((actCmpltn f).of (.cmpltn f))
  | .cmplen f => some ((actCmplen f).of (.cmplen f))
  | .pand f => some ((actPand f).of (.pand f))
  | .por f => some ((actPor f).of (.por f))
  | .pxor f => some ((actPxor f).of (.pxor f))
  | .pandn f => some ((actPandn f).of (.pandn f))
  | .pget f => some ((actPget f).of (.pget f))
  | .pset f => some ((actPset f).of (.pset f))
  | .pall f => some ((actPall f).of (.pall f))
  | .fadd f => some ((actFadd f).of (.fadd f))
  | .fsub f => some ((actFsub f).of (.fsub f))
  | .fmul f => some ((actFmul f).of (.fmul f))
  | .fma f => some ((actFma f).of (.fma f))
  | .fdiv f => some ((actFdiv f).of (.fdiv f))
  | .fsqrt f => some ((actFsqrt f).of (.fsqrt f))
  | .fmin f => some ((actFmin f).of (.fmin f))
  | .fmax f => some ((actFmax f).of (.fmax f))
  | .fcmpeq f => some ((actFcmpeq f).of (.fcmpeq f))
  | .fcmplt f => some ((actFcmplt f).of (.fcmplt f))
  | .fcmple f => some ((actFcmple f).of (.fcmple f))
  | .fcmpun f => some ((actFcmpun f).of (.fcmpun f))
  | .ftoi f => some ((actFtoi f).of (.ftoi f))
  | .itof f => some ((actItof f).of (.itof f))
  | .fcvt f => some ((actFcvt f).of (.fcvt f))
  | .fclass f => some ((actFclass f).of (.fclass f))
  | .mfs f => some ((actMfs f).of (.mfs f))
  | .mts f => some ((actMts f).of (.mts f))
  | .probe f => some ((actProbe f).of (.probe f))
  | .vadd f => some ((actVadd f).of (.vadd f))
  | .vsub f => some ((actVsub f).of (.vsub f))
  | .vmul f => some ((actVmul f).of (.vmul f))
  | .vfma f => some ((actVfma f).of (.vfma f))
  | .vfms f => some ((actVfms f).of (.vfms f))
  | .vmin f => some ((actVmin f).of (.vmin f))
  | .vmax f => some ((actVmax f).of (.vmax f))
  | .vminn f => some ((actVminn f).of (.vminn f))
  | .vmaxn f => some ((actVmaxn f).of (.vmaxn f))
  | .vabs f => some ((actVabs f).of (.vabs f))
  | .vneg f => some ((actVneg f).of (.vneg f))
  | .vmulh f => some ((actVmulh f).of (.vmulh f))
  | .vmulhn f => some ((actVmulhn f).of (.vmulhn f))
  | .vsadd f => some ((actVsadd f).of (.vsadd f))
  | .vssub f => some ((actVssub f).of (.vssub f))
  | .vand f => some ((actVand f).of (.vand f))
  | .vor f => some ((actVor f).of (.vor f))
  | .vxor f => some ((actVxor f).of (.vxor f))
  | .vandn f => some ((actVandn f).of (.vandn f))
  | .vnot f => some ((actVnot f).of (.vnot f))
  | .vshl f => some ((actVshl f).of (.vshl f))
  | .vshr f => some ((actVshr f).of (.vshr f))
  | .vsra f => some ((actVsra f).of (.vsra f))
  | .vclz f => some ((actVclz f).of (.vclz f))
  | .vpopc f => some ((actVpopc f).of (.vpopc f))
  | .vcmpeq f => some ((actVcmpeq f).of (.vcmpeq f))
  | .vcmpne f => some ((actVcmpne f).of (.vcmpne f))
  | .vcmplt f => some ((actVcmplt f).of (.vcmplt f))
  | .vcmple f => some ((actVcmple f).of (.vcmple f))
  | .vcmpltn f => some ((actVcmpltn f).of (.vcmpltn f))
  | .vcmplen f => some ((actVcmplen f).of (.vcmplen f))
  | .vcmpun f => some ((actVcmpun f).of (.vcmpun f))
  | .vsel f => some ((actVsel f).of (.vsel f))
  | .vmov f => some ((actVmov f).of (.vmov f))
  | .vbcast f => some ((actVbcast f).of (.vbcast f))
  | .vxmov f => some ((actVxmov f).of (.vxmov f))
  | .vperm f => some ((actVperm f).of (.vperm f))
  | .vperm2 f => some ((actVperm2 f).of (.vperm2 f))
  | .vslideup f => some ((actVslideup f).of (.vslideup f))
  | .vslidedn f => some ((actVslidedn f).of (.vslidedn f))
  | .vzip f => some ((actVzip f).of (.vzip f))
  | .vunzip f => some ((actVunzip f).of (.vunzip f))
  | .viota f => some ((actViota f).of (.viota f))
  | .vcompress f => some ((actVcompress f).of (.vcompress f))
  | .vexpand f => some ((actVexpand f).of (.vexpand f))
  | .vextract f => some ((actVextract f).of (.vextract f))
  | .vredadd f => some ((actVredadd f).of (.vredadd f))
  | .vredmax f => some ((actVredmax f).of (.vredmax f))
  | .vredmin f => some ((actVredmin f).of (.vredmin f))
  | .vscan f => some ((actVscan f).of (.vscan f))
  | .vargmax f => some ((actVargmax f).of (.vargmax f))
  | .vargmin f => some ((actVargmin f).of (.vargmin f))
  | .vcvt f => some ((actVcvt f).of (.vcvt f))
  | .vcvtq f => some ((actVcvtq f).of (.vcvtq f))
  | .vpack4 f => some ((actVpack4 f).of (.vpack4 f))
  | .vunpack4 f => some ((actVunpack4 f).of (.vunpack4 f))
  | .vscale f => some ((actVscale f).of (.vscale f))
  | .vplane f => some ((actVplane f).of (.vplane f))
  | .vunplane f => some ((actVunplane f).of (.vunplane f))
  | .vdot4 f => some ((actVdot4 f).of (.vdot4 f))
  | .vexp2 f => some ((actVexp2 f).of (.vexp2 f))
  | .vexp f => some ((actVexp f).of (.vexp f))
  | .vlog2 f => some ((actVlog2 f).of (.vlog2 f))
  | .vln f => some ((actVln f).of (.vln f))
  | .vrcp f => some ((actVrcp f).of (.vrcp f))
  | .vrsq f => some ((actVrsq f).of (.vrsq f))
  | .vsqrt f => some ((actVsqrt f).of (.vsqrt f))
  | .vtanh f => some ((actVtanh f).of (.vtanh f))
  | .vsigm f => some ((actVsigm f).of (.vsigm f))
  | .vsin f => some ((actVsin f).of (.vsin f))
  | .vcos f => some ((actVcos f).of (.vcos f))
  | .verf f => some ((actVerf f).of (.verf f))
  | .vgelu f => some ((actVgelu f).of (.vgelu f))
  | .lds f => some ((actLds f).of (.lds f))
  | .ldsn f => some ((actLdsn f).of (.ldsn f))
  | .sts f => some ((actSts f).of (.sts f))
  | .ldv f => some ((actLdv f).of (.ldv f))
  | .stv f => some ((actStv f).of (.stv f))
  | .ldvx f => some ((actLdvx f).of (.ldvx f))
  | .stvx f => some ((actStvx f).of (.stvx f))
  | .ldvb f => some ((actLdvb f).of (.ldvb f))
  | .ldvs f => some ((actLdvs f).of (.ldvs f))
  | .ldg f => some ((actLdg f).of (.ldg f))
  | .ldgn f => some ((actLdgn f).of (.ldgn f))
  | .stg f => some ((actStg f).of (.stg f))
  | .ldgv f => some ((actLdgv f).of (.ldgv f))
  | .stgv f => some ((actStgv f).of (.stgv f))
  | .lda f => some ((actLda f).of (.lda f))
  | .stl f => some ((actStl f).of (.stl f))
  | .aadd f => some ((actAadd f).of (.aadd f))
  | .amin f => some ((actAmin f).of (.amin f))
  | .amax f => some ((actAmax f).of (.amax f))
  | .aminn f => some ((actAminn f).of (.aminn f))
  | .amaxn f => some ((actAmaxn f).of (.amaxn f))
  | .aand f => some ((actAand f).of (.aand f))
  | .aor f => some ((actAor f).of (.aor f))
  | .axor f => some ((actAxor f).of (.axor f))
  | .axchg f => some ((actAxchg f).of (.axchg f))
  | .acas f => some ((actAcas f).of (.acas f))
  | .afadd f => some ((actAfadd f).of (.afadd f))
  | .vaor f => some ((actVaor f).of (.vaor f))
  | .vaadd f => some ((actVaadd f).of (.vaadd f))
  | .drain f => some ((actDrain f).of (.drain f))
  | .pref f => some ((actPref f).of (.pref f))
  | .resid f => some ((actResid f).of (.resid f))
  | .icpin f => some ((actIcpin f).of (.icpin f))
  | .icunpin f => some ((actIcunpin f).of (.icunpin f))
  | .dcwb f => some ((actDcwb f).of (.dcwb f))
  | .dcinv f => some ((actDcinv f).of (.dcinv f))
  | .mma f => some ((actMma f).of (.mma f))
  | .mmas f => some ((actMmas f).of (.mmas f))
  | .mconv f => some ((actMconv f).of (.mconv f))
  | .mzero f => some ((actMzero f).of (.mzero f))
  | .mread f => some ((actMread f).of (.mread f))
  | .mwrite f => some ((actMwrite f).of (.mwrite f))
  | .mstore f => some ((actMstore f).of (.mstore f))
  | .mplane f => some ((actMplane f).of (.mplane f))
  | .msett f => some ((actMsett f).of (.msett f))
  | .mfence f => some ((actMfence f).of (.mfence f))
  | .kseta f => some ((actKseta f).of (.kseta f))
  | .ksetb f => some ((actKsetb f).of (.ksetb f))
  | .kfill f => some ((actKfill f).of (.kfill f))
  | .kclr f => some ((actKclr f).of (.kclr f))
  | .lsw f => some ((actLsw f).of (.lsw f))
  | .lsr f => some ((actLsr f).of (.lsr f))
  | .cpyin f => some ((actCpyin f).of (.cpyin f))
  | .cpyout f => some ((actCpyout f).of (.cpyout f))
  | .cpych f => some ((actCpych f).of (.cpych f))
  | .cpykv f => some ((actCpykv f).of (.cpykv f))
  | .cpyst f => some ((actCpyst f).of (.cpyst f))
  | .cpymsg f => some ((actCpymsg f).of (.cpymsg f))
  | .abclr f => some ((actAbclr f).of (.abclr f))
  | .abwait f => some ((actAbwait f).of (.abwait f))
  | .semset f => some ((actSemset f).of (.semset f))
  | .semadd f => some ((actSemadd f).of (.semadd f))
  | .semrd f => some ((actSemrd f).of (.semrd f))
  | .semwait f => some ((actSemwait f).of (.semwait f))
  | .send f => some ((actSend f).of (.send f))
  | .recv f => some ((actRecv f).of (.recv f))
  | .recvp f => some ((actRecvp f).of (.recvp f))
  | .mbstat f => some ((actMbstat f).of (.mbstat f))
  | .coll f => some ((actColl f).of (.coll f))
  | .collarm f => some ((actCollarm f).of (.collarm f))
  | .bwset f => some ((actBwset f).of (.bwset f))
  | .sopen f => some ((actSopen f).of (.sopen f))
  | .sclose f => some ((actSclose f).of (.sclose f))
  | .ssnap f => some ((actSsnap f).of (.ssnap f))
  | .sroll f => some ((actSroll f).of (.sroll f))
  | .sfork f => some ((actSfork f).of (.sfork f))
  | .sdrop f => some ((actSdrop f).of (.sdrop f))
  | .spin f => some ((actSpin f).of (.spin f))
  | .sqry f => some ((actSqry f).of (.sqry f))
  | .spawn f => some ((actSpawn f).of (.spawn f))
  | .take f => some ((actTake f).of (.take f))
  | .steal f => some ((actSteal f).of (.steal f))
  | .join f => some ((actJoin f).of (.join f))
  | .domset f => some ((actDomset f).of (.domset f))
  | .br f => some ((actBr f).of (.br f))
  | .bra f => some ((actBra f).of (.bra f))
  | .brf f => some ((actBrf f).of (.brf f))
  | .bl f => some ((actBl f).of (.bl f))
  | .jr f => some ((actJr f).of (.jr f))
  | .jrl f => some ((actJrl f).of (.jrl f))
  | .ret f => some ((actRet f).of (.ret f))
  | .bloopw f => some ((actBloopw f).of (.bloopw f))
  | .bloope f => some ((actBloope f).of (.bloope f))
  | .bar f => some ((actBar f).of (.bar f))
  | .bara f => some ((actBara f).of (.bara f))
  | .barw f => some ((actBarw f).of (.barw f))
  | .yield f => some ((actYield f).of (.yield f))
  | .endt f => some ((actEndt f).of (.endt f))
  | .halt f => some ((actHalt f).of (.halt f))
  | .trap f => some ((actTrap f).of (.trap f))
  | .bkpt f => some ((actBkpt f).of (.bkpt f))
  | .eret f => some ((actEret f).of (.eret f))
  | .wfe f => some ((actWfe f).of (.wfe f))
  | .prio f => some ((actPrio f).of (.prio f))
  | _ => none

/-- The syllables of a bundle. -/
def issueList (is : List Instr) : List Act := is.filterMap issueOf

end Sys2Proof.Machine
end

