-- ==== Sys2Proof/Machine/Save.lean ====
section
/-! DEFINITION. The end, the save and the restore of a task (R93, R105, R186, R264, R267 to R269, R341 to R346, R350 to R360). -/
namespace Sys2Proof.Machine

/-! ## Commands already sent (R102, R103) -/

/-- R98, R101, R102: the Grotto command of a scoreboard record of this die's controller is performed. -/
def grotRun (a : Await) (s : State) : State :=
  match a.grot with
  | none => s
  | some (op, w, ext) => match grPerform op w ext s with
    | (some v, s1) => upAwaits (fun l => l.map fun b => if b.id == a.id then { b with value := some (v.setWidth 1024), grot := none } else b) s1
    | (none, s1) => grotFailed a.id s1
/-- A Grotto command that the controller of this die answers (R97). -/
def grotMine (s : State) (a : Await) : Bool :=
  match a.grot with
  | some (op, w, _) => op == 0x28 || handleAgent w != otherDie s
  | none => false
/-- R103: the commands sent to this die's controller, in issue order. -/
def grotAll (s : State) : State := (s.core.awaits.filter (grotMine s)).foldl (fun st a => grotRun a st) s

/-! ## What a stopped task leaves behind -/

/-- The core as it stands without a task. What is dropped of its hints from now on no task counts (R43). -/
def clearTask (s : State) : State :=
  s.upCore fun c =>
    { c with
      run := .idle, mon := false, mEnd := .none, mDue := 0, task := none, joinReq := none, pipe := [], snap := [], awaits := []
      accs := c.accs.filter fun g => match g.op with | .load _ => false | _ => true
      asyncs := Asyncs.none, posr := none, waiting := .none, waitCycles := 0, probes := [], needs := [], strong := [], posts := [], posted := []
      mbox := [], bars := freshBars, btc := [], taskGranules := [], linkDue := none
      prefs := c.prefs.map fun p => { p with counted := true }, hints := c.hints.map fun h => { h with live := false } }

/-- Posts of the running task in the engine (R180, R181, R354). -/
def upMyPosts (f : CollPost → CollPost) (s : State) : State :=
  let g := fun (p : CollPost) => if p.slotVa == 0 && p.live then f p else p
  upColls (fun e => { e with
    colls := e.colls.map fun c => { c with post := c.post.map g }
    arms := e.arms.map fun a => { a with post := g a.post } }) s

/-- R93: the channels at the end of a task: commands not started are discarded, the others run on without it. A channel that
has stopped at a fault reports to the sequencer. n is the end. -/
def endChannel (n : Nat) (h : Channel) : Channel :=
  if h.stop.isSome && h.queue.any (·.live) then
    { h with queue := h.queue.filter (fun c => !c.live), stop := none, popped := 0, partialWords := [] }
  else { h with queue := (h.queue.filter fun c => !c.live || c.started).map fun c => if c.live then { c with live := false, leave := n } else c
                partialWords := [] }
def stoppedLive (s : State) : List Nat :=
  s.core.channels.toList.filterMap fun h => match h.stop with
    | some sub => if h.queue.any (·.live) then some sub.toNat else none
    | none => none

/-- R72: the regions of the running task, the granules of each. -/
def taskRegions (s : State) : List (List Nat) :=
  (groupRuns s.core.taskGranules).map fun r => (List.range r.2).map fun i => r.1 + i

/-- R93, R105, R269, R360: the task stops for good on this core. What it has sent to itself goes with it. -/
def stopTask (s0 : State) : State :=
  match s0.core.task with
  | none => s0
  | some t =>
    let s := grotAll (landDue (s0.core.pipe.filter fun r => r.left == 0) s0)
    let s1 := (stoppedLive s).foldl (fun st k => seqRaise 2 t.record.w6 t.record.w3 (BitVec.ofNat 64 k) st) s
    let s2 := s1.upCore fun c =>
      { c with
        channels := c.channels.map (endChannel c.accSeq), spill := [], outMail := c.outMail.filter (·.gang)
        freeing := c.freeing ++ taskRegions s
        mxQueue := c.mxQueue.map fun e => { e with live := false }
        mxRun := c.mxRun.map fun e => { e with live := false }
        accSeq := c.accSeq + 1 }
    let s3 := setGranules s.core.taskGranules .releasing (upMyPosts (fun p => { p with live := false }) s2)
    clearTask s3

/-- What an end owes: its place at its barriers, and the join counter where there is one (R264, R269). -/
def owe (t : TaskInfo) (win : Vector W64 24) (va : W64) (seq : Nat) (counter : Bool) (r : Option Rec) (s : State) : State :=
  s.upCore fun c => { c with leaving := c.leaving ++ [⟨t, win, false, va, seq, r.isNone && t.gang, counter, r, []⟩] }

/-- R269: ENDT. -/
def endTask (s : State) : State :=
  match s.core.task with
  | none => s
  | some t => owe t s.core.sys.win t.record.w6 s.core.accSeq (t.record.w6 != 0) none (stopTask s)
/-- R267: an end that monitor code has begun stops the task as it stands: as at a return (R272). -/
def atTask (s : State) : State := if s.core.mon then returnToTask s else s

/-- R360: a task is given up: it ends without the join decrement, and the sequencer is told, unless its program has stopped. -/
def giveUpTask (code : Nat) (told : Bool) (s : State) : State :=
  match s.core.task with
  | none => s
  | some t =>
    let s1 := owe t s.core.sys.win 0 s.core.accSeq false none (stopTask s)
    if told then seqRaise 11 t.record.w6 t.record.w3 (BitVec.ofNat 64 code) s1 else s1

/-! ## Saving (R342, R353, R354, R355) -/

/-- R352: the VA of the k-th context slot of this die, which is the IA of its memory (log entry 15). -/
def slotIa (s : State) (k : Nat) : BitVec 56 :=
  (s.core.agent ++ Config.slotBase ++ BitVec.ofNat 15 (k + 1) ++ 0#22 : BitVec (10 + 9 + 15 + 22))
def slotUsed (s : State) (va : W64) : Bool := (ctxFind s va).isSome
/-- The lowest slot not in use. -/
def freeSlot (s : State) : W64 :=
  let ks := List.range (s.die.disp.slots.length + 2)
  match ks.find? fun k => !slotUsed s ((slotIa s k).setWidth 64) with
  | some k => (slotIa s k).setWidth 64
  | none => (slotIa s ks.length).setWidth 64

/-- R354: a command whose writes are all performed counts as complete. -/
def completeAll (k : BitVec 2) : Nat → State → State
  | 0, s => s
  | n + 1, s => completeAll k n (copyComplete k s)
/-- R354: a command as it is saved. -/
def savedCmd (c : Cmd) : Cmd :=
  { c with checked := false, blocks := [], landed := [], probes := [], pages := [], record := none, recGo := false, held := [], sent := []
           asked := false, refused := none }
def savedChannel (h : Channel) : Channel := { h with queue := (h.queue.filter (·.live)).map savedCmd }
/-- R354: what stays in a channel: the work of tasks that ended before. -/
def leftChannel (h : Channel) : Channel :=
  { h with queue := h.queue.filter (fun c => !c.live), stop := none, popped := 0, partialWords := [] }

/-- The context of the running task, after the freeze (R350, R351). -/
def ctxOf (s : State) (t : TaskInfo) (inCore : Bool) : Ctx :=
  let c := s.core
  { task := t, agent := c.agent, core := BitVec.ofNat 9 (packageCore s), inCore := inCore, step := stepId.setWidth 16
    regsS := c.regs.s, regsP := c.regs.p, regsV := c.regs.v, regsT := c.regs.t, acc0 := c.regs.acc0, acc1 := c.regs.acc1
    ka := c.regs.ka, kb := c.regs.kb, sys := { c.sys with tstate := tstateWord s }
    stream := { c.pcq with f0 := none, f1 := none, f2 := none }, snap := c.snap, awaits := c.awaits
    ls := c.ls, bank0 := c.bank0, bank1 := c.bank1, bankNow := c.bankNow, ab := c.ab, sem := c.sem
    channels := c.channels.map savedChannel, posts := c.posts, posted := c.posted, mbox := c.mbox, mx := c.mxQueue.filter (·.live)
    bars := c.bars, weights := c.weights, latch := c.latch, spill := (c.outMail.filter fun o => !o.gang).map (·.msg)
    asyncs := { c.asyncs with preempt := none }, barCycles := c.barCycles, granules := c.taskGranules, region := [], seq := c.accSeq }

/-- R75, R352: the spill section of a slot, by offset. -/
def spillCells (x : Ctx) : List (Nat × Byte) := (spillBytes x).zipIdx.map fun b => (0x25000 + b.2, b.1)
/-- R353, R355: the context of the running task is saved and the core left without it: the slot, and the new state. With the save area free
the image goes there, and the slot's header names the core (R352); otherwise the image is written straight into the slot. -/
def saveContext (s0 : State) : W64 × State :=
  match s0.core.task with
  | none => (0, s0)
  | some t =>
    let s1 := matrixDone (grotAll (freeze false s0))
    let s2 := completeAll 3 16 (completeAll 2 16 (completeAll 1 16 (completeAll 0 16 s1)))
    let va := freeSlot s2
    let inArea := s2.core.saveArea.isNone
    let x := ctxOf s2 t inArea
    let img := imgBytesOf va x
    let s3 := if inArea
      then (s2.setSpad (s2.core.spad.writeBytes 0x3C0000 img)).upCore fun c => { c with saveArea := some (va, x) }
      else upDisp (fun d => { d with slots := d.slots ++ [(va, x)] }) s2
    let cells := (if inArea then img.take 32 else img).zipIdx.map fun b => (b.2, b.1)
    let s4 := engPost (slotAt va (cells ++ spillCells x)) (upMyPosts (fun p => { p with slotVa := va }) s3)
    let s5 := s4.upCore fun c =>
      { c with
        channels := c.channels.map leftChannel, mxQueue := c.mxQueue.filter fun e => !e.live, outMail := c.outMail.filter (·.gang)
        spillMove := if c.spill.isEmpty then none else some (t, va), accSeq := c.accSeq + 1 }
    (va, clearTask s5)

/-- The record of a saved task (R268, R353): w7 names its slot. -/
def savedRec (t : TaskInfo) (va : W64) : Rec := { t.record with w7 := va }

/-- R333: PREEMPT of the running task. -/
def preemptTrap (info : Nat) (s : State) : TrapReq := ⟨.preempt, BitVec.ofNat 16 info, true, 0, s.core.pcq.q0, 0, false⟩
/-- R336, R353 step 6: PREEMPT enters the monitor at MENTRY, with the trap record of the task that has left the core; it frees the core by
ERET (log entry 16). What it does with the record, the step of the save has done (log entry 41). -/
def enterPreempt (info : Nat) (s0 s : State) : State :=
  let t := preemptTrap info s0
  let s1 := s.upSys fun y => { y with cause := causeWord t, fmask := 0, faddr := t.faddr }
  (s1.setSpad (s1.core.spad.writeBytes 0x3F3FC0 (trapRecord t { s1 with core := { s1.core with pcq := s0.core.pcq } }))).upCore fun c =>
    { c with run := .running, mon := true, mEnd := .none, mDue := 0, mstream := ⟨c.sys.mentry &&& ~~~3, 1, 1, 0, none, none, none⟩ }
/-- R301: a record returned by a rotation causes none in the cycle; of the kinds 2 and 4 those that go to the tail. -/
def noteReturn (k : BitVec 3) (toHead : Bool) (r : Rec) (s : State) : State := if !toHead && (k = 2 || k = 4) then spend r s else s
/-- R303: what a task that is parked waits for. -/
def parkedOf (s : State) (t : TaskInfo) (r : Rec) : Parked :=
  let l : BitVec 3 := s.core.waitArg.setWidth 3
  { record := r, kind := s.core.waiting, arg := s.core.waitArg, waited := 0
    sid := match subAt t l with | some d => d.sid | none => 0
    phaseEnd := s.core.waiting == .bar && (barOf s l).complete, win := t.carried }

/-- CONTEXT_SAVE at a boundary: a JOIN (R186), or a pre-emption, rotation or parking (R299, R301, R303, R307, R353), which a core that
cannot enter its monitor stops at (R339). -/
def evContextSave (s : State) : State :=
  if boundary s != some .contextSave then s
  else match s.core.task, s.core.joinReq, s.core.asyncs.preempt with
    | some t, some a, _ =>
      let r := saveContext (atTask (s.upCore fun c => { c with joinReq := none }))
      r.2.upCore fun c => { c with leaving := c.leaving ++
        [⟨t, s.core.sys.win, s.core.mon, a, s.core.accSeq, false, true, some (savedRec t r.1), []⟩] }
    | some t, none, some (k, toHead) =>
      if !mentryOk s.core.sys.mentry then takeTrap (preemptTrap k.toNat s) s
      else
        let r := saveContext s
        let x := savedRec t r.1
        let s1 := enterPreempt k.toNat s r.2
        if k = 3 then upDisp (fun d => { d with parked := d.parked ++ [parkedOf s t x] }) s1
        else noteReturn k toHead x (fifoEnter toHead x s1)
    | _, _, _ => s

/-- R105: the handle in w5 of a record is of the other die's controller. -/
def posFar (s : State) (r : Rec) : Bool := handleAgent r.w5 == otherDie s
/-- POSITION_PREEMPT (R105 steps 1 to 3). The check of a sequence of the other die is that controller's: it is asked once, and with b
its answer comes: k (1: the sequence holds a snapshot); k = 2 is such a question of the other die: n (its number), x (the word). DEDUCED,
log entry 101. A core that cannot enter its monitor stops (R339). -/
def evPositionPreempt (s : State) : State :=
  if s.arg.b then
    (if s.arg.k = 2 then askedPos s.arg.n s.arg.x s
     else if s.core.posr == some none then s.upCore fun c => { c with posr := some (some (s.arg.k == 1)) } else s)
  else if boundary s != some .positionPreempt then s
  else match s.core.task, s.core.asyncs.preempt with
    | some t, some (k, toHead) =>
      if posFar s t.record && s.core.posr != some (some true) then
        (if s.core.posr.isNone then (s.upCore fun c => { c with posr := some none }).send (.posAsk (otherDie s) t.record.w5) else s)
      else if !mentryOk s.core.sys.mentry then takeTrap (preemptTrap k.toNat s) s
      else
        let p := if k = 3 then some (parkedOf s t t.record) else none
        upDisp (fun d => { d with restarts := d.restarts ++ [⟨t.record, toHead || k == 3, false, t.carried, p⟩] })
          (enterPreempt k.toNat s (stopTask s))
    | _, _ => s

/-- R105: writes of sequences by commands of ended tasks are still due. -/
def statesDue (s : State) : Bool := s.core.channels.toList.any fun h => h.queue.any fun c => !c.live && c.isState && stIn c
/-- R105 step 5, or its refusal: the roll of the first restart has an answer, the status word's position field where it is OK. The record of
a parked task waits until R303 wakes it. -/
def rolled (q : Restart) (pos : Option (BitVec 32)) (s0 : State) : State :=
  let s := upDisp (fun d => { d with restarts := d.restarts.tail }) s0
  let r := q.record
  match pos with
  | none => seqRaise 11 r.w6 r.w3 0x20 (owe (taskOfRec s r) (Vector.replicate 24 0) 0 s.core.accSeq false none s)
  | some p =>
    let r' : Rec := { r with w5 := BitVec.ofNat 64 (r.w5.toNat % 2 ^ 32 + p.toNat * 2 ^ 32), w7 := 0 }
    match q.park with
    | some k => upDisp (fun d => { d with parked := d.parked ++ [{ k with record := r' }] }) s
    | none => noteReturn 2 q.toHead r' (fifoEnterWith q.win q.toHead r' s)
/-- POSITION_ROLL_DONE (R105 steps 4 and 5). The other die's controller is asked for the roll, and with b its answer comes: k (0: OK), x
(the status word); k = 2 is such a request of the other die: n (its number), x (the word). -/
def evPositionRollDone (s : State) : State :=
  if s.arg.b && s.arg.k == 2 then askedRoll s.arg.n s.arg.x s
  else match s.die.disp.restarts with
    | [] => s
    | q :: rest =>
      if posFar s q.record then
        (if q.asked then (if s.arg.b then rolled q (if s.arg.k = 0 then some (s.arg.x.extractLsb' 32 32) else none) s else s)
         else if s.arg.b || statesDue s then s
         else (upDisp (fun d => { d with restarts := { q with asked := true } :: rest }) s).send (.rollNewest (otherDie s) q.record.w5))
      else if s.arg.b || statesDue s then s
      else match newestWord s q.record.w5 with
        | none => rolled q none s
        | some w => match grPerform 0x2B w 0 s with
          | (some _, s1) => rolled q (some (w.extractLsb' 32 32)) s1
          | (none, s1) => rolled q none s1

/-! ## Leaving the core (R308, R352, R354) -/

/-- R352: the region contents by task-visible address. -/
def regionOf (s : State) (x : Ctx) : Memory :=
  let bytes := (List.range x.granules.length).flatMap fun g => match x.granules[g]? with
    | some p => (s.core.spad.filter fun c => c.1 / 2 ^ 16 == p).map fun c => (g * 2 ^ 16 + c.1 % 2 ^ 16, c.2)
    | none => []
  bytes
/-- A context written out: its regions carried. -/
def carried (s : State) (x : Ctx) : Ctx := { x with inCore := false, region := regionOf s x, granules := [] }
/-- R352: what the slot's memory holds then, as IA and byte. -/
def slotCells (s : State) (va : W64) (x : Ctx) : List (Nat × Byte) :=
  let grans := (List.range x.granules.length).flatMap fun g => match x.granules[g]? with
    | some p => (List.range (2 ^ 16)).map fun i => (0x30000 + g * 2 ^ 16 + i, s.core.spad.read (p * 2 ^ 16 + i))
    | none => []
  slotAt va (((imgBytesOf va (carried s x)).zipIdx.map fun b => (b.2, b.1)) ++ spillCells x ++ grans)

/-- R187, R264: the level of a barrier is the task's alone: level 0, and of a task in no gang, which is a gang of one, every level. -/
def aloneAt (t : TaskInfo) (l : BitVec 3) : Bool := l == 0 || !t.gang
def sidAt (t : TaskInfo) (l : BitVec 3) : BitVec 16 := match subAt t l with | some d => d.sid | none => 0
def countAt (t : TaskInfo) (l : BitVec 3) : Nat := match subAt t l with | some d => d.count.toNat | none => t.gsize.toNat

/-- A member has arrived at a barrier. -/
def putArrival (a : Arrivals) : List Arrivals → List Arrivals
  | [] => [a]
  | x :: xs =>
    if x.domain == a.domain && x.level == a.level && x.sid == a.sid then
      { x with members := x.members ++ a.members.filter fun m => !x.members.contains m } :: xs
    else x :: putArrival a xs

/-- R264, R307: the arrivals that a saved task had asked for are recorded once its accesses are performed. -/
def recordAsked (x : Ctx) (s : State) : Ctx × State :=
  let ls := (List.range 8).map (BitVec.ofNat 3) |>.filter fun l => (x.bars.get l.toFin).asked && !(x.bars.get l.toFin).arrived
  ({ x with bars := ls.foldl (fun v l =>
      v.set l.toFin { v.get l.toFin with asked := false, arrived := true, complete := aloneAt x.task l }) x.bars },
   (ls.filter fun l => !aloneAt x.task l).foldl (fun st l =>
      let a : Arrivals := ⟨x.task.domain, l, sidAt x.task l, countAt x.task l, [x.task.rank]⟩
      upDisp (fun d => { d with arrivals := putArrival a d.arrivals }) st) s)
/-- R199: what a saved task has issued is performed. -/
def ctxPerformed (s : State) (x : Ctx) : Bool :=
  !(s.core.accs.any fun g => decide (g.seq ≤ x.seq)) && !engWritesOut s (x.seq + 1) && !(s.core.outMail.any fun o => decide (o.seq ≤ x.seq))

/-- IMAGE_WRITEOUT of the context of a slot, once what its task has issued is performed: the image, the spill and the regions go to the
slot, INCORE clears. A slot that is not mapped is a fault of the save engine (R341). Reads: x (the slot's VA). -/
def evImageWriteout (s : State) : State :=
  let va := s.arg.x
  match ctxFind s va with
  | none => s
  | some x0 =>
    if (!x0.inCore && x0.granules.isEmpty) || !ctxPerformed s x0 then s
    else
      let (x, s0) := recordAsked x0 s
      let cells := slotCells s0 va x
      let ias := cells.map (·.1)
      if (linesOf ias).any (fun l => lineBad s l && badInfo s l == 2) then stopCore s va
      else if !engAllWritable s ias then s
      else
        let y := carried s0 x
        let s2 := setGranules x.granules .clearing (engWrite 0 cells s0)
        let put := upDisp (fun d => { d with slots := (va, y) :: d.slots.filter fun z => !(z.1 == va) })
        match s.core.saveArea with
        | some (v, _) => put (if v == va then s2.upCore fun c => { c with saveArea := none } else s2)
        | none => put s2

/-- SPILLED_MESSAGE_MOVE (R308, R354): to the gang overflow, or to the slot's spill area. -/
def evSpilledMessageMove (s : State) : State :=
  match s.core.spillMove with
  | none => s
  | some (t, va) =>
    if t.gang then
      match gangOf s t.domain with
      | none => s.upCore fun c => { c with spill := [], spillMove := none }
      | some g =>
        let room := (g.w0.extractLsb' 0 16).toNat - g.overflow.length
        let left := s.core.spill.drop room
        ((spilled s).take room).foldl (fun st m => toOverflow t.rank { m with gang := t.domain } st)
          (s.upCore fun c => { c with spill := left, spillMove := if left.isEmpty then none else some (t, va) })
    else
      let s1 := upImage va (fun x => { x with spill := spilled s ++ x.spill }) (s.upCore fun c => { c with spill := [], spillMove := none })
      match ctxFind s1 va with
      | some x => engPost (slotAt va (spillCells x)) s1
      | none => s1

/-! ## Restoring (R346, R354, R356, R357) -/

/-- The task-visible address of a physical one. -/
def spadBack (spw : Vector W64 4) (p : Nat) : Option Nat :=
  (spw.toList.find? fun w => spwV w && decide (spwPbase w ≤ p / 2 ^ 16) && decide (p / 2 ^ 16 < spwPbase w + spwCount w)).map
    fun w => (p / 2 ^ 16 - spwPbase w + spwVbase w) * 2 ^ 16 + p % 2 ^ 16
/-- R72: a queued X instruction and a command take the regions of the restore. -/
def moveMx (spw : Vector W64 4) (e : MxEntry) : MxEntry :=
  { e with
    spw := spw
    old := e.old.filterMap fun c => ((spadBack e.spw c.1).bind (spadMap spw)).map fun p => (p, c.2) }

def moveCmd (spw : Vector W64 4) (c : Cmd) : Cmd :=
  { c with
    spw := spw
    own := c.own.filterMap fun x => ((spadBack c.spw x.1).bind (spadMap spw)).map fun p => (p, x.2) }

/-- R72: the regions of a restored task: those kept, or fresh ones with their contents. -/
def regionsBack (r : Rec) (x : Ctx) (s : State) : Option State :=
  if !x.granules.isEmpty then
    some ((s.upSys fun y => { y with spw := x.sys.spw }).upCore fun c => { c with taskGranules := x.granules })
  else
    (allocRuns s (recGran r)).map fun rs =>
      let s1 := giveRegions rs s
      s1.setSpad (s1.core.spad.writeCells (x.region.filterMap fun c => (spadMap s1.core.sys.spw c.1).map fun p => (p, c.2)))

/-- R354, R356: the messages that were spilled are placed again; of more than there are places the task is again the sender. -/
def mailBack (t : TaskInfo) (ms : List Msg) (s : State) : State :=
  let n := mailPlaces s
  let s1 := (ms.take n).foldl (fun st m => placeMail m st) s
  s1.upCore fun c => { c with outMail := c.outMail ++ (ms.drop n).map fun m => ⟨false, t.rank, m, 0⟩ }

/-- R356 step 2: a bank that MXLIVE does not mark is cleared. -/
def liveBank (x : Ctx) (k : Nat) (b : Vector (BitVec 4096) 128) : Vector (BitVec 4096) 128 :=
  if x.sys.mxlive.getLsbD k then b else Vector.replicate 128 0
/-- R356 step 3 and 5: the context x of record r on this core, its regions in place. -/
def resume (r : Rec) (x : Ctx) (s : State) : State :=
  let spw := s.core.sys.spw
  let s1 := s.upCore fun c =>
    { c with
      run := .running, mon := false, mEnd := .none, mDue := 0
      task := some { x.task with record := r, startTick := s.tick }
      regs := { c.regs with s := x.regsS, p := x.regsP, v := x.regsV, t := x.regsT, acc0 := liveBank x 0 x.acc0, acc1 := liveBank x 1 x.acc1, ka := x.ka, kb := x.kb }
      sys := { x.sys with
        tstate := setField x.sys.tstate 6 1 0, spw := spw, mentry := c.sys.mentry, sliceSel := c.sys.sliceSel, quant := c.sys.quant, age := c.sys.age
        preemptDelta := c.sys.preemptDelta, waitpark := c.sys.waitpark, bartimeout := c.sys.bartimeout }
      pcq := x.stream, pipe := x.snap, snap := [], awaits := x.awaits, nextId := (x.awaits.map (·.id + 1)).foldl max c.nextId
      accs := c.accs ++ (x.awaits.filter fun a => a.load && a.value.isNone).flatMap reissue
      ls := x.ls, bank0 := x.bank0, bank1 := x.bank1, bankNow := x.bankNow, ab := x.ab, sem := x.sem
      channels := Vector.ofFn fun k => let h := x.channels.get k
        { h with queue := (c.channels.get k).queue ++ h.queue.map (moveCmd spw) }
      posts := x.posts, posted := x.posted, mbox := x.mbox, spill := [], mxQueue := x.mx.map (moveMx spw)
      bars := x.bars, btc := [], weights := x.weights, asyncs := { x.asyncs with preempt := c.asyncs.preempt }, joinReq := none, posr := none
      waiting := .none, waitCycles := 0, wfeCycles := 0, barCycles := x.barCycles, bankWait := 0, quantumUsed := 0
      bundlesSince := 0, probes := [], needs := [], strong := [], restoring := none, restoreLeft := none }
  let s2 := x.awaits.foldl (fun st a => match a.probe with
    | some (ia, _, _) => if a.value.isNone then sendProbe ia st else st
    | none => st) ((mailBack x.task x.spill s1).upCore fun c => { c with latch := x.latch })
  let back := fun (p : CollPost) => if p.slotVa == r.w7 then { p with slotVa := 0 } else p
  upColls (fun e => { e with
    colls := e.colls.map fun c => { c with post := c.post.map back }
    arms := e.arms.map fun a => { a with post := back a.post } }) s2

/-- R356: the context x of the record that this core has taken, with its regions; or, of another stepping, the task is given up (R357,
R360). -/
def restoreCtx (r : Rec) (x : Ctx) (s : State) : State :=
  if x.step != stepId.setWidth 16 then
    let s1 := setGranules x.granules .clearing (dropCtx r.w7 (s.upCore fun c => { c with restoring := none, restoreLeft := none }))
    seqRaise 11 r.w6 r.w3 (BitVec.ofNat 64 (x.sys.cause.toNat % 256)) (owe x.task x.sys.win 0 s.core.accSeq false none s1)
  else match regionsBack r x s with
    | none => s
    | some s1 => takeOverflow x.task.domain x.task.rank (resume r x (dropCtx r.w7 s1))

/-- A span of a record's slot by IA (log entry 15), and the slot's bytes by offset. -/
def slotIas (r : Rec) (p : Nat × Nat) : List Nat := (List.range p.2).map fun i => (r.w7.toNat + p.1 + i) % 2 ^ 56
def slotByte (s : State) (r : Rec) (i : Nat) : Byte := s.die.mem.read ((r.w7.toNat + i) % 2 ^ 56)
def fixedSpan : Nat × Nat := (0, 0x5000)
/-- What a restore from a slot still reads of its memory: first the fixed part, then what that names. -/
def slotReads (s : State) (r : Rec) : List Nat :=
  let a := slotIas r fixedSpan
  if engBad s a || !(engMissing s 0 0 a).isEmpty || imgInCore (slotByte s r) then a
  else a ++ (imgRest (slotByte s r) (recGran r)).flatMap (slotIas r)
/-- R351, R356: the context that the bytes of an image hold; with the bytes that this core has written, the context it has saved, which
holds besides what an image has no place for (log entry 58). -/
def ctxRead (same : Bool) (rd : Nat → Byte) (r : Rec) (x : Ctx) (s : State) : Ctx :=
  if same then x else { ctxOfImage rd s r with granules := x.granules, region := x.region, seq := x.seq }
/-- R341, R352, R356: the restore of a context from its slot. While INCORE is set the named core is asked, once, to write the image out, and
the slot is read again. An uncorrectable line is a fault of the restore engine. -/
def restoreSlot (r : Rec) (asked : Bool) (s : State) : State :=
  let rd := slotByte s r
  let ias := slotReads s r
  if engBad s ias then stopCore (useUnc 0 ias s) r.w7
  else if !(engMissing s 0 0 ias).isEmpty then s
  else if imgInCore rd then
    let s1 := useUnc 0 ias s
    if asked then s1 else (s1.upCore fun c => { c with restoring := some (r, true) }).send (.imageAsk (imgCore rd) r.w7)
  else
    let x := match ctxFind s r.w7 with
      | some x => ctxRead (imgSame s.die.mem r.w7.toNat (imgBytesOf r.w7 x)) rd r x s
      | none => ctxOfImage rd s r
    restoreCtx r x (useUnc 0 ias s)

/-- R356, R405: the cycles of a restore that are fixed: 10 for the fixed part, and 32 for a live bank or 1 for another. -/
def restoreCycles (x : Option Ctx) : Nat :=
  let n := fun (k : Nat) => if (x.map fun c => c.sys.mxlive.getLsbD k).getD false then 32 else 1
  10 + n 0 + n 1
/-- CONTEXT_RESTORE of the record this core has taken, once what was sent for tasks before is performed (R356): the restore begins, and ends
when its fixed cycles have passed. -/
def evContextRestore (s : State) : State :=
  match s.core.restoring with
  | none => s
  | some (r, asked) =>
    if !s.core.accs.isEmpty || engWriting s || s.core.spillMove.isSome || !s.core.mxQueue.isEmpty || s.core.mxRun.isSome then s
    else match s.core.restoreLeft with
      | none => s.upCore fun c => { c with restoreLeft := some (restoreCycles (ctxFind s r.w7)) }
      | some 0 => match s.core.saveArea with
        | some (v, x) =>
          if v == r.w7 then
            restoreCtx r (ctxRead (imgSame s.core.spad 0x3C0000 (imgBytesOf v x)) (fun i => s.core.spad.read (0x3C0000 + i)) r x s) s
          else restoreSlot r asked s
        | none => restoreSlot r asked s
      | some _ => s

/-! ## Execution -/

/-- POSITION_PREEMPT (R105): the step of this name, on what is in s.arg. -/
def execPositionPreempt (s : State) : Host.Outcome State Fault Refusal := .next (evPositionPreempt s)
/-- POSITION_ROLL_DONE (R105): the step of this name, on what is in s.arg. -/
def execPositionRollDone (s : State) : Host.Outcome State Fault Refusal := .next (evPositionRollDone s)
/-- CONTEXT_SAVE (R353): the step of this name, on what is in s.arg. -/
def execContextSave (s : State) : Host.Outcome State Fault Refusal := .next (evContextSave s)
/-- IMAGE_WRITEOUT (R352): the step of this name, on what is in s.arg. -/
def execImageWriteout (s : State) : Host.Outcome State Fault Refusal := .next (evImageWriteout s)
/-- CONTEXT_RESTORE (R356): the step of this name, on what is in s.arg. -/
def execContextRestore (s : State) : Host.Outcome State Fault Refusal := .next (evContextRestore s)
/-- SPILLED_MESSAGE_MOVE (R354): the step of this name, on what is in s.arg. -/
def execSpilledMessageMove (s : State) : Host.Outcome State Fault Refusal := .next (evSpilledMessageMove s)

end Sys2Proof.Machine
end

