-- ==== Sys2Proof/Machine/TaskEvents.lean ====
section
/-! DEFINITION. Steps of the scoreboard, the ends of tasks, the barriers, the dispatcher, and the monitor's entry
(R152, R264 to R273, R295 to R309, R333 to R348, R358). -/
namespace Sys2Proof.Machine

/-! ## The scoreboard (R98, R152, R184, R185) -/

/-- R184, R185: the record that an entry holds can be taken. -/
def heldFree (s : State) (a : Await) : Bool :=
  match a.held with | some (d, _, w) => recReleased s (wordOwner w % 136) d && !s.core.mon | none => false
/-- R184, R185: a held record that can be taken now goes to the scratchpad, and its status word is known. -/
def heldRun (a : Await) (s : State) : State :=
  match a.held with
  | some (d, va, word) =>
    if heldFree s a then
      upAwaits (fun l => l.map fun b => if b.id == a.id then { b with value := some (word.setWidth 1024), held := none } else b)
        (engBarrier s.core.accSeq (s.setSpad (spadPut s.core.spad (spadAddr s) va (recBytes d.record))))
    else s
  | none => s

/-- R152, R273: a known value reaches its register. -/
def landAwait (a : Await) (v : W1024) (s : State) : State :=
  let s1 := s.upCore fun c => { c with awaits := c.awaits.filter (fun b => !(b.id == a.id)), latch := true }
  if a.vec then writeV s1 a.reg (blend (readV s1 a.reg) v a.mask) else writeS s1 a.reg (v.setWidth 64)

/-- A scoreboard record can make a step. -/
def awaitReady (s : State) (a : Await) : Bool :=
  match a.value with
  | some _ => a.mon == s.core.mon
  | none => (grotMine s a && (s.core.awaits.filter (grotMine s)).head? == some a) || heldFree s a

/-- R354, R356: a value that comes from elsewhere: a status word of the other die's controller, or what a core that held the task before
was waiting for. -/
def fromOutside (s : State) (a : Await) : Bool :=
  a.value.isNone && !a.load && a.probe.isNone && a.held.isNone && !grotMine s a
    && !s.core.accs.any fun g => match g.op with | .atomic _ _ _ (some i) => i == a.id | _ => false

/-- SCOREBOARD_ARRIVAL: the record with the number k: its value lands, its Grotto command is performed in issue order, or the record it
was held for comes. With b and n = 0 a value arrives from outside: k, x. With b and n > 0 a Grotto command of another core or of the other
die is performed: n (opcode), k (its number there), x (word), y (extension). -/
def evScoreboardArrival (s : State) : State :=
  if s.arg.b then
    if s.arg.n = 0 then
      upAwaits (fun l => l.map fun a => if a.id == s.arg.k && fromOutside s a then
        { a with value := some (s.arg.x.setWidth 1024), grot := none } else a) s
    else askedCommand s.arg.k (BitVec.ofNat 7 s.arg.n) s.arg.x (s.arg.y.setWidth 32) s
  else match s.core.awaits.find? fun a => a.id == s.arg.k with
    | none => s
    | some a =>
      if !awaitReady s a then s
      else match a.value with
        | some v => landAwait a v s
        | none => if a.grot.isSome then grotRun a s else heldRun a s

/-! ## Ends (R264, R267 to R270, R186) -/

/-- R92, R93: no started command of the task that writes global memory is left. -/
def leftCopies (s : State) (l : Leave) : Bool :=
  !(s.core.channels.toList.any fun h => h.queue.any fun c => !c.live && c.leave == l.seq && (c.writesGlobal || c.isChain))
    && !engWriting s

def setLeave (l l' : Leave) (s : State) : State :=
  s.upCore fun c => { c with leaving := c.leaving.map fun x => if x == l then l' else x }
/-- What a stopped task owed is done; a Forward that its own write of a line has held up goes on (R58). -/
def dropLeave (l : Leave) (s : State) : State := releaseFwds (s.upCore fun c => { c with leaving := c.leaving.erase l })

/-- R186, R269: no continuation: a JOIN's task is given up, and the sequencer is told. -/
def joinFail (l : Leave) (code : Nat) (s : State) : State :=
  let s1 := dropLeave l s
  let s2 := match l.record with
    | some r => memberEnded l.task (match ctxFind s1 r.w7 with
        | some x => setGranules x.granules .clearing (dropCtx r.w7 s1)
        | none => s1)
    | none => s1
  seqRaise 11 l.task.record.w6 l.task.record.w3 (BitVec.ofNat 64 code) s2

/-- R186, R269: the decrement, with the record of a JOIN written first, and the continuation queued at zero. -/
def joinRun (l : Leave) (ia : Nat) (s : State) : State :=
  let ls := joinLines l ia
  if (linesOf ((joinIas ia).take 8)).any (lineBad s) then joinFail l 9 s
  else if l.record.isSome && ls.any (fun x => lineBad s x.1) then joinFail l 9 s
  else if !ls.all fun x => if x.2 then lineWritable s x.1 else lineReadable s x.1 || lineBad s x.1 then s
  else
    let old := s.die.mem.readNum ia 8
    let new := (old + 2 ^ 64 - 1) % 2 ^ 64
    let put := fun (a : Nat) (bs : List Byte) (st : State) => storeCells (bs.zipIdx.map fun b => ((a + b.2) % 2 ^ 56, b.1.toNat)) st
    let s1 := match l.record with
      | some r => put (ia + 8) (recBytes r) s
      | none => s
    let s2 := put ia (toBytes 8 new) s1
    if new ≠ 0 then dropLeave l s2
    else match l.record with
      | some r => fifoEnter false r (dropLeave l s2)
      | none =>
        if ls.any fun x => lineBad s x.1 then joinFail l 9 s2
        else
          let w := fun k => BitVec.ofNat 64 (s2.die.mem.readNum (ia + 8 + 8 * k) 8)
          fifoEnter false (recOfWords w) (dropLeave l s2)

/-- The next thing a task that has stopped owes. -/
def leaveStep (l : Leave) (s : State) : State :=
  if !leftQuiet s l then s
  else if l.member then
    (if s.core.outMail.any fun o => decide (o.seq ≤ l.seq) then s else memberEnded l.task (setLeave l { l with member := false } s))
  else if !l.counter then (match l.record with | some r => fifoEnter false r (dropLeave l s) | none => dropLeave l s)
  else if !leftCopies s l then s
  else match counterCheck s l with
    | .fail k => joinFail l k s
    | .wait => s
    | .ask ia => (setLeave l { l with probes := l.probes ++ [(ia, none)] } s).send (.probe (iaAgent ia) ia)
    | .go ia => joinRun l ia s
/-- The first of them that can go on. -/
def leaveNext (s : State) : State :=
  match s.core.leaving.find? fun l => leaveStep l s != s with
  | some l => leaveStep l s
  | none => s

/-- R268: the level a YIELD asks for. -/
def yieldPrio (s : State) (t : TaskInfo) : Nat :=
  let a := s.core.sys.tstate.extractLsb' 8 8
  if a.getLsbD 7 then min (recPrio t.record) (a.toNat % 128) else recPrio t.record

/-- R268: YIELD takes effect: its record is queued once the task's accesses are performed, as SPAWN's is taken (R184). -/
def yieldTask (s0 : State) : State :=
  match s0.core.task with
  | none => s0
  | some t =>
    let t' := { t with record := setPrio t.record (yieldPrio s0 t) }
    let s1 := (setPend s0 0 0).upCore fun c => { c with task := some t' }
    let r := saveContext s1
    owe t' s0.core.sys.win 0 s0.core.accSeq false (some (savedRec t' r.1)) r.2

/-- R272: ERET. A core without a task has none to return to and becomes idle (log entry 16). -/
def eretTask (s : State) : State :=
  if s.core.task.isSome then returnToTask s
  else
    let s1 := landDue s.core.pipe (s.upCore fun c => { c with pipe := [] })
    s1.upCore fun c => { c with run := .idle, mon := false, mEnd := .none, mDue := 0, snap := [] }

/-- A peer's gang member has ended: rank and subdomains (level, SID). -/
def peerMemberEnded (domain rank : BitVec 16) (subs : List (BitVec 3 × BitVec 16)) (s : State) : State :=
  let s1 := upGang domain (fun g =>
    { g with ended := rank :: without rank g.ended, endedSubs := subs.map (fun x => (rank, x.1, x.2)) ++ g.endedSubs }) s
  match gangOf s1 domain with
  | none => s1
  | some g => if gangSize g ≤ g.ended.length then upGang domain (fun g => { g with overflow := [], placed := false }) s1 else s1

/-- PENDING_END_EFFECT: the end that is due takes effect (R267 to R270, R272), or a task that has stopped makes good what it owes;
with b a task of another core has ended (n: core in die; k = 1: a gang member, of domain x and rank m, its subdomains nats as
level × 65,536 + SID), and k = 2 the monitor of this core gives up the task (R360). -/
def evPendingEndEffect (s : State) : State :=
  if s.arg.b then
    if s.arg.k = 2 then (if s.core.mon then giveUpTask (s.core.sys.cause.toNat % 256) (!s.die.seq.stopped) s else s)
    else
      let s1 := peerFree s.arg.n s
      if s.arg.k = 1 then
        peerMemberEnded (s.arg.x.setWidth 16) (BitVec.ofNat 16 s.arg.m)
          (s.arg.nats.map fun x => (BitVec.ofNat 3 (x / 65536), BitVec.ofNat 16 x)) s1
      else s1
  else if boundary s != some .pendingEndEffect then leaveNext s
  else if s.core.mon then
    match s.core.mEnd with
    | .halt => s.upCore fun c => { c with run := .stopped, mEnd := .none, mDue := 0 }
    | .yield => if s.core.task.isSome then yieldTask (atTask s) else eretTask s
    | .endt => if s.core.task.isSome then endTask (setPend (atTask s) 0 0) else eretTask s
    | _ => eretTask s
  else if pendEnd s = 1 then yieldTask s
  else endTask (setPend s 0 0)

/-- WFE_TIMEOUT: a WFE that has waited its bound ends (R273). -/
def evWfeTimeout (s : State) : State :=
  if s.core.waiting == .wfe && decide (65536 ≤ s.core.wfeCycles) then s.upCore fun c => { c with latch := true } else s

/-- TIMER_EXPIRY: TMR steps from 1 to 0 (R340). -/
def evTimerExpiry (s : State) : State :=
  let tmr := (s.core.sys.tstate.extractLsb' 32 32).toNat
  if s.core.run == .running && !s.core.mon && tmr == 1 then
    raiseAsync (fun a => { a with timer := true }) (s.upSys fun y => { y with tstate := setField y.tstate 32 32 0 })
  else s

/-! ## Barriers (R264, R266) -/

/-- R264, R268: what this task's arrival waits for has been performed. -/
def arrivalReady (s : State) (l : BitVec 3) : Bool :=
  let b := barOf s l
  b.asked && !b.arrived && !(s.core.accs.any fun g => decide (g.seq ≤ b.seq)) && !engWritesOut s (b.seq + 1)
    && !(s.core.outMail.any fun o => decide (o.seq ≤ b.seq))

def ownArrival (l : BitVec 3) (s : State) : State :=
  match s.core.task with
  | none => s
  | some t =>
    if !arrivalReady s l then s
    else
      let s1 := setBar l { barOf s l with arrived := true, asked := false, complete := aloneAt t l } s
      if aloneAt t l then s1
      else upDisp (fun d => { d with arrivals := putArrival ⟨t.domain, l, sidAt t l, countAt t l, [t.rank]⟩ d.arrivals }) s1

/-- BARRIER_ARRIVAL of this core's task at level k; with b of another member: n (domain), k (level), m (SID), x (COUNT), y
(rank). -/
def evBarrierArrival (s : State) : State :=
  if s.arg.b then
    let a : Arrivals := ⟨BitVec.ofNat 16 s.arg.n, BitVec.ofNat 3 s.arg.k, BitVec.ofNat 16 s.arg.m, s.arg.x.toNat, [s.arg.y.setWidth 16]⟩
    upDisp (fun d => { d with arrivals := putArrival a d.arrivals }) s
  else ownArrival (BitVec.ofNat 3 s.arg.k) s

/-- R264: members that have ended count as arrived. -/
def endedAt (s : State) (a : Arrivals) : List (BitVec 16) :=
  match gangOf s a.domain with
  | none => []
  | some g =>
    if a.level.toNat ≤ 4 then g.ended
    else (g.endedSubs.filter fun e => e.2.1 == a.level && e.2.2 == a.sid).map (·.1)
def phaseDone (s : State) (a : Arrivals) : Bool :=
  decide (a.count ≤ a.members.length + ((endedAt s a).filter fun m => !a.members.contains m).eraseDups.length)

/-- R303: a parked member without a context whose phase is complete. -/
def parkOver (a : Arrivals) (p : Parked) : Parked :=
  if p.kind == .bar && recGang p.record && recDomain p.record == a.domain && p.arg.setWidth 3 == a.level && p.sid == a.sid
    && a.members.contains (recRank p.record) then { p with phaseEnd := true } else p
/-- A member of a completed phase. -/
def inPhase (a : Arrivals) (t : TaskInfo) : Bool :=
  t.gang && t.domain == a.domain && a.members.contains t.rank && (decide (a.level.toNat ≤ 4) || sidAt t a.level == a.sid)
def phaseOver (l : BitVec 3) (v : Vector BarLevel 8) : Vector BarLevel 8 :=
  let b := v.get l.toFin
  v.set l.toFin { b with complete := b.complete || b.arrived }

/-- BARRIER_PHASE_COMPLETE: COUNT members have arrived. Reads: n (place among the barriers with arrivals). -/
def evBarrierPhaseComplete (s : State) : State :=
  match s.die.disp.arrivals[s.arg.n]? with
  | none => s
  | some a =>
    if !phaseDone s a then s
    else
      let vas := ((s.core.saveArea.toList ++ s.die.disp.slots).filter fun x => inPhase a x.2.task).map (·.1)
      let s1 := upDisp (fun d => { d with
        arrivals := d.arrivals.erase a, parked := d.parked.map (parkOver a)
        restarts := d.restarts.map fun q => { q with park := q.park.map (parkOver a) } }) s
      let s2 := vas.foldl (fun st va => upImage va (fun x => { x with bars := phaseOver a.level x.bars }) st) s1
      match s.core.task with
      | some t => if inPhase a t then s2.upCore fun c => { c with bars := phaseOver a.level c.bars } else s2
      | none => s2

/-- R266: the bound on barrier waits, where it is on and the gang is not held. -/
def barLimit (s : State) (domain : BitVec 16) (gang : Bool) : Option Nat :=
  let n := s.core.sys.bartimeout.toNat
  if n = 0 || (gang && heldGang s domain) then none else some n
def barLate (s : State) : Bool :=
  match s.core.task with
  | none => false
  | some t => s.core.waiting == .bar && match barLimit s t.domain t.gang with
    | some n => decide (n < s.core.barCycles)
    | none => false
/-- R266: a parked member has waited too long. -/
def parkLate (s : State) (p : Parked) : Bool :=
  p.kind == .bar && !wakeable s p && parkCounts s p && match barLimit s (recDomain p.record) (recGang p.record), ctxFind s p.record.w7 with
    | some n, some x => decide (n < x.barCycles + p.waited)
    | _, _ => false
/-- BARRIER_TIMEOUT: of the running member, or of a parked one, which is woken to take it (log entry 17). -/
def evBarrierTimeout (s : State) : State :=
  if barLate s then
    raiseAsync (fun a => { a with barTimeout := some (s.core.waitArg.setWidth 3) }) (s.upCore fun c => { c with barCycles := 0 })
  else match s.die.disp.parked.find? (parkLate s) with
    | none => s
    | some p =>
      let s1 := upImage p.record.w7 (fun x =>
        { x with barCycles := 0, asyncs := { x.asyncs with barTimeout := some (p.arg.setWidth 3) } }) s
      fifoEnterWith p.win true p.record (upDisp (fun d => { d with parked := d.parked.erase p }) s1)

/-! ## The dispatcher (R295 to R309) -/

/-- R305: a gang entry as it is written. -/
def newGang (w0 w1 : W64) : Gang :=
  ⟨w0 &&& 0xFFFFFFFFE000FFFF, w1, [], none, [], false, [], [], [], 0, none⟩
/-- R305: of the 1,024 entries of a die an entry takes that of its DOMAIN, else a free one, else that of a gang whose members have all ended
(DESIGN CHOICE, log entry 115); a full table takes none. -/
def putGang (w0 w1 : W64) (s : State) : State :=
  let d := w0.extractLsb' 32 16
  upDisp (fun k =>
    let rest := k.gangs.filter fun g => g.w0.extractLsb' 32 16 != d
    if rest.length < 1024 then { k with gangs := rest ++ [newGang w0 w1] }
    else match rest.find? fun g => decide (gangSize g ≤ g.ended.length) with
      | some g => { k with gangs := rest.erase g ++ [newGang w0 w1] }
      | none => k) s

/-- R293: the window set registered with a record: 24 words. -/
def windowsOf (ws : List Nat) : Option (Vector W64 24) :=
  if ws.length ≠ 24 then none else some (Vector.ofFn fun i => BitVec.ofNat 64 (ws.getD i.val 0))
/-- FIFO_ARRIVAL: a record is queued at the tail of its level, or at the head (k = 1: of another core's pre-emption for priority, or
woken), or by a rotation of another core (k = 2). Reads: record, k, nats (its window set, 24 words, where one is registered with it). With b
a member of domain n, rank m and PRIO x is queued at another die, or with k = 1 a sequencer writes the gang entry x, y (R305). -/
def evFifoArrival (s : State) : State :=
  if s.arg.b then
    if s.arg.k = 1 then putGang s.arg.x s.arg.y s
    else
      let r := BitVec.ofNat 16 s.arg.m
      upGang (BitVec.ofNat 16 s.arg.n) (fun g => { g with
        queued := r :: without r g.queued, remotePrio := max g.remotePrio (s.arg.x.toNat % 128) }) s
  else
    let s1 := fifoEnterWith (windowsOf s.arg.nats) (s.arg.k == 1) s.arg.record s
    if s.arg.k = 2 then spend s.arg.record s1 else s1

def evReturnStoreDrain (s : State) : State := returnDrain s
/-- CORE_TAKES_RECORD. Reads: b (another core of the die), n (its number). -/
def evCoreTakesRecord (s : State) : State := if s.arg.b then peerTakes s.arg.n s else coreTakes s
def evAffinityExpiry (s : State) : State := expireAffinity s
/-- AGING_STEP; with b the task of core n of the die has lowered its priority to m (R274). -/
def evAgingStep (s : State) : State :=
  if s.arg.b then upPeer s.arg.n (fun p => { p with prio := BitVec.ofNat 7 (min p.prio.toNat s.arg.m) }) s else ageAll s
/-- QUANTUM_EXPIRY: the first expiry that is due; with b the task of core n of the die has issued its 256 bundles (k = 1), or a gang of
this die is pre-empted with a member on another die (k = 2): n (domain), m (1: to the head of their levels) (R301, R307). -/
def evQuantumExpiry (s : State) : State :=
  if s.arg.b then
    if s.arg.k = 2 then preemptMates (BitVec.ofNat 16 s.arg.n) 136 (s.arg.m == 1) s
    else upPeer s.arg.n (fun p => { p with ready := true }) s
  else quantumExpire s
def evParking (s : State) : State := park s
def evParkWake (s : State) : State := parkWake s
/-- GANG_PLACEMENT. Reads: n (domain), nats (ranks that other dies hold cores for). -/
def evGangPlacement (s : State) : State := gangPlace (BitVec.ofNat 16 s.arg.n) s.arg.nats s
/-- GANG_START. Reads: n (domain). -/
def evGangStart (s : State) : State := gangStart (BitVec.ofNat 16 s.arg.n) s

/-! ## The monitor (R333 to R348, R358) -/

/-- R333: the stopped channels, a bit each. -/
def stoppedMask (s : State) : Nat :=
  (List.range 4).foldl (fun acc k =>
    if (s.core.channels.toList.getD k ⟨[], none, 0, []⟩).stop.isSome then acc + 2 ^ k else acc) 0

/-- R335: the asynchronous cause to take, and what is left pending. -/
def asyncTrap (s : State) : Option (TrapReq × Asyncs) :=
  let a := s.core.asyncs
  let mk := fun (c : Cause) (info : Nat) => (⟨c, BitVec.ofNat 16 info, true, 0, s.core.pcq.q0, 0, false⟩ : TrapReq)
  match a.memErr, a.debugHalt, a.copyFault, a.grottoFault, a.operator, a.barTimeout with
  | e :: rest, _, _, _, _, _ => some (⟨.memError, e.info, true, e.fmask, e.va, e.iaddr, false⟩, { a with memErr := rest })
  | [], some i, _, _, _, _ => some (mk .debugHalt i.toNat, { a with debugHalt := none })
  | [], none, true, _, _, _ => some (mk .copyFault (stoppedMask s), { a with copyFault := false })
  | [], none, false, some k, _, _ => some (mk .grottoFault (k.toNat * 256 + stoppedMask s), { a with grottoFault := none })
  | [], none, false, none, some c, _ => some (mk .operator c.toNat, { a with operator := none })
  | [], none, false, none, none, some l => some (mk .barrierTimeout l.toNat, { a with barTimeout := none })
  | [], none, false, none, none, none =>
    if a.mailbox then some (mk .mailbox 0, { a with mailbox := false })
    else if a.timer then some (mk .timer 0, { a with timer := false }) else none

/-- R358: a debug halt of a gang member holds its gang. -/
def holdGang (c : Cause) (info : BitVec 16) (s : State) : State :=
  match s.core.task with
  | some t => if c == .debugHalt && info != 3 && t.gang then setHeld t.domain true s else s
  | none => s

/-- TRAP_ENTRY: the boundary takes an asynchronous cause (R335, R336). -/
def evTrapEntry (s : State) : State :=
  if boundary s != some .trapEntry then s
  else match asyncTrap s with
    | none => s
    | some (t, rest) => holdGang t.cause t.info (takeTrap t ((formed s).upCore fun c => { c with asyncs := rest }))

/-- CHQ_POP (R348). Reads: n (channel). -/
def evChqPop (s : State) : State := setChannel s (BitVec.ofNat 2 s.arg.n) (chqPopped (channelOf s (BitVec.ofNat 2 s.arg.n)))
/-- CHQ_APPEND: three words (R348). Reads: n, record (w0 to w2); the words have V set. -/
def evChqAppend (s : State) : State :=
  let k := BitVec.ofNat 2 s.arg.n
  let put := fun (w : W64) (st : State) => setChannel st k (chqPush st (channelOf st k) w)
  if s.arg.record.w0.getLsbD 56 && (channelOf s k).partialWords.isEmpty then
    put s.arg.record.w2 (put s.arg.record.w1 (put s.arg.record.w0 s))
  else s
/-- CHQ_RESUME (R348). Reads: n. -/
def evChqResume (s : State) : State :=
  let k := BitVec.ofNat 2 s.arg.n
  if (channelOf s k).partialWords.isEmpty then setChannel s k (chqPush s (channelOf s k) 0) else s
/-- SNAPN_DISCARD (R345). -/
def evSnapnDiscard (s : State) : State := s.upCore fun c => { c with snap := keepPieces 0 c.snap }
/-- MENTRY_WRITE (R339): only while the core is held in reset. Reads: x. -/
def evMentryWrite (s : State) : State :=
  if s.core.run == .reset then s.upSys fun y => { y with mentry := s.arg.x &&& ~~~3 } else s
/-- DEBUG_HALT_REQUEST (R333, R358): of this core by the control cores; with b of another member of its gang. -/
def evDebugHaltRequest (s : State) : State :=
  match s.core.task with
  | none => s
  | some t =>
    let s1 := if t.gang then setHeld t.domain true s else s
    raiseAsync (fun a => { a with debugHalt := match a.debugHalt with
      | some i => some i
      | none => some (if s.arg.b then 3 else 1) }) s1
/-- GANG_HELD_CLEAR. Reads: n (domain). -/
def evGangHeldClear (s : State) : State := setHeld (BitVec.ofNat 16 s.arg.n) false s

/-! ## Execution -/

/-- SCOREBOARD_ARRIVAL (R152): the step of this name, on what is in s.arg. -/
def execScoreboardArrival (s : State) : Host.Outcome State Fault Refusal := .next (evScoreboardArrival s)
/-- PENDING_END_EFFECT (R267): the step of this name, on what is in s.arg. -/
def execPendingEndEffect (s : State) : Host.Outcome State Fault Refusal := .next (evPendingEndEffect s)
/-- WFE_TIMEOUT (R273): the step of this name, on what is in s.arg. -/
def execWfeTimeout (s : State) : Host.Outcome State Fault Refusal := .next (evWfeTimeout s)
/-- TIMER_EXPIRY (R340): the step of this name, on what is in s.arg. -/
def execTimerExpiry (s : State) : Host.Outcome State Fault Refusal := .next (evTimerExpiry s)
/-- BARRIER_ARRIVAL (R264): the step of this name, on what is in s.arg. -/
def execBarrierArrival (s : State) : Host.Outcome State Fault Refusal := .next (evBarrierArrival s)
/-- BARRIER_PHASE_COMPLETE (R264): the step of this name, on what is in s.arg. -/
def execBarrierPhaseComplete (s : State) : Host.Outcome State Fault Refusal := .next (evBarrierPhaseComplete s)
/-- BARRIER_TIMEOUT (R266): the step of this name, on what is in s.arg. -/
def execBarrierTimeout (s : State) : Host.Outcome State Fault Refusal := .next (evBarrierTimeout s)
/-- FIFO_ARRIVAL (R295): the step of this name, on what is in s.arg. -/
def execFifoArrival (s : State) : Host.Outcome State Fault Refusal := .next (evFifoArrival s)
/-- RETURN_STORE_DRAIN (R295): the step of this name, on what is in s.arg. -/
def execReturnStoreDrain (s : State) : Host.Outcome State Fault Refusal := .next (evReturnStoreDrain s)
/-- CORE_TAKES_RECORD (R296): the step of this name, on what is in s.arg. -/
def execCoreTakesRecord (s : State) : Host.Outcome State Fault Refusal := .next (evCoreTakesRecord s)
/-- AFFINITY_EXPIRY (R297): the step of this name, on what is in s.arg. -/
def execAffinityExpiry (s : State) : Host.Outcome State Fault Refusal := .next (evAffinityExpiry s)
/-- AGING_STEP (R300): the step of this name, on what is in s.arg. -/
def execAgingStep (s : State) : Host.Outcome State Fault Refusal := .next (evAgingStep s)
/-- QUANTUM_EXPIRY (R301): the step of this name, on what is in s.arg. -/
def execQuantumExpiry (s : State) : Host.Outcome State Fault Refusal := .next (evQuantumExpiry s)
/-- PARKING (R303): the step of this name, on what is in s.arg. -/
def execParking (s : State) : Host.Outcome State Fault Refusal := .next (evParking s)
/-- PARK_WAKE (R303): the step of this name, on what is in s.arg. -/
def execParkWake (s : State) : Host.Outcome State Fault Refusal := .next (evParkWake s)
/-- GANG_PLACEMENT (R306): the step of this name, on what is in s.arg. -/
def execGangPlacement (s : State) : Host.Outcome State Fault Refusal := .next (evGangPlacement s)
/-- GANG_START (R306): the step of this name, on what is in s.arg. -/
def execGangStart (s : State) : Host.Outcome State Fault Refusal := .next (evGangStart s)
/-- TRAP_ENTRY (R336): the step of this name, on what is in s.arg. -/
def execTrapEntry (s : State) : Host.Outcome State Fault Refusal := .next (evTrapEntry s)
/-- CHQ_POP (R348): the step of this name, on what is in s.arg. -/
def execChqPop (s : State) : Host.Outcome State Fault Refusal := .next (evChqPop s)
/-- CHQ_APPEND (R348): the step of this name, on what is in s.arg. -/
def execChqAppend (s : State) : Host.Outcome State Fault Refusal := .next (evChqAppend s)
/-- CHQ_RESUME (R348): the step of this name, on what is in s.arg. -/
def execChqResume (s : State) : Host.Outcome State Fault Refusal := .next (evChqResume s)
/-- SNAPN_DISCARD (R345): the step of this name, on what is in s.arg. -/
def execSnapnDiscard (s : State) : Host.Outcome State Fault Refusal := .next (evSnapnDiscard s)
/-- MENTRY_WRITE (R339): the step of this name, on what is in s.arg. -/
def execMentryWrite (s : State) : Host.Outcome State Fault Refusal := .next (evMentryWrite s)
/-- DEBUG_HALT_REQUEST (R358): the step of this name, on what is in s.arg. -/
def execDebugHaltRequest (s : State) : Host.Outcome State Fault Refusal := .next (evDebugHaltRequest s)
/-- GANG_HELD_CLEAR (R358): the step of this name, on what is in s.arg. -/
def execGangHeldClear (s : State) : Host.Outcome State Fault Refusal := .next (evGangHeldClear s)

end Sys2Proof.Machine
end

