-- ==== Sys2Proof/Machine/SeqBase.lean ====
section
/-! DEFINITION. What the operator sequencer works with: bytecode words, tensors and their elements, the scoreboard, the
workspace and the reports (R311 to R323, R330). -/
namespace Sys2Proof.Machine

def upSeq (f : Sequencer → Sequencer) (s : State) : State := s.upDie fun d => { d with seq := f d.seq }
def upRun (f : Launch → Launch) (s : State) : State := upSeq (fun q => { q with run := q.run.map f }) s

/-! ## Bytecode words (R317 to R319) -/

/-- A bytecode instruction as decoded: its opcode, its length in words, its fields. -/
structure BcIns where
  op : Nat
  words : Nat
  bc : BcWord

/-- R318, R319: the length of a defined opcode; a customer opcode has its recipe's (R317). -/
def opWords : Nat → Option Nat
  | 0x00 | 0x01 | 0x04 | 0x05 | 0x07 | 0x0B | 0x0E | 0x25 | 0x35 => some 1
  | 0x02 | 0x03 | 0x06 | 0x08 | 0x09 | 0x0A | 0x0C | 0x0D => some 2
  | 0x20 | 0x21 | 0x23 | 0x24 | 0x27 | 0x28 | 0x29 | 0x2A | 0x2B | 0x30 | 0x31 | 0x33 | 0x34 => some 2
  | 0x22 | 0x26 | 0x2C | 0x2E | 0x2F | 0x32 => some 3
  | 0x2D | 0x36 => some 4
  | _ => none

/-- Fields of a recipe word (R325). -/
def rwOp (w : W64) : Nat := (w.extractLsb' 60 4).toNat
def rwQ (w : W64) : Nat := (w.extractLsb' 56 4).toNat
def rwKind (w : W64) : Nat := (w.extractLsb' 54 2).toNat
def rwRole (w : W64) : Nat := (w.extractLsb' 52 2).toNat
def rwAttr (w : W64) : Nat := (w.extractLsb' 48 4).toNat

/-- R325, R326: the bits of each recipe word that the table lists. -/
def rwMask (w : W64) : W64 :=
  match rwOp w with
  | 0 => 0xFFFEFFFFFFFFFFFF
  | 1 => 0xFF0000000000FFFF
  | 2 => 0xFFFF0000FFFFFFFF
  | 3 => 0xFFFFFF000000FFFF
  | 4 => 0xF0CF000000000000
  | 5 => 0xF00F000000000000
  | 6 => 0xFF0000FFFFFFFFFF
  | 7 => 0xFF00000000000000
  | 8 => 0xFFFFFFFFFF000000
  | 9 => 0xF000000000000000
  | _ => 0
/-- R326: the loops of a recipe match, and nest 4 deep at the most; its last ENDR ends it. -/
def loopsOk : Nat → List W64 → Bool
  | d, [] => d == 0
  | d, w :: ws =>
    if rwOp w = 0 then decide (d < 4) && loopsOk (d + 1) ws
    else if rwOp w = 9 then (if d = 0 then ws.isEmpty else loopsOk (d - 1) ws)
    else if ws.isEmpty then false else loopsOk d ws
/-- R325, R326: a word whose fields hold no value that the table does not list. -/
def rwValid (w : W64) : Bool :=
  decide (rwOp w ≤ 9) && w &&& ~~~rwMask w == 0
    && (match rwOp w with
      | 0 => decide (rwQ w < 8) && decide (rwKind w < 2) && rwRole w != 3 && (rwKind w == 0 || decide (1 ≤ (w.extractLsb' 32 16).toNat))
      | 4 => decide (rwKind w < 2)
      | _ => true)
/-- The word names an attribute. -/
def rwNames (w : W64) : Bool := (rwOp w == 2 && rwKind w == 1) || (rwOp w == 4 && rwKind w == 0) || rwOp w == 5
/-- R326: the attribute index is of the instruction's words: it has at most 14 attributes, counted from 1. -/
def rwAttrOk (w : W64) : Bool := !rwNames w || (decide (1 ≤ rwAttr w) && decide (rwAttr w < 15))
def recipeOk (r : List W64) : Bool := r.all rwValid && loopsOk 0 r

/-- R317: the attribute words a recipe reads. -/
def recipeAttrs (r : List W64) : Nat :=
  (r.map fun w =>
    if rwOp w = 2 ∧ rwKind w = 1 then rwAttr w
    else if rwOp w = 4 ∧ rwKind w = 0 then rwAttr w
    else if rwOp w = 5 then rwAttr w else 0).foldl max 0

def recipeOf (recipes : List (BitVec 8 × List W64)) (op : Nat) : Option (List W64) :=
  (recipes.find? fun r => r.1.toNat == op).map (·.2)
def wordsOf (recipes : List (BitVec 8 × List W64)) (op : Nat) : Option Nat :=
  match opWords op with
  | some n => some n
  | none => (recipeOf recipes op).map fun r => 1 + recipeAttrs r

/-- n bytes of an image or of code from an offset, little-endian. -/
def leAt (b : List Byte) (off n : Nat) : Nat := ofBytes ((b.drop off).take n)
def wordAtOff (b : List Byte) (off : Nat) : W64 := BitVec.ofNat 64 (leAt b off 8)

/-- R317: the instruction at a bytecode address; none for an undefined opcode, a wrong length, or an address outside. -/
def bcAt (recipes : List (BitVec 8 × List W64)) (code : List Byte) (pc : Nat) : Option BcIns :=
  let w := wordAtOff code pc
  let op := (w.extractLsb' 0 8).toNat
  let n := (w.extractLsb' 8 4).toNat
  match wordsOf recipes op with
  | none => none
  | some k =>
    if n ≠ k ∨ w.getLsbD 15 ∨ code.length < pc + 8 * n then none
    else some ⟨op, n, ⟨w.extractLsb' 48 16, w.extractLsb' 32 16, w.extractLsb' 16 16, w.getLsbD 14, w.getLsbD 13, w.getLsbD 12,
      (List.range (n - 1)).map fun i => wordAtOff code (pc + 8 + 8 * i)⟩⟩

/-- Attribute n, counted from 1; zero where there is none. -/
def attrN (b : BcWord) (n : Nat) : W64 := b.attrs.getD (n - 1) 0
def attrBits (b : BcWord) (n lo len : Nat) : Nat := ((attrN b n).extractLsb' lo len).toNat

/-! ## Element formats (R79, R114) -/

/-- Bits of an element by its FMT code. -/
def fmtBits (f : Nat) : Nat := [8, 16, 32, 16, 16, 32, 8, 8, 4, 4, 64, 8].getD f 8
/-- The float format of an FMT code. -/
def fmtFloat : Nat → Option Fmt
  | 3 => some bf16
  | 4 => some fp16
  | 5 => some fp32
  | 6 => some e4m3
  | 7 => some e5m2
  | 8 => some e2m1
  | _ => none
/-- R106, R313: bits of an element of a tensor in its storage: an entry of a block table has 64. -/
def View.bits (v : View) : Nat := if v.layout = 2 then 64 else fmtBits v.fmt
def fmtInt (f : Nat) : Bool := [0, 1, 2, 9, 10].contains f
/-- The matrix format of an FMT code (R125). -/
def fmtMx : Nat → Option Nat
  | 3 => some 0
  | 4 => some 1
  | 6 => some 2
  | 7 => some 3
  | 8 => some 4
  | 0 => some 5
  | 9 => some 6
  | _ => none

/-! ## Tensors as this agent holds them (R313, R327) -/

def product (ds : List Nat) : Nat := ds.foldl (· * ·) 1
/-- The place of coordinates in a packed array, dimension 0 contiguous, and back. -/
def linear : List Nat → List Nat → Nat
  | d :: ds, c :: cs => c + d * linear ds cs
  | _, _ => 0
def unlinear : List Nat → Nat → List Nat
  | [], _ => []
  | d :: ds, i => (i % Nat.max d 1) :: unlinear ds (i / Nat.max d 1)

/-- R313: a dimension's size now. -/
def dimNow (sym : Vector W64 256) (d : BitVec 32) : Nat :=
  if d.getLsbD 31 then (sym.get (d.extractLsb' 0 8).toFin).toNat else d.toNat

def viewOf (l : Launch) (rank : Nat) (t : Tensor) : Option View :=
  t.storage.map fun st =>
    let dims := (t.dims.take t.rank).map (dimNow l.symbols)
    let a := if t.mode = 1 then t.axis else 0
    let size := dims.getD a 1
    let per := if t.mode = 1 then size / Nat.max l.prog.agents 1 else size
    let lo := if t.mode = 1 then rank * per else 0
    let all := t.whole || t.mode != 1
    { va := st.1, bytes := st.2, fmt := t.fmt, layout := t.layout, dims := dims, axis := a
      first := if all then 0 else lo, len := if all then size else per
      blkAxis := t.blkAxis, blocks := t.blocks, lo := lo, count := per, pageRows := t.pageRows }

/-- Sizes of what the storage holds, and of what is this agent's. -/
def View.held (v : View) : List Nat := v.dims.set v.axis v.len
def View.own (v : View) : List Nat := v.dims.set v.axis v.count
/-- The coordinates of this agent's elements. -/
def View.coords (v : View) : List (List Nat) :=
  (List.range (product v.own)).map fun i =>
    let c := unlinear v.own i
    c.set v.axis (c.getD v.axis 0 + v.lo)
/-- The place of an element in the storage. -/
def View.index (v : View) (c : List Nat) : Nat :=
  let c' := c.set v.axis (c.getD v.axis 0 - v.first)
  if v.blocks ≤ 1 then linear v.held c'
  else
    let per := v.held.getD v.blkAxis 1 / v.blocks
    let x := c'.getD v.blkAxis 0
    let ds := v.held.set v.blkAxis per
    x / Nat.max per 1 * product ds + linear ds (c'.set v.blkAxis (x % Nat.max per 1))

/-- Images across and down in a B tensor, and the bytes of one. -/
def View.imgs (v : View) : Nat × Nat := ((v.dims.getD 0 1 + 127) / 128, (v.dims.getD 1 1 + 31) / 32)
def View.imgSize (v : View) : Nat := imgBytes ((fmtMx v.fmt).getD 0)
/-- Bytes that the held elements take. -/
def View.span (v : View) : Nat :=
  if v.layout = 1 then v.imgs.1 * v.imgs.2 * product (v.dims.drop 2) * v.imgSize
  else (product v.held * v.bits + 7) / 8

/-- R314: the IA of a VA of the program on this agent. -/
def seqIa (off va : W64) : Nat := (va + off).toNat % 2 ^ 56
def seqIas (off va : W64) (n : Nat) : List Nat := (List.range n).map fun i => (seqIa off va + i) % 2 ^ 56
def View.ias (v : View) (off : W64) : List Nat := seqIas off v.va (min v.span v.bytes)

/-- The place of an image of a B tensor: the one image of a single tile lies first; for more, log entry 20. -/
def View.imgAt (v : View) (c : List Nat) : Nat :=
  let (nt, kt) := v.imgs
  let batch := linear (v.dims.drop 2) (c.drop 2)
  let at1 := if nt * kt ≤ 1 then 0
    else Config.imageOrder nt kt (c.getD 0 0 / 128) (c.getD 1 0 / 32) % (nt * kt)
  (batch * (nt * kt) + at1) * v.imgSize

/-- The bits of a finite value of a matrix format. -/
def mvalBits (f : Nat) (x : MVal) : Nat :=
  match mxFmt f with
  | some fm => (deliver fm .rne (exactVal x)).1
  | none => match x with
    | .fin n m _ => wrapInt (if n then -(m : Int) else m) (mxBits f)
    | _ => 0

/-- An element's bits (R82, R239). -/
def elemBits (s : State) (off : W64) (v : View) (c : List Nat) : Nat :=
  if v.layout = 1 then
    let f := (fmtMx v.fmt).getD 0
    let img := s.die.mem.readNum (seqIa off (v.va + BitVec.ofNat 64 (v.imgAt c))) v.imgSize
    mvalBits f (imageElem f (mxPlanes f) img (c.getD 1 0 % 32) (c.getD 0 0 % 128))
  else
    let bit := v.index c * v.bits
    let ia := (seqIa off v.va + bit / 8) % 2 ^ 56
    if v.bits = 4 then (s.die.mem.read ia).toNat >>> (bit % 8) % 16 else s.die.mem.readNum ia (v.bits / 8)

/-- An element as a value of the array (R125, R239). -/
def elemVal (s : State) (off : W64) (v : View) (c : List Nat) : MVal :=
  let f := (fmtMx v.fmt).getD 0
  if v.layout = 1 then
    imageElem f (mxPlanes f) (s.die.mem.readNum (seqIa off (v.va + BitVec.ofNat 64 (v.imgAt c))) v.imgSize) (c.getD 1 0 % 32)
      (c.getD 0 0 % 128)
  else packedVal f (elemBits s off v c)

/-- R126: a value truncated to p planes. -/
def truncPlanes (f p : Nat) : MVal → MVal
  | .fin n m e => let k := mxPlanes f - p; .fin n (m / 2 ^ k * 2 ^ k) e
  | x => x

/-- The bytes of a packed array of this agent's elements. -/
def packedCells (s : State) (off : W64) (v : View) (xs : List (List Nat × Nat)) : List (Nat × Byte) :=
  let w := v.bits
  if w = 4 then
    let nib := xs.map fun x => let b := v.index x.1 * 4; ((seqIa off v.va + b / 8) % 2 ^ 56, b % 8, x.2 % 16)
    (nib.map (·.1)).eraseDups.map fun a =>
      (a, BitVec.ofNat 8 ((nib.filter fun n => n.1 == a).foldl (fun b n => if n.2.1 = 0 then b / 16 * 16 + n.2.2 else b % 16 + n.2.2 * 16)
        (s.die.mem.read a).toNat))
  else xs.flatMap fun x =>
    let a := seqIa off v.va + v.index x.1 * w / 8
    (toBytes (w / 8) x.2).zipIdx.map fun b => ((a + b.2) % 2 ^ 56, b.1)

/-- The bytes of a B tensor's images (R239). Elements beyond the tensor are zero. -/
def imageCells (off : W64) (v : View) (elem : List Nat → Nat) : List (Nat × Byte) :=
  let (nt, kt) := v.imgs
  (List.range (product (v.dims.drop 2))).flatMap fun b => (List.range nt).flatMap fun n => (List.range kt).flatMap fun k =>
    let rest := unlinear (v.dims.drop 2) b
    let bytes := planeImage ((fmtMx v.fmt).getD 0) fun kk j =>
      let c := (128 * n + j) :: (32 * k + kk) :: rest
      if c.getD 0 0 < v.dims.getD 0 1 ∧ c.getD 1 0 < v.dims.getD 1 1 then elem c else 0
    let a := seqIa off (v.va + BitVec.ofNat 64 (v.imgAt ((128 * n) :: (32 * k) :: rest)))
    bytes.zipIdx.map fun x => ((a + x.2) % 2 ^ 56, x.1)

/-- The bytes of a tensor given by its elements' bits. -/
def viewCells (s : State) (off : W64) (v : View) (elem : List Nat → Nat) : List (Nat × Byte) :=
  if v.layout = 1 then imageCells off v elem else packedCells s off v (v.coords.map fun c => (c, elem c))

/-! ## FP32 arithmetic of the operators (R320) -/

def f32 (x : Nat) : FVal := decodeF fp32 x
def f32out (x : Exact) : Nat := (deliver fp32 .rne x).1
def f32add (a b : Nat) : Nat := f32out (addF .rne (f32 a) (f32 b))
def f32sub (a b : Nat) : Nat := f32out (addF .rne (f32 a) (negF (f32 b)))
def f32mul (a b : Nat) : Nat := f32out (mulF (f32 a) (f32 b))
def f32fn (fn : FVal → Exact) (a : Nat) : Nat := f32out (fn (f32 a))
/-- R114: an E8M0 scale as FP32: 2^(s - 127), or a NaN. -/
def scaleF32 (x : Nat) : Nat := if x % 256 = 255 then fp32.qnan else if x % 256 = 0 then 2 ^ 22 else x % 256 * 2 ^ 23
/-- An element that is a float, as one of a float format. -/
def floatOf (fmt x : Nat) : Option (Fmt × Nat) := if fmt = 11 then some (fp32, scaleF32 x) else (fmtFloat fmt).map fun f => (f, x)
/-- An element in FP32: exact from a narrower float, rounded from an integer. -/
def toF32 (fmt x : Nat) : Nat :=
  match floatOf fmt x with
  | some (f, y) => (convF f fp32 .rne y).1
  | none => (intToF fp32 .rne (sextInt x (fmtBits fmt))).1
/-- An exact result rounded to a tensor's format; an integer saturates. -/
def outF (fmt : Nat) (x : Exact) : Nat :=
  match fmtFloat fmt with
  | some f => (deliver f .rne x).1
  | none =>
    let w := fmtBits fmt
    if fmt = 11 then (Config.scaleOf (deliver fp32 .rne x).1).toNat
    else wrapInt (toIntSat .rne (-(2 ^ (w - 1))) (2 ^ (w - 1) - 1) x).1 w
def fromF32 (fmt x : Nat) : Nat := outF fmt (exactVal (f32 x))

/-- R220, R320: chunks of 64, each summed exactly and rounded once, added in ascending order. -/
def chunks64 : Nat → List Nat → List (List Nat)
  | 0, _ => []
  | n + 1, xs => if xs.isEmpty then [] else xs.take 64 :: chunks64 n (xs.drop 64)
def chunkSum (xs : List Nat) : Nat :=
  match (chunks64 xs.length xs).map fun ch => f32out (sumF .rne (ch.map f32)) with
  | [] => 0
  | y :: ys => ys.foldl f32add y

/-! ## The scoreboard (R321, R322) -/

def holdOf (l : Launch) (e : Nat) : Hold := l.scoreboard.getD e .empty
def setHold (e : Nat) (h : Hold) (l : Launch) : Launch := { l with scoreboard := l.scoreboard.set e h }
def Hold.isReady : Hold → Bool
  | .ready _ => true
  | _ => false
/-- READY(0) or EMPTY. -/
def Hold.quiet : Hold → Bool
  | .empty => true
  | .ready n => n == 0
  | .filling _ _ => false

def readMore (l : Launch) (e : Nat) : Launch := match holdOf l e with | .ready n => setHold e (.ready (n + 1)) l | _ => l
def readLess (l : Launch) (e : Nat) : Launch := match holdOf l e with | .ready n => setHold e (.ready (n - 1)) l | _ => l
def fillMore (acc : Bool) (l : Launch) (e : Nat) : Launch :=
  match holdOf l e with
  | .filling w a => setHold e (.filling (w + 1) (a && acc)) l
  | _ => setHold e (.filling 1 acc) l
def fillLess (l : Launch) (e : Nat) : Launch :=
  match holdOf l e with
  | .filling w a => setHold e (if w ≤ 1 then .ready 0 else .filling (w - 1) a) l
  | _ => l
/-- The entries an operator only reads: a handle named twice counts once. -/
def Oper.readsOnly (o : Oper) : List Nat := o.reads.eraseDups.filter fun e => !o.writes.contains e

/-- R317, R322: a source of the operator is its destination, which INPLACE alone allows: without it the operator reads the destination that
it writes, and does not issue (DEDUCED, log entry 59). -/
def ownRead (o : Oper) : Bool := match o.writes with | e :: _ => o.reads.contains e | [] => false
/-- R322: an operator that waits in the window can issue; earlier are the operators before it in the window. -/
def canIssue (l : Launch) (earlier : List Oper) (o : Oper) : Bool :=
  o.reads.all (fun e => (holdOf l e).isReady)
    && o.writes.all (fun e => match holdOf l e with
      | .filling _ acc => acc && o.bc.acc
      | h => h.quiet)
    && earlier.all (fun p => !p.writes.any (fun e => o.reads.contains e || o.writes.contains e)
      && !p.reads.any fun e => o.writes.contains e)
    && (!o.bc.ord || earlier.isEmpty) && (o.bc.inplace || !ownRead o)

/-! ## The workspace (R318, R323, R325) -/

def roundUp (n a : Nat) : Nat := (n + a - 1) / a * a
/-- Room for n bytes aligned to a, clear of what is in use (log entry 19). -/
def wsFind (l : Launch) (n a : Nat) : Option W64 :=
  let lo := l.prog.workspace.toNat
  let free := fun (x : Nat) => decide (lo ≤ x) && decide (x + n ≤ lo + l.prog.wsBytes)
    && l.wsUsed.all fun u => decide (x + n ≤ u.1.toNat) || decide (u.1.toNat + u.2 ≤ x)
  let tries := (lo + Config.wsFirst % Nat.max l.prog.wsBytes 1) :: lo :: l.wsUsed.map fun u => u.1.toNat + u.2
  ((tries.map fun x => roundUp x a).find? free).map (BitVec.ofNat 64)
def wsTake (va : W64) (n : Nat) (l : Launch) : Launch := { l with wsUsed := l.wsUsed ++ [(va, n)] }
def wsAlloc (n a : Nat) (l : Launch) : Option (W64 × Launch) := (wsFind l (Nat.max n 1) a).map fun va => (va, wsTake va (Nat.max n 1) l)
def wsFree (va : W64) (l : Launch) : Launch := { l with wsUsed := l.wsUsed.filter fun u => u.1 != va }

/-! ## Reports (R330, R331) -/

/-- A cause of an operator goes to the sequencer. -/
def operRaise (cause : Nat) (addr op handle : Nat) (tile detail : W64) (s : State) : State :=
  upSeq (fun q => { q with raised := q.raised ++
    [(⟨BitVec.ofNat 64 addr, BitVec.ofNat 8 op, BitVec.ofNat 8 cause, BitVec.ofNat 16 handle, tile, detail⟩, 0)] }) s

/-- R331: decode and issue go on while no cause waits. -/
def seqGoes (s : State) : Bool := s.die.seq.busy && s.die.seq.raised.isEmpty

def seqRank (s : State) : Nat := s.die.seq.rank.toNat
def setOper (o : Oper) (l : Launch) : Launch := { l with opers := l.opers.map fun x => if x.id == o.id then o else x }
def operById (l : Launch) (id : Nat) : Option Oper := l.opers.find? fun o => o.id == id

/-- Bytes of the sequencer's own words are written as an engine's (R56). -/
def seqPut (off va : W64) (bs : List Byte) (s : State) : State := engWrite 0 ((seqIas off va bs.length).zip bs) s
def seqWord (s : State) (off va : W64) : W64 := BitVec.ofNat 64 (s.die.mem.readNum (seqIa off va) 8)
/-- The lines of these bytes can be read or written now. -/
def seqReadable (s : State) (ias : List Nat) : Bool := (engMissing s 0 0 ias).isEmpty
def seqWritable (s : State) (off va : W64) (n : Nat) : Bool := engAllWritable s (seqIas off va n)

end Sys2Proof.Machine
end

