-- ==== Sys2Proof/Machine/SeqResult.lean ====
section
/-! DEFINITION. The shapes and the results of the built-in tensor operators (R319, R320, R328, R329). -/
namespace Sys2Proof.Machine

def View.blank : View := ⟨0, 0, 0, 0, [], 0, 0, 0, 0, 1, 0, 0, 0⟩
/-- The view of a role: 0 DST, 1 SA, 2 SB, then the handles of the attribute words. -/
def vw (o : Oper) (i : Nat) : View := (o.views.getD i none).getD View.blank
def hasView (o : Oper) (i : Nat) : Bool := (o.views.getD i none).isSome
def dim (v : View) (i : Nat) : Nat := v.dims.getD i 1
def count (v : View) : Nat := product v.dims

/-! ## Shapes (R319) -/

def flag (o : Oper) (n i : Nat) : Bool := (attrN o.bc n).getLsbD i
/-- R319: the rows, the depth and the columns of a product's operands. -/
def mulM' (o : Oper) : Nat := dim (vw o 1) (if flag o 1 0 then 0 else 1)
def mulK (o : Oper) : Nat := dim (vw o 1) (if flag o 1 0 then 1 else 0)
def mulKb (o : Oper) : Nat := dim (vw o 2) (if flag o 1 1 then 0 else 1)
def mulN (o : Oper) : Nat := dim (vw o 2) (if flag o 1 1 then 1 else 0)

/-- Axes that a REDUCE keeps, in order. -/
def keptAxes (o : Oper) : List Nat := (List.range (vw o 1).dims.length).filter fun i => !flag o 1 i
def sizesOf (v : View) (axes : List Nat) : List Nat := axes.map (dim v)
def permAxis (o : Oper) (d : Nat) : Nat := attrBits o.bc 1 (3 * d) 3
/-- The V or F syllable of an EWISE on elements of a type (R319, R148): a in register 0, b in register 1, d in register 2. -/
def ewiseSyl (o : Oper) : Option Instr :=
  let t : Option Nat := match (vw o 1).fmt with
    | 0 => some 0 | 1 => some 1 | 2 => some 2 | 3 => some 3 | 4 => some 4 | 5 => some 5 | 6 => some 6 | 7 => some 7 | _ => none
  match t with
  | none => none
  | some t =>
    let w := BitVec.ofNat 32 (attrBits o.bc 1 0 7 * 2 ^ 25 + 2 * 2 ^ 15 + (if hasView o 2 then 32 else 0) + (if flag o 1 7 then 0 else 16) + t)
    match (if flag o 1 7 then Sys2Proof.decodeF .west w none else decodeV .v0 w none) with
    | .ok i => some i
    | .error _ => none

/-- R319: the shapes of an operator's tensors fit it. -/
def shapeOk (o : Oper) : Bool :=
  let d := vw o 0
  let a := vw o 1
  let b := vw o 2
  let ax := (attrN o.bc 1).toNat
  let n := a.dims.length
  match o.op with
  | 0x20 => n == 2 && b.dims.length == 2 && mulK o == mulKb o && d.dims == [mulN o, mulM' o]
  | 0x21 => n == 3 && b.dims.length == 3 && mulK o == mulKb o && d.dims == [mulN o, mulM' o, dim a 2] && dim a 2 == dim b 2
  | 0x22 =>
    let u := attrN o.bc 1
    d.dims == [128 * attrBits o.bc 2 8 8, cOw u, cOh u, cNb u] && a.dims == [dim a 0, cIw u, cIh u, cNb u]
      && b.dims == [dim d 0, dim a 0, cKs u + 1, cKr u + 1]
  | 0x23 =>
    let fits := fun (v : View) => decide (v.dims.length ≤ d.dims.length)
      && (List.range d.dims.length).all fun i => dim v i == dim d i || dim v i == 1
    fits a && (!hasView o 2 || fits b) && (ewiseSyl o).isSome
  | 0x24 => d.dims == sizesOf a (keptAxes o) || d.dims == a.dims.zipIdx.map (fun x => if flag o 1 x.2 then 1 else x.1)
      || (keptAxes o == [] && count d == 1)
  | 0x25 | 0x2B | 0x2C | 0x2D => d.dims == a.dims
  | 0x26 => d.dims == a.dims && (!hasView o 3 || count (vw o 3) == dim a 0) && (!hasView o 4 || count (vw o 4) == dim a 0)
  | 0x27 => decide (ax < n) && d.dims == a.dims.set ax (count b)
  | 0x28 => decide (ax < n) && a.dims == d.dims.set ax (count b)
  | 0x29 => d.dims.length == n && (List.range n).all (fun i => decide (permAxis o i < n) && dim d i == dim a (permAxis o i))
      && ((List.range n).map (permAxis o)).eraseDups.length == n
  | 0x2A => decide (ax < n) && b.dims == a.dims.set ax (dim b ax) && d.dims == a.dims.set ax (dim a ax + dim b ax)
  | 0x2E => n == 2 && count b == dim a 1
  | 0x2F => d.dims == a.dims && b.dims == a.dims && decide ((if 2 < n then dim a 2 else 1) ≤ count (vw o 3))
  | 0x30 => count d == count a
  | 0x31 => d.dims == [attrBits o.bc 1 0 4, dim a 1] && n == 2 && decide (1 ≤ attrBits o.bc 1 0 4)
      && decide (attrBits o.bc 1 0 4 ≤ 8) && decide (attrBits o.bc 1 0 4 ≤ dim a 0) && (!hasView o 3 || (vw o 3).dims == d.dims)
  | 0x32 => n == 2 && b.dims == [dim b 0, dim a 1] && decide (1 ≤ ax) && decide (ax ≤ 4096) && decide (1 ≤ (attrN o.bc 2).toNat)
      && decide ((attrN o.bc 2).toNat ≤ 256)
  | 0x33 => d.dims.length == 2 && b.dims == [ax, dim d 1] && decide (1 ≤ ax) && decide (ax ≤ 8)
  | 0x35 => d.span == a.span
  | _ => true

/-- R327: the axis of DST that an axis of a source runs along, where the operator works on each of its elements alone. -/
def axisMap (op : Nat) (bc : BcWord) (rank i a : Nat) : Option Nat :=
  let f := fun (k : Nat) => (attrN bc 1).getLsbD k
  let ax := (attrN bc 1).toNat
  match op with
  | 0x20 | 0x21 =>
    if a = 2 then some 2
    else if i = 1 then (if a = (if f 0 then 0 else 1) then some 1 else none)
    else (if a = (if f 1 then 1 else 0) then some 0 else none)
  | 0x23 | 0x2B | 0x2C | 0x30 | 0x35 => if i < 3 then some a else none
  | 0x24 => if f a then none else some a
  | 0x25 => if a = 0 then none else some a
  | 0x26 => if i = 1 then (if a = 0 then none else some a) else if a = 0 then some 0 else none
  | 0x2D => if i = 1 ∧ a ≠ 0 then some a else none
  | 0x2F => if i = 3 then (if a = 0 then some 2 else none) else if a = 1 then none else some a
  | 0x27 => if i = 1 then (if a = ax then none else some a) else some ax
  | 0x28 => if i = 1 ∧ a ≠ ax then some a else none
  | 0x29 => (List.range rank).find? fun d => attrBits bc 1 (3 * d) 3 == a
  | 0x2A => if a = ax then none else some a
  | 0x31 | 0x33 => if a = 1 then some 1 else none
  | _ => none

/-! ## Results (R319, R320) -/

/-- What an operator's tile work does: the bytes it writes, whether an index was out of range, the cause it raises, and what
else changes. -/
structure OpOut where
  cells : List (Nat × Byte)
  badIndex : Bool
  cause : Option Nat
  post : State → State

def OpOut.of (cells : List (Nat × Byte)) : OpOut := ⟨cells, false, none, id⟩

/-- What a value depends on that the spec does not state: the operator, its attributes, its sources, and what it accumulates to. -/
def operKey (s : State) (off : W64) (o : Oper) : List Nat :=
  let bytes := fun (v : Option View) => match v with
    | some v => v.dims ++ (v.ias off).map fun a => (s.die.mem.read a).toNat
    | none => []
  o.op :: o.bc.attrs.map (·.toNat) ++ (o.views.drop 1).flatMap bytes ++ (if o.bc.acc && o.held then bytes (o.views.getD 0 none) else [])
/-- A value the spec does not state (log entry 21). -/
def freeBits (s : State) (off : W64) (o : Oper) (c : List Nat) : Nat :=
  Config.freeElem (operKey s off o) (linear (vw o 0).dims c) % 2 ^ fmtBits (vw o 0).fmt

/-- R129, R128 over any depth: k ascending in steps of the array's 32. -/
def accumulate (int : Bool) (g : Nat) : Nat → Nat → List MVal → List MVal → Nat
  | 0, acc, _, _ => acc
  | n + 1, acc, as, bs =>
    if as.isEmpty then acc
    else accumulate int g n (mmaElem int g 127 127 false acc (as.take 32) (bs.take 32)).1 (as.drop 32) (bs.drop 32)

/-- R248, R320: an accumulator written in a tensor's format; none where MSTORE has no such format. -/
def storeFmt (fmt acc : Nat) : Option Nat :=
  if fmt = 5 ∨ fmt = 2 then some acc
  else (fmtMx fmt).map fun k => (storeElem (BitVec.ofNat 64 (k * 2 ^ 60)) acc).1
/-- R320: C as an accumulator starts from it. -/
def accOf (int : Bool) (fmt x : Nat) : Nat := if int then wrapInt (sextInt x (fmtBits fmt)) 32 else toF32 fmt x

/-- R125: the formats of a product: A's and B's codes, and whether they are integers. -/
def mulFmts (o : Oper) : Option (Nat × Nat × Bool) :=
  match fmtMx (vw o 1).fmt, fmtMx (vw o 2).fmt with
  | some a, some b => if decide (5 ≤ a) == decide (5 ≤ b) then some (a, b, decide (5 ≤ a)) else none
  | _, _ => none

/-- R114, R128: a product with an E8M0 scale for every 32 elements of a row of A and of a column of B along k: k ascending in steps of
32, each with its own two scales. -/
def accumulateMx (g : Nat) (sa sb : Nat → Nat) : Nat → Nat → Nat → List MVal → List MVal → Nat
  | 0, _, acc, _, _ => acc
  | n + 1, blk, acc, as, bs =>
    if as.isEmpty then acc
    else
      let x := sa blk % 256
      let y := sb blk % 256
      accumulateMx g sa sb n (blk + 1) (mmaElem false g x y (x == 255 || y == 255) acc (as.take 32) (bs.take 32)).1 (as.drop 32) (bs.drop 32)

/-- MATMUL, BMATMUL: an element of C, starting from an element of start where there is one (R319). Under MX the scales have no operand in
the spec: their values are free (log entry 21). An MX product of integers is none (R125): its elements are free. -/
def matElem (s : State) (off : W64) (o : Oper) (start : Option View) (c : List Nat) : Nat :=
  let d := vw o 0
  match mulFmts o with
  | none => freeBits s off o c
  | some (fa, fb, int) =>
    let n := c.getD 0 0
    let m := c.getD 1 0
    let p := budgetPlanes fb ((attrN o.bc 1).extractLsb' 8 4)
    let ks := List.range (mulK o)
    let as := ks.map fun k => elemVal s off (vw o 1) ((if flag o 1 0 then [m, k] else [k, m]) ++ c.drop 2)
    let bs := ks.map fun k => truncPlanes fb p (elemVal s off (vw o 2) ((if flag o 1 1 then [k, n] else [n, k]) ++ c.drop 2))
    let acc := match start with | some v => accOf int v.fmt (elemBits s off v c) | none => 0
    let key := operKey s off o
    let batch := linear ((vw o 1).dims.drop 2) (c.drop 2)
    if flag o 1 3 && int then freeBits s off o c
    else
      let sum := if flag o 1 3 then
          accumulateMx (mxKpc fa) (Config.mxScale key false (m + mulM' o * batch)) (Config.mxScale key true (n + mulN o * batch)) ks.length 0
            acc as bs
        else accumulate int (mxKpc fa) ks.length acc as bs
      (storeFmt d.fmt sum).getD (freeBits s off o c)

/-- CONV: an element of DST, with dimensions channels, columns, rows, images (R236, R242, R243; log entry 24). -/
def convElem (s : State) (off : W64) (o : Oper) (c : List Nat) : Nat :=
  let d := vw o 0
  match mulFmts o with
  | none => freeBits s off o c
  | some (fa, _, int) =>
    let u := attrN o.bc 1
    let pad := packedVal fa (Config.convPad ((attrN o.bc 2).extractLsb' 0 8) % 2 ^ mxBits fa)
    let chans := List.range (dim (vw o 1) 0)
    let tap := fun (acc : Nat) (x : Nat × Nat) =>
      let iy : Int := c.getD 2 0 * (cStr u + 1) + x.1 * (cDil u + 1) - cPad u
      let ix : Int := c.getD 1 0 * (cStr u + 1) + x.2 * (cDil u + 1) - cPad u
      let inside := 0 ≤ iy ∧ 0 ≤ ix ∧ iy < cIh u ∧ ix < cIw u
      let as := chans.map fun k => if inside then elemVal s off (vw o 1) [k, ix.toNat, iy.toNat, c.getD 3 0] else pad
      let bs := chans.map fun k => elemVal s off (vw o 2) [c.getD 0 0, k, x.2, x.1]
      accumulate int (mxKpc fa) chans.length acc as bs
    let taps := (List.range (cKr u + 1)).flatMap fun r => (List.range (cKs u + 1)).map fun k => (r, k)
    (storeFmt d.fmt (taps.foldl tap 0)).getD (freeBits s off o c)

/-- R117: a rounding mode by VRM.RM for an element of an operator. -/
def modeOf (rm : Nat) (o : Oper) (c : List Nat) : RMode :=
  match rm with
  | 0 => .rne
  | 1 => .rz
  | 2 => .rd
  | 3 => .ru
  | _ => let d := Config.operDraw o.addr (linear (vw o 0).dims c); .sr (draw d.1 d.2.1 d.2.2.1 d.2.2.2)

/-- R121, R122: an element converted between two formats; none for formats without a conversion. An E8M0 scale is read at its value
(R114). -/
def convertAny (a b : Nat) (md : RMode) (x : Nat) : Option Nat :=
  let w := fmtBits b
  match floatOf a x, fmtFloat b with
  | some (f, y), some g => some (convF f g md y).1
  | some (f, y), none =>
    if fmtInt b then some (wrapInt (toIntSat md (-(2 ^ (w - 1))) (2 ^ (w - 1) - 1) (exactVal (decodeF f y))).1 w)
    else if a = b then some x else none
  | none, some g => if fmtInt a then some (intToF g md (sextInt x (fmtBits a))).1 else none
  | none, none => if a = b then some x else if fmtInt a && fmtInt b then some (clampS w (sextInt x (fmtBits a))).1 else none
/-- R319: a core on which a syllable of EWISE works on the elements a, b and d in one lane. -/
def laneCore (o : Oper) (idx lane w a b d : Nat) : CoreSt :=
  let reg := fun (x : Nat) => (BitVec.ofNat 1024 (x <<< (lane * w)) : W1024)
  let k := Config.operDraw o.addr idx
  { resetCore with
    regs := { resetRegs with v := ((resetRegs.v.set 0 (reg a)).set 1 (reg b)).set 2 (reg d) }
    sys := { resetSys with vrm := BitVec.ofNat 64 (k.2.2.1 % 2 ^ 32 * 2 ^ 32 + attrBits o.bc 1 8 3), taskid := k.1 }
    pcq := { resetStream with q0 := k.2.1 } }
/-- EWISE: one element, by the syllable itself in one lane (R319): a vector operation in the lane that the element has in its kernel. A
result for a tensor of another format is converted to it under the same rounding mode (DEDUCED, log entry 24). -/
def ewiseElem (s : State) (off : W64) (o : Oper) (c : List Nat) : Nat :=
  let d := vw o 0
  let at1 := fun (v : View) => elemBits s off v ((c.take v.dims.length).zipIdx.map fun x => if dim v x.2 = 1 then 0 else x.1)
  let idx := linear d.dims c
  let w := fmtBits (vw o 1).fmt
  let lane := if flag o 1 7 then 0 else (Config.operDraw o.addr idx).2.2.2 % (1024 / Nat.max w 1)
  let on := { s with core := laneCore o idx lane w (at1 (vw o 1)) (if hasView o 2 then at1 (vw o 2) else 0) (elemBits s off d c) }
  match (ewiseSyl o).bind issueOf with
  | none => freeBits s off o c
  | some a => match a.run on with
    | .ok e => match e.pend.find? fun r => r.dst == .v 2 with
      | some r =>
        let x := (r.val.toNat >>> (lane * w)) % 2 ^ w
        if d.fmt = (vw o 1).fmt then x else (convertAny (vw o 1).fmt d.fmt (modeOf (attrBits o.bc 1 8 3) o c) x).getD (freeBits s off o c)
      | none => freeBits s off o c
    | _ => freeBits s off o c

/-- The reduced index of a REDUCE in ascending order: coordinates of SA for an element of DST. -/
def reduced (o : Oper) (c : List Nat) : List (List Nat) :=
  let a := vw o 1
  let axes := (List.range a.dims.length).filter fun i => flag o 1 i
  let sizes := sizesOf a axes
  let base := if (vw o 0).dims.length = a.dims.length then c
    else (List.range a.dims.length).map fun i => match (keptAxes o).findIdx? (· == i) with | some j => c.getD j 0 | none => 0
  (List.range (product sizes)).map fun i =>
    (axes.zip (unlinear sizes i)).foldl (fun acc x => acc.set x.1 x.2) base

/-- R124: the larger or smaller of two elements of a format; of two scales, by their values. -/
def pickEl (fmt : Nat) (big : Bool) (x y : Nat) : Nat :=
  match fmtFloat fmt with
  | some f => if big then maxF f x y else minF f x y
  | none =>
    let w := fmtBits fmt
    if fmt = 11 then (if x = 255 then y else if y = 255 then x else if big then Nat.max x y else Nat.min x y)
    else if big == decide (sextInt x w < sextInt y w) then y else x
/-- R111: a NaN that an operation delivers is the canonical one. -/
def canon (fmt x : Nat) : Nat := match fmtFloat fmt with | some f => if (decodeF f x).isNan then f.qnan else x | none => x
def foldEl (fmt : Nat) (big : Bool) : List Nat → Nat
  | [] => 0
  | x :: xs => canon fmt (xs.foldl (pickEl fmt big) x)

/-- R320: an element of REDUCE. A sum of integers into an integer format is R220's, exact modulo its width (DEDUCED, log entry 24). -/
def reduceElem (s : State) (off : W64) (o : Oper) (c : List Nat) : Nat :=
  let a := vw o 1
  let d := vw o 0
  let xs := (reduced o c).map (elemBits s off a)
  match attrBits o.bc 1 8 2 with
  | 0 =>
    if (floatOf a.fmt 0).isSome || (floatOf d.fmt 0).isSome then fromF32 d.fmt (chunkSum (xs.map (toF32 a.fmt)))
    else wrapInt (xs.foldl (fun z x => z + sextInt x (fmtBits a.fmt)) (0 : Int)) (fmtBits d.fmt)
  | 1 => if d.fmt = a.fmt then foldEl a.fmt true xs else fromF32 d.fmt (toF32 a.fmt (foldEl a.fmt true xs))
  | 2 => if d.fmt = a.fmt then foldEl a.fmt false xs else fromF32 d.fmt (toF32 a.fmt (foldEl a.fmt false xs))
  | _ => freeBits s off o c

/-- The elements along dimension 0, in FP32. -/
def rowF32 (s : State) (off : W64) (v : View) (c : List Nat) : List Nat :=
  (List.range (dim v 0)).map fun i => toF32 v.fmt (elemBits s off v (c.set 0 i))
/-- R320: SOFTMAX of a row; its elements in FP32 before the last rounding. -/
def softRow (xs : List Nat) : List Nat :=
  let m := foldEl 5 true xs
  let es := xs.map fun x => f32fn fnExp (f32sub x m)
  let r := f32fn fnRcp (chunkSum es)
  es.map fun e => f32mul e r
def softmaxElem (s : State) (off : W64) (o : Oper) (c : List Nat) : Nat :=
  fromF32 (vw o 0).fmt ((softRow (rowF32 s off (vw o 1) c)).getD (c.getD 0 0) 0)

/-- R320: NORM. Gains and biases run along dimension 0 (log entry 24). -/
def normElem (s : State) (off : W64) (o : Oper) (c : List Nat) : Nat :=
  let d := vw o 0
  let i := c.getD 0 0
  let xs := rowF32 s off (vw o 1) c
  let rn := f32fn fnRcp (intToF fp32 .rne xs.length).1
  let eps := (attrN o.bc 2).toNat % 2 ^ 32
  let par := fun (k dflt : Nat) => if hasView o k then toF32 (vw o k).fmt (elemBits s off (vw o k) ([i] ++ List.replicate ((vw o k).dims.length - 1) 0)) else dflt
  let g := par 3 0x3F800000
  let rms := fun (ys : List Nat) => f32fn fnRsq (f32add (f32mul (chunkSum (ys.map fun y => f32mul y y)) rn) eps)
  if flag o 1 0 then outF d.fmt (mulF (f32 (f32mul (xs.getD i 0) (rms xs))) (f32 g))
  else
    let mu := f32mul (chunkSum xs) rn
    let ds := xs.map fun x => f32sub x mu
    fromF32 d.fmt (f32out (fmaF .rne (f32 (f32mul (ds.getD i 0) (rms ds))) (f32 g) (f32 (par 4 0))))

/-- An index of an INT32 tensor of indices, as a signed number. -/
def indexAt (s : State) (off : W64) (v : View) (i : Nat) : Int := sextInt (elemBits s off v (unlinear v.dims i)) (fmtBits v.fmt)
def gatherElem (s : State) (off : W64) (o : Oper) (c : List Nat) : Nat :=
  let ax := (attrN o.bc 1).toNat
  let k := indexAt s off (vw o 2) (c.getD ax 0)
  if k < 0 ∨ (dim (vw o 1) ax : Int) ≤ k then 0 else elemBits s off (vw o 1) (c.set ax k.toNat)
def outOfRange (s : State) (off : W64) (v : View) (size : Nat) : Bool :=
  (List.range (count v)).any fun i => let k := indexAt s off v i; decide (k < 0) || decide ((size : Int) ≤ k)

/-- SCATTER: an element of DST that some row names, or none. -/
def scatterElem (s : State) (off : W64) (o : Oper) (c : List Nat) : Option Nat :=
  let ax := (attrN o.bc 1).toNat
  let d := vw o 0
  let a := vw o 1
  let rows := (List.range (count (vw o 2))).filter fun j => indexAt s off (vw o 2) j == (c.getD ax 0 : Int)
  let x := fun (j : Nat) => elemBits s off a (c.set ax j)
  match rows with
  | [] => none
  | j :: js =>
    if !o.bc.acc then some (let y := x ((j :: js).getLastD 0); if d.fmt = a.fmt then y else fromF32 d.fmt (toF32 a.fmt y))
    else
      let fs := (j :: js).map fun k => toF32 a.fmt (x k)
      let start := if o.held then toF32 d.fmt (elemBits s off d c) :: fs else fs
      some (fromF32 d.fmt (match start with | [] => 0 | y :: ys => ys.foldl f32add y))

def concatElem (s : State) (off : W64) (o : Oper) (c : List Nat) : Nat :=
  let ax := (attrN o.bc 1).toNat
  let n := dim (vw o 1) ax
  let i := c.getD ax 0
  if i < n then elemBits s off (vw o 1) c else elemBits s off (vw o 2) (c.set ax (i - n))

def convertElem (s : State) (off : W64) (o : Oper) (c : List Nat) : Nat :=
  let d := vw o 0
  (convertAny (vw o 1).fmt d.fmt (modeOf (attrBits o.bc 1 0 3) o c) (elemBits s off (vw o 1) c)).getD (freeBits s off o c)

/-- R114, R319: the block of 32 elements along dimension 0 that an element of a QUANT to MX blocks lies in, as bits of the source, and its
scale, which the spec does not say how to choose (log entry 21). -/
def mxBlock (s : State) (off : W64) (o : Oper) (c : List Nat) : List Nat :=
  let lo := c.getD 0 0 / 32 * 32
  ((List.range 32).filter fun i => decide (lo + i < dim (vw o 1) 0)).map fun i => elemBits s off (vw o 1) (c.set 0 (lo + i))
def mxScaleOf (s : State) (off : W64) (o : Oper) (c : List Nat) : Nat := Config.mxScaleFor ((vw o 1).fmt :: mxBlock s off o c) % 256
/-- R319: the target format of a QUANT. -/
def quantFmt (o : Oper) : Nat := attrBits o.bc 1 0 4
/-- R319: an element of a QUANT in its target format. MX blocks (R114): its value divided by its block's scale, rounded to nearest even; a
NaN is the canonical one, or +0 in E2M1 (R111). Outlier split (R225): zero for an outlier, else converted. A format that neither has is
free; so is an element of a DST of another format (log entry 21). -/
def quantElem (s : State) (off : W64) (o : Oper) (c : List Nat) : Nat :=
  let d := vw o 0
  let x := elemBits s off (vw o 1) c
  let f32x := toF32 (vw o 1).fmt x
  if d.fmt ≠ quantFmt o then freeBits s off o c
  else if !flag o 1 4 then
    match fmtFloat d.fmt with
    | some g =>
      let k := mxScaleOf s off o c
      let v := match f32 f32x with
        | .fin n m e => FVal.fin n m (e - ((k : Int) - 127))
        | y => y
      if !([6, 7, 8].contains d.fmt) then freeBits s off o c
      else if (f32 f32x).isNan || k = 255 then g.qnan else (deliver g .rne (exactVal v)).1
    | none => freeBits s off o c
  else match floatOf (vw o 1).fmt x with
    | some (f, y) =>
      if !(d.fmt == 0 || d.fmt == 6) then freeBits s off o c
      else if outlier f ((attrN o.bc 2).toNat % 2 ^ 32) y then 0
      else (convertAny (vw o 1).fmt d.fmt .rne x).getD 0
    | none => freeBits s off o c
/-- R225: the entries of the side list of a QUANT, in ascending element order: the outliers in BF16. -/
def sideList (s : State) (off : W64) (o : Oper) : List Nat :=
  (vw o 1).coords.filterMap fun c => match floatOf (vw o 1).fmt (elemBits s off (vw o 1) c) with
    | some (f, y) => if outlier f ((attrN o.bc 2).toNat % 2 ^ 32) y then some (convF f bf16 .rne y).1 else none
    | none => none

/-! ### State operators -/

/-- SCAN: the FP32 states of one sequence after each position, from a start (R319, log entry 24). -/
def scanRun : Nat → List (Nat × Nat) → List Nat
  | _, [] => []
  | h, (a, b) :: rest => let h' := f32out (fmaF .rne (f32 a) (f32 h) (f32 b)); h' :: scanRun h' rest

/-- The controller of the other die keeps the sequence that a word names (R97). -/
def farSeq (s : State) (w : W64) : Bool := handleAgent w == otherDie s
/-- The coordinates along an axis that are this agent's. -/
def ownIdx (v : View) (a : Nat) : List Nat :=
  if v.axis = a then (List.range v.count).map (v.lo + ·) else List.range (dim v a)
/-- The chunks that hold the states of these channels, four bytes each. -/
def stateChunks (chs : List Nat) : List Nat := (chs.map (· / 128)).eraseDups
/-- A chunk of a sequence's state store, or the CAUSE.CODE of what fails: a stale handle stops the copy, an arena line that cannot be read is a
GROTTO_FAULT (R90, R101). Of a sequence of the other die's controller, as that has answered. -/
def seqChunk (s : State) (o : Oper) (w : W64) (n : Nat) : Nat ⊕ List Byte :=
  if farSeq s w then match o.asked.find? fun x => x.1 == w && x.2.1 == n with
    | some (_, _, some (0, bs)) => .inr bs
    | some (_, _, some (k, _)) => .inl k
    | _ => .inl 0x0C
  else match seqFind s w with
    | some q => match (liveGet q n s).1 with
      | some bs => .inr bs
      | none => .inl 0x0D
    | none => .inl 0x0C
/-- The state of a sequence word: its FP32 value of a channel. -/
def seqState (s : State) (o : Oper) (w : W64) (ch : Nat) : Nat :=
  match seqChunk s o w (4 * ch / 512) with
  | .inr bs => leAt bs (4 * ch % 512) 4
  | .inl _ => 0
/-- The store of FP32 states of channels back, chunk by chunk; a chunk that cannot be written is a GROTTO_FAULT that the monitor does not
resolve. -/
def putStates (o : Oper) (w : W64) (hs : List (Nat × Nat)) (s : State) : State :=
  (stateChunks (hs.map (·.1))).foldl (fun st n =>
    let new := fun (old : List Byte) => (List.range 128).flatMap fun i => match hs.find? fun h => h.1 == 128 * n + i with
      | some h => toBytes 4 h.2
      | none => toBytes 4 (leAt old (4 * i) 4)
    if farSeq s w then st.send (.chunkPut (otherDie s) 0 n w n (new (match seqChunk s o w n with | .inr bs => bs | .inl _ => [])))
    else match seqFind st w with
      | none => st
      | some q =>
        let old := liveGet q n st
        let r := writeChunk n (new (old.1.getD zeroChunk)) 17 q old.2
        if r.1 == .ok then r.2 else operRaise 11 o.addr o.op 0 0 0x0D r.2) s
def snapStep (w : W64) (pos : Nat) (s : State) : State :=
  let word : W64 := BitVec.ofNat 64 (w.toNat % 2 ^ 32 + pos % 2 ^ 32 * 2 ^ 32)
  if farSeq s w then s.send (.grotto (otherDie s) 0 0x2A word 0) else (grPerform 0x2A word 0 s).2

/-- The sequence words of a SCAN that are this agent's. -/
def scanSeqs (o : Oper) : List Nat := if 2 < (vw o 0).dims.length then ownIdx (vw o 0) 2 else [0]
def scanWord (s : State) (off : W64) (o : Oper) (i : Nat) : W64 :=
  BitVec.ofNat 64 (elemBits s off (vw o 3) (unlinear (vw o 3).dims i))
/-- SCAN over tensors of channels, positions, sequences: the states of this agent's channels of a sequence, each with its channel, after
every position. -/
def scanStates (s : State) (off : W64) (o : Oper) (seq : Nat) : List (List (Nat × Nat)) :=
  let a := vw o 1
  let w := scanWord s off o seq
  let cols := (ownIdx (vw o 0) 0).map fun ch =>
    (ch, scanRun (seqState s o w ch) ((List.range (dim a 1)).map fun t =>
      let c := [ch, t] ++ (if 2 < a.dims.length then [seq] else [])
      (toF32 a.fmt (elemBits s off a c), toF32 (vw o 2).fmt (elemBits s off (vw o 2) c))))
  (List.range (dim a 1)).map fun t => cols.map fun h => (h.1, h.2.getD t 0)
def scanOut (s : State) (off : W64) (o : Oper) : OpOut :=
  let d := vw o 0
  let every := (attrN o.bc 2).toNat % 2 ^ 32
  let all := (scanSeqs o).map fun i => (i, scanStates s off o i)
  let cells := viewCells s off d fun c =>
    match all.find? fun x => x.1 == c.getD 2 0 with
    | some x => fromF32 d.fmt (((((x.2.getD (c.getD 1 0) []).find? fun h => h.1 == c.getD 0 0).map (·.2))).getD 0)
    | none => 0
  let bad := (scanSeqs o).findSome? fun i => (stateChunks (ownIdx d 0)).findSome? fun n => match seqChunk s o (scanWord s off o i) n with
    | .inl k => some k
    | .inr _ => none
  let keep := fun (st : State) => all.foldl (fun st x =>
    let w := scanWord s off o x.1
    x.2.zipIdx.foldl (fun st h =>
      let pos := w.toNat / 2 ^ 32 + h.2 + 1
      let st1 := putStates o w h.1 st
      if every ≠ 0 ∧ pos % every = 0 then snapStep w pos st1 else st1) st) st
  match bad with
  | some k => ⟨[], false, none, operRaise 11 o.addr o.op 0 0 (BitVec.ofNat 64 k)⟩
  | none => ⟨cells, false, none, keep⟩

/-- STATEOP: its opcode, its extension, and its sequence words. -/
def stateopOp (o : Oper) : BitVec 7 := (attrN o.bc 1).extractLsb' 0 7
def stateopExt (o : Oper) : W32 := if stateopOp o = 0x2E then (if flag o 1 8 then 1 else 0) else BitVec.ofNat 32 (attrBits o.bc 1 9 4)
def stateopWords (s : State) (off : W64) (o : Oper) : List W64 :=
  (vw o 1).coords.map fun c => BitVec.ofNat 64 (elemBits s off (vw o 1) c)
/-- One command per sequence word, in order, with its status (R98, R319); an arena line that cannot be read is a GROTTO_FAULT of its task
(R101). The other die's controller has answered its own. -/
def stateopRun (o : Oper) : Nat → List W64 → State → List W64 × State
  | _, [], s => ([], s)
  | i, w :: ws, s =>
    let r := match o.asked.find? fun x => x.2.1 == i with
      | some (_, _, some (0, bs)) => (some (BitVec.ofNat 64 (leAt bs 0 8)), s)
      | some _ => (none, s)
      | none => grPerform (stateopOp o) w (stateopExt o) s
    match r with
    | (some v, s1) => let rest := stateopRun o (i + 1) ws s1; (v :: rest.1, rest.2)
    | (none, s1) => let rest := stateopRun o (i + 1) ws (operRaise 11 o.addr o.op 0 0 0x0D s1); (0 :: rest.1, rest.2)
def stateopOut (s : State) (off : W64) (o : Oper) : OpOut :=
  let d := vw o 0
  let words := stateopWords s off o
  let r := stateopRun o 0 words s
  ⟨packedCells s off d (d.coords.zip (r.1.map (·.toNat))), false, none, fun st => (stateopRun o 0 words st).2⟩
/-- R97: what an operator asks of the other die's controller, each with its number among them: the chunks of the states that it reads, or
its commands. -/
def farAsks (s : State) (off : W64) (o : Oper) : List (W64 × Nat × OutMsg) :=
  if o.op = 0x2F then
    ((scanSeqs o).map (scanWord s off o)).filter (farSeq s) |>.flatMap fun w =>
      (stateChunks (ownIdx (vw o 0) 0)).map fun n => (w, n, .chunkAsk (otherDie s) 0 n w n)
  else if o.op = 0x30 ∧ stateopOp o ≠ 0x28 then
    (((stateopWords s off o).zipIdx).filter fun w => farSeq s w.1).map fun w =>
      (w.1, w.2, .grotto (otherDie s) w.2 (stateopOp o) w.1 (stateopExt o))
  else []

/-! ### Experts (R319, R328, R329) -/

/-- ROUTE: the k chosen experts of a token, best first: ties to the lower index, a NaN last (R222). -/
def rankLogits (fmt : Nat) : Nat → List (Nat × Nat) → List (Nat × Nat)
  | 0, _ => []
  | n + 1, xs =>
    let f32s := xs.map fun x => (x.1, toF32 fmt x.2)
    let best := f32s.foldl (fun acc x => match acc with
      | none => some x
      | some b =>
        if (f32 x.2).isNan then some b
        else if (f32 b.2).isNan || flt (f32 b.2) (f32 x.2) then some x else some b) (none : Option (Nat × Nat))
    match best with
    | none => []
    | some b => b :: rankLogits fmt n (xs.filter fun x => x.1 != b.1)
def routeRow (s : State) (off : W64) (o : Oper) (t : Nat) : List (Nat × Nat) :=
  let a := vw o 1
  rankLogits a.fmt (attrBits o.bc 1 0 4) ((List.range (dim a 0)).map fun e => (e, elemBits s off a [e, t]))
def routeOut (s : State) (off : W64) (o : Oper) : OpOut :=
  let d := vw o 0
  let weights := if hasView o 3 then viewCells s off (vw o 3) fun c =>
    fromF32 (vw o 3).fmt ((softRow ((routeRow s off o (c.getD 1 0)).map (·.2))).getD (c.getD 0 0) 0) else []
  .of (viewCells s off d (fun c => (((routeRow s off o (c.getD 1 0)).map (·.1)).getD (c.getD 0 0) 0)) ++ weights)

/-- R328: bytes of a page. -/
def pageBytesOf (rows rowBytes : Nat) : Nat := roundUp (64 + 8 * rows + rows * rowBytes) 64
def rowBytes (v : View) : Nat := (dim v 0 * fmtBits v.fmt + 7) / 8
/-- The bytes of a token row. -/
def tokenRow (s : State) (off : W64) (v : View) (t : Nat) : List Byte :=
  let bitsv := (List.range (dim v 0)).map fun h => elemBits s off v [h, t]
  toBytes (rowBytes v) (bitsv.foldr (fun x acc => acc * 2 ^ fmtBits v.fmt + x) 0)

/-- A page while DISPATCH fills it. -/
structure Page where
  expert : Nat
  rows : List (Nat × Nat)

/-- A list in the order of its keys. -/
def insertKey {α : Type} (x : Nat × α) : List (Nat × α) → List (Nat × α)
  | [] => [x]
  | y :: ys => if x.1 ≤ y.1 then x :: y :: ys else y :: insertKey x ys
def byKey {α : Type} (key : Nat → Nat) (xs : List α) : List α :=
  ((xs.zipIdx.map fun x => (key x.2, x.1)).foldr insertKey []).map (·.2)
/-- A row appended to its expert's last page, or to a new page (R328). -/
def addRow (rows : Nat) (e t k : Nat) (ps : List Page) : List Page :=
  match (ps.zipIdx.filter fun p => p.1.expert == e).getLast? with
  | some (p, i) => if p.rows.length < rows then ps.set i { p with rows := p.rows ++ [(t, k)] } else ps ++ [⟨e, [(t, k)]⟩]
  | none => ps ++ [⟨e, [(t, k)]⟩]

def dispatchOut (s : State) (off : W64) (o : Oper) : OpOut :=
  let pool := vw o 0
  let tok := vw o 1
  let idx := vw o 2
  let experts := (attrN o.bc 1).toNat
  let rows := (attrN o.bc 2).toNat
  let pb := pageBytesOf rows (rowBytes tok)
  let pairs := (List.range (dim idx 1)).flatMap fun t => (List.range (dim idx 0)).map fun k =>
    (t, k, sextInt (elemBits s off idx [k, t]) (fmtBits idx.fmt))
  let good := pairs.filter fun x => decide (0 ≤ x.2.2) && decide (x.2.2 < (experts : Int))
  let pages := (byKey (Config.rowOrder s.tick) good).foldl (fun ps x => addRow rows x.2.2.toNat x.1 x.2.1 ps) []
  let head := roundUp (8 * experts) 64
  let places := byKey (Config.pageOrder s.tick) (List.range ((pool.bytes - head) / Nat.max pb 1))
  let pageVa := fun (i : Nat) => (pool.va + BitVec.ofNat 64 (head + places.getD i 0 * pb)).toNat
  if pool.bytes < head + pages.length * pb then ⟨[], false, some 1, id⟩
  else
    let mine := fun (e : Nat) => (pages.zipIdx.filter fun p => p.1.expert == e).map (·.2)
    let put := fun (va : Nat) (bs : List Byte) => (seqIas off (BitVec.ofNat 64 va) bs.length).zip bs
    let heads := (List.range experts).flatMap fun e =>
      put (pool.va.toNat + 8 * e) (toBytes 8 (match mine e with | [] => 0 | i :: _ => pageVa i))
    let body := pages.zipIdx.flatMap fun p =>
      let next := match (mine p.1.expert).find? fun i => decide (p.2 < i) with | some i => pageVa i | none => 0
      put (pageVa p.2) (toBytes 8 next ++ toBytes 8 (p.1.expert * 2 ^ 16 + p.1.rows.length) ++ toBytes 48 0
          ++ p.1.rows.flatMap (fun r => toBytes 8 (r.2 * 2 ^ 32 + r.1)))
        ++ put (pageVa p.2 + 64 + 8 * rows) (p.1.rows.flatMap fun r => tokenRow s off tok r.1)
    ⟨heads ++ body, good.length != pairs.length, none, id⟩

/-- The rows of one expert's pages, with their tags: token, slot, VA of the row. -/
def walkPages (s : State) (off : W64) (rows rb : Nat) : Nat → W64 → List (Nat × Nat × W64)
  | 0, _ => []
  | n + 1, va =>
    if va = 0 then []
    else
      let cnt := ((seqWord s off (va + 8)).extractLsb' 0 16).toNat
      ((List.range (min cnt rows)).map fun i =>
        let tag := seqWord s off (va + BitVec.ofNat 64 (64 + 8 * i))
        ((tag.extractLsb' 0 32).toNat, (tag.extractLsb' 32 8).toNat, va + BitVec.ofNat 64 (64 + 8 * rows + i * rb)))
        ++ walkPages s off rows rb n (seqWord s off va)
/-- R328: the rows per page of a pool: those of the DISPATCH that its pages come from; of a pool without one, free (log entry 25). -/
def poolPage (v : View) : Nat := if v.pageRows = 0 then Config.pageRows v.dims % 256 + 1 else v.pageRows
/-- Every row of a pool: the heads lie in its first bytes; the first page tells where they end (R328). -/
def poolRows (s : State) (off : W64) (pool : View) : List (Nat × Nat × W64) :=
  let rows := poolPage pool
  let rb := rowBytes pool
  let pb := pageBytesOf rows rb
  let heads := (List.range (pool.bytes / 8)).takeWhile fun e => decide (e < 4096)
  let lists := heads.map fun e => seqWord s off (pool.va + BitVec.ofNat 64 (8 * e))
  let inPool := fun (va : W64) => decide (pool.va.toNat ≤ va.toNat) && decide (va.toNat < pool.va.toNat + pool.bytes)
  let first := (lists.filter inPool).foldl (fun m va => Nat.min m (va - pool.va).toNat) pool.bytes
  ((lists.take (first / 8)).filter inPool).flatMap (walkPages s off rows rb (pool.bytes / Nat.max pb 1 + 1))

/-- COMBINE: an element, and whether a (token, k) has no row (R329): a row holds elements of the pool's format. -/
def combineElem (s : State) (off : W64) (o : Oper) (rowsAll : List (Nat × Nat × W64)) (c : List Nat) : Nat × Bool :=
  let d := vw o 0
  let fmt := (vw o 1).fmt
  let t := c.getD 1 0
  let h := c.getD 0 0
  let terms := (List.range (attrN o.bc 1).toNat).map fun k =>
    match rowsAll.find? fun r => r.1 == t && r.2.1 == k with
    | none => (0, true)
    | some r =>
      let bit := h * fmtBits fmt
      let x := (s.die.mem.readNum (seqIa off (r.2.2 + BitVec.ofNat 64 (bit / 8))) 8) >>> (bit % 8) % 2 ^ fmtBits fmt
      (f32mul (toF32 (vw o 2).fmt (elemBits s off (vw o 2) [k, t])) (toF32 fmt x), false)
  let sum := match terms with | [] => 0 | y :: ys => ys.foldl (fun a x => f32add a x.1) y.1
  (fromF32 d.fmt sum, terms.any (·.2))
def combineOut (s : State) (off : W64) (o : Oper) : OpOut :=
  let d := vw o 0
  let all := poolRows s off (vw o 1)
  let bad := d.coords.any fun c => (combineElem s off o all c).2
  ⟨viewCells s off d (fun c => (combineElem s off o all c).1), bad, none, id⟩

/-! ### Key-value append (R106, R107, R319) -/

/-- Blocks taken from the free-block list, an INT64 tensor of VAs whose taken entries are 0 (log entry 26). -/
structure KvSt where
  table : List Nat
  free : List Nat
  cells : List (Nat × Byte)
  empty : Bool

/-- Row j of a KVAPPEND. Its sequence is the one whose word stands at its place among the words of attribute 2, the rows in as many equal
parts; the table's second dimension counts sequences (log entry 26). -/
def kvRow (s : State) (off : W64) (o : Oper) (st : KvSt) (j : Nat) : KvSt :=
  let tok := vw o 1
  let tbl := vw o 0
  let pos := (indexAt s off (vw o 2) j).toNat
  let col := if 1 < tbl.dims.length then j / Nat.max (dim tok 1 / Nat.max (count (vw o 4)) 1) 1 else 0
  let i := linear tbl.dims ([pos / 16, col].take tbl.dims.length)
  let ent := st.table.getD i 0
  let rb := rowBytes tok
  let place := fun (ent : Nat) (st : KvSt) =>
    let va := (ent / 64 % 2 ^ 46) * 64 + pos % 16 * rb
    { st with cells := st.cells ++ (seqIas off (BitVec.ofNat 64 va) rb).zip (tokenRow s off tok j) }
  if ent.testBit 63 then place ent st
  else match st.free.find? (· != 0) with
    | none => { st with empty := true }
    | some blk =>
      let ent' := 2 ^ 63 + blk / 64 % 2 ^ 46 * 64
      place ent' { st with table := st.table.set i ent', free := st.free.set (st.free.findIdx (· == blk)) 0 }
def kvappendOut (s : State) (off : W64) (o : Oper) : OpOut :=
  let tbl := vw o 0
  let fr := vw o 3
  let all := fun (v : View) => (List.range (count v)).map fun i => elemBits s off v (unlinear v.dims i)
  let st := (List.range (dim (vw o 1) 1)).foldl (kvRow s off o) ⟨all tbl, all fr, [], false⟩
  ⟨viewCells s off tbl (fun c => st.table.getD (linear tbl.dims c) 0)
     ++ viewCells s off fr (fun c => st.free.getD (linear fr.dims c) 0) ++ st.cells,
   false, if st.empty then some 1 else none, id⟩

/-! ### Every operator -/

/-- COPY: the bytes of SA (R319). -/
def copyOut (s : State) (off : W64) (o : Oper) : OpOut :=
  .of (((vw o 0).ias off).zip (((vw o 1).ias off).map fun a => s.die.mem.read a))

/-- R106, R320: the bits of an element of a key or of a value at a position. -/
def kvBits (s : State) (off : W64) (o : Oper) (v : Bool) (col t e : Nat) : Nat :=
  let tbl := vw o 4
  let fmt := Config.attnFmt v (vw o 1).fmt % 12
  let ent := elemBits s off tbl (([t / 16, col] ++ List.replicate tbl.dims.length 0).take tbl.dims.length)
  let bit := 8 * Config.attnPlace v (vw o 1).dims (t % 16) e + (if fmtBits fmt = 4 then e % 2 * 4 else 0)
  let a := (seqIa off (BitVec.ofNat 64 (ent / 64 % 2 ^ 46 * 64)) + bit / 8) % 2 ^ 56
  (s.die.mem.readNum a ((fmtBits fmt + 7) / 8)) >>> (bit % 8) % 2 ^ fmtBits fmt
/-- R320: the weights of a query over the key positions, as DST's format has them: scores by the MATMUL rule, the scale, the mask of causal,
SOFTMAX; rounded to DST's format before they weigh V (DEDUCED, log entry 102). none for formats the array does not have. -/
def attnWeights (s : State) (off : W64) (o : Oper) (c : List Nat) : Option (Nat × List Nat) :=
  let q := vw o 1
  let fk := Config.attnFmt false q.fmt % 12
  match fmtMx q.fmt, fmtMx fk with
  | some a, some b =>
    let (i, col, at0) := Config.attnQuery q.dims (c.drop 1)
    let n := Config.attnKeys (BitVec.ofNat 64 (elemBits s off (vw o 3) (unlinear (vw o 3).dims i)))
    let es := List.range (dim q 0)
    let int := decide (5 ≤ a)
    let qs := es.map fun e => packedVal a (elemBits s off q (c.set 0 e))
    let score := fun (t : Nat) =>
      let acc := accumulate int (mxKpc a) es.length 0 qs (es.map fun e => packedVal b (kvBits s off o false col t e))
      let x := f32mul (if int then (intToF fp32 .rne (sextInt acc 32)).1 else acc) ((attrN o.bc 2).toNat % 2 ^ 32)
      if flag o 3 0 && decide (at0 < t) then 0xFF800000 else x
    some (col, (softRow ((List.range n).map score)).map (fromF32 (vw o 0).fmt))
  | _, _ => none
/-- R320: an element of ATTEND: the weights and the values by the MATMUL rule. -/
def attendElem (s : State) (off : W64) (o : Oper) (c : List Nat) : Nat :=
  let d := vw o 0
  match attnWeights s off o c, fmtMx d.fmt, fmtMx (Config.attnFmt true (vw o 1).fmt % 12) with
  | some (col, ws), some a, some b =>
    let acc := accumulate (decide (5 ≤ a)) (mxKpc a) ws.length 0 (ws.map (packedVal a))
      ((List.range ws.length).map fun t => packedVal b (kvBits s off o true col t (c.getD 0 0)))
    (storeFmt d.fmt acc).getD (freeBits s off o c)
  | _, _, _ => freeBits s off o c
/-- ATTEND (R320). Which blocks and places hold a query's keys and values, and in which format, the spec leaves to the firmware's kernels
(log entry 21). -/
def attendOut (s : State) (off : W64) (o : Oper) : OpOut := .of (viewCells s off (vw o 0) (attendElem s off o))
/-- QUANT: DST, and in the tensor that attribute 1 names the scales of the MX blocks or the side list, one after another from its first
element; what it has no room for is dropped, and elements past the last one stay (DESIGN CHOICE, log entry 21). -/
def quantOut (s : State) (off : W64) (o : Oper) : OpOut :=
  let l := vw o 3
  let more := if flag o 1 4 then sideList s off o
    else ((vw o 1).coords.filter fun c => c.getD 0 0 % 32 == 0).map (mxScaleOf s off o)
  let room := l.coords.take more.length
  .of (viewCells s off (vw o 0) (quantElem s off o)
    ++ (if hasView o 3 then packedCells s off l (room.zip (more.map (· % 2 ^ fmtBits l.fmt))) else []))
/-- SCATTER: the rows named, and every other element as it was. -/
def scatterOut (s : State) (off : W64) (o : Oper) : OpOut :=
  let d := vw o 0
  let named := d.coords.filterMap fun c => (scatterElem s off o c).map fun x => (c, x)
  ⟨packedCells s off d named, outOfRange s off (vw o 2) (dim d (attrN o.bc 1).toNat), none, id⟩
def gatherOut (s : State) (off : W64) (o : Oper) : OpOut :=
  ⟨viewCells s off (vw o 0) (gatherElem s off o), outOfRange s off (vw o 2) (dim (vw o 1) (attrN o.bc 1).toNat), none, id⟩
/-- MATMUL and BMATMUL. Of a product that is summed over the ranks, whose C is view 3, rank 0 alone starts from C (log
entry 27). -/
def matmulOut (s : State) (off : W64) (o : Oper) : OpOut :=
  let start := if !flag o 1 2 then none
    else if hasView o 3 then (if seqRank s = 0 then some (vw o 3) else none)
    else if o.held then some (vw o 0) else none
  .of (viewCells s off (vw o 0) (matElem s off o start))
def permuteElem (s : State) (off : W64) (o : Oper) (c : List Nat) : Nat :=
  elemBits s off (vw o 1) (c.zipIdx.foldl (fun acc x => acc.set (permAxis o x.2) x.1) c)

end Sys2Proof.Machine
end

