-- ==== Sys2Proof/Machine/SeqDecode.lean ====
section
/-! DEFINITION. The decode and the issue of bytecode: the structural operators, the lowering of sharded sources, and the issue
window (R317, R318, R322, R323, R327). -/
namespace Sys2Proof.Machine

/-! ## Decode -/

/-- The instruction at the sequencer's pc, while decode may go on; none also where there is no such instruction (R317). -/
def nextBc (s : State) : Option (Launch × Option BcIns) :=
  match s.die.seq.run with
  | none => none
  | some l => if !seqGoes s || l.ended then none else some (l, bcAt l.prog.recipes l.prog.code l.pc)

def tensorAt (l : Launch) (h : BitVec 16) : Option Tensor := if h = 0 then none else l.tensors[h.toNat]?
def storedAt (l : Launch) (h : BitVec 16) : Option Tensor := (tensorAt l h).filter fun t => t.storage.isSome
def setTensor (h : BitVec 16) (t : Tensor) (l : Launch) : Launch := { l with tensors := l.tensors.set h.toNat t }
def setPc (pc : Nat) (l : Launch) : Launch := { l with pc := pc }
def pastIns (l : Launch) (i : BcIns) : Nat := l.pc + 8 * i.words
/-- A cause of the instruction at the pc (R330). -/
def decodeRaise (cause : Nat) (l : Launch) (i : BcIns) (handle : BitVec 16) (s : State) : State :=
  operRaise cause l.pc i.op handle.toNat 0 0 s

/-! ## Issue (R322, R323) -/

/-- R323, R325: the words of a completion block at issue, and of an operand block. The notice names the block (log entry 19). -/
def blockBytes (block : W64) : List Byte := toBytes 8 1 ++ toBytes 8 0 ++ toBytes 8 block.toNat ++ toBytes 104 0
def operandBytes (o : Oper) : List Byte :=
  ((List.range 3).flatMap fun i => toBytes 8 (if hasView o i then (vw o i).va.toNat else 0))
    ++ (List.range 5).flatMap fun i => toBytes 8 (attrN o.bc (i + 1)).toNat

/-- The firmware recipe of KCALL (R319, R325): one record per grid point, x innermost. -/
def kcallRecipe (bc : BcWord) : List W64 :=
  let g := fun (lo : Nat) => attrBits bc 2 lo 16
  let loop := fun (q n : Nat) => BitVec.ofNat 64 (q * 2 ^ 56 + n)
  [0x2830000000000000, 0x2943000000000000, loop 2 (g 32), loop 1 (g 16), loop 0 (g 0), 0x1A00000000008210,
   BitVec.ofNat 64 (3 * 2 ^ 60 + 8 * 2 ^ 56 + 9 * 2 ^ 52 + 10 * 2 ^ 48 + attrBits bc 1 16 8 * 2 ^ 40 + attrBits bc 1 0 12),
   0x9000000000000000, 0x9000000000000000, 0x9000000000000000, 0x9000000000000000]

/-- KCALL: its gang bit, level, grid size and domain (R305, R395). -/
def kGang (bc : BcWord) : Bool := (attrN bc 1).getLsbD 24
def kLevel (bc : BcWord) : Nat := attrBits bc 1 25 3
def kGrid (bc : BcWord) : Nat := attrBits bc 2 0 16 * attrBits bc 2 16 16 * attrBits bc 2 32 16
def kDomain (l : Launch) (addr : Nat) : BitVec 16 := ((l.prog.domains.find? fun d => d.1 == addr).map (·.2)).getD 0
/-- R305: the gang entry of a KCALL. -/
def kGangW0 (l : Launch) (o : Oper) : W64 :=
  BitVec.ofNat 64 (l.prog.agents * kGrid o.bc % 2 ^ 16 * 2 ^ 48 + (kDomain l o.addr).toNat * 2 ^ 32 + kLevel o.bc % 8 * 2 ^ 29
    + Config.gangOverflow.toNat)

/-- R324: the words of a program's recipe for a customer opcode, as the recipe store holds them. -/
def storedRecipe (q : Sequencer) (p : Program) (op : Nat) : List W64 :=
  let before := p.recipes.takeWhile fun r => r.1.toNat != op
  let at0 := p.recipeBase + (before.map fun r => r.2.length).sum
  match recipeOf p.recipes op with
  | some r => (List.range r.length).map fun i => ((q.recipeStore.find? fun x => x.1 == at0 + i).map (·.2)).getD 0
  | none => []
/-- The recipe that an operator's expansion runs. -/
def recipeFor (s : State) (l : Launch) (o : Oper) : List W64 :=
  if o.op = 0x36 then kcallRecipe o.bc else storedRecipe s.die.seq l.prog o.op

/-- A cause that keeps an operator from issuing (R319, R326). For a grid with a zero: DESIGN CHOICE, log entry 104. -/
def issueCause (s : State) (l : Launch) (o : Oper) : Option Nat :=
  if !shapeOk o then some 4
  else if !(recipeFor s l o).isEmpty && !(recipeOk (recipeFor s l o) && (recipeFor s l o).all rwAttrOk) then some 5
  else if o.op = 0x36 then
    (if kGrid o.bc = 0 then some 4 else if l.prog.kernels.length ≤ attrBits o.bc 1 0 12 then some 5 else none)
  else none

/-- One operator of the window issues, if it can. -/
def issueOne (id : Nat) (s : State) : State :=
  match s.die.seq.run with
  | none => s
  | some l =>
    match operById l id with
    | none => s
    | some o =>
      let earlier := l.opers.filter fun p => !p.issued && decide (p.id < id)
      if !seqGoes s || o.issued || !canIssue l earlier o then s
      else match issueCause s l o with
        | some k => operRaise k o.addr o.op o.bc.dst.toNat 0 0 s
        | none =>
          match wsAlloc 128 128 l with
          | none => operRaise 1 o.addr o.op 0 0 0 s
          | some (block, l1) =>
            match wsAlloc 64 64 l1 with
            | none => operRaise 1 o.addr o.op 0 0 0 s
            | some (ops, l2) =>
              let off := l.prog.off
              if !seqWritable s off block 128 || !seqWritable s off ops 64 then s
              else
                let o' := { o with
                  issued := true, block := block, operands := ops
                  held := match o.writes with | e :: _ => holdOf l e != .empty | [] => false
                  recipe := recipeFor s l o }
                let l3 := o.writes.foldl (fillMore o.bc.acc) (o.readsOnly.foldl readMore (setOper o' l2))
                let s1 := seqPut off ops (operandBytes o') (seqPut off block (blockBytes block) (upRun (fun _ => l3) s))
                if o.op = 0x36 && kGang o.bc && seqRank s = 0 then putGang (kGangW0 l o) Config.gangOverflowVa s1 else s1

/-- R322: operators of the window issue, in program order. -/
def issuePass (s : State) : State :=
  match s.die.seq.run with
  | none => s
  | some l => (l.opers.map (·.id)).foldl (fun st i => issueOne i st) s

/-- R318: the program has ended and every operator has completed. -/
def finishRun (s : State) : State :=
  match s.die.seq.run with
  | some l => if l.ended && l.opers.isEmpty then upSeq (fun q => { q with busy := false, run := none }) s else s
  | none => s
def seqAfter (s : State) : State := finishRun (issuePass s)

/-- The instruction at the pc, when it has an opcode. -/
def onBc (op : Nat) (f : Launch → BcIns → State → State) (s : State) : State :=
  match nextBc s with
  | some (l, some i) => if i.op = op then seqAfter (f l i s) else s
  | _ => s

/-! ## Structural operators (R318) -/

/-- BYTECODE_NOP; also the step in which an undefined opcode or a wrong length raises DECODE (R317). -/
def evBytecodeNop (s : State) : State :=
  match nextBc s with
  | some (l, none) => operRaise 10 l.pc (leAt l.prog.code l.pc 1) 0 0 0 s
  | _ => onBc 0x00 (fun l i st => upRun (setPc (pastIns l i)) st) s

def evEndOp (s : State) : State := onBc 0x01 (fun l i st => upRun (fun x => { setPc (pastIns l i) x with ended := true }) st) s

/-- DIM: waits until SA is READY and its element can be read. A tensor that is not INT32: DESIGN CHOICE, log entry 104. -/
def doDim (l : Launch) (i : BcIns) (s : State) : State :=
  match storedAt l i.bc.sa with
  | none => decodeRaise 8 l i i.bc.sa s
  | some t =>
    match viewOf l (seqRank s) t with
    | none => s
    | some v =>
      if t.fmt ≠ 2 then decodeRaise 4 l i i.bc.sa s
      else if !(holdOf l t.entry).isReady then s
      else
        let c := unlinear v.dims (attrBits i.bc 1 0 32)
        if !seqReadable s (seqIas l.prog.off (v.va + BitVec.ofNat 64 (4 * v.index c)) 4) then s
        else
          let x := elemBits s l.prog.off v c
          if x.testBit 31 then decodeRaise 4 l i i.bc.sa s
          else upRun (fun r => { setPc (pastIns l i) r with symbols := r.symbols.set (i.bc.dst.extractLsb' 0 8).toFin (BitVec.ofNat 64 x) }) s
def evDim (s : State) : State := onBc 0x02 doDim s

/-- VIEW. -/
def doView (l : Launch) (i : BcIns) (s : State) : State :=
  match storedAt l i.bc.sa, tensorAt l i.bc.dst with
  | none, _ => decodeRaise 8 l i i.bc.sa s
  | _, none => decodeRaise 8 l i i.bc.dst s
  | some a, some d =>
    let offs := (attrN i.bc 1).toNat
    let (va, n) := a.storage.getD (0, 0)
    let d' := { d with
      storage := some (va + BitVec.ofNat 64 offs, n - offs), entry := a.entry, mode := a.mode, axis := a.axis, blkAxis := 0
      blocks := 1, whole := a.whole, pageRows := a.pageRows }
    match viewOf l (seqRank s) d' with
    | none => s
    | some v =>
      if n < offs + v.span then decodeRaise 4 l i i.bc.dst s
      else upRun (fun r => setPc (pastIns l i) (setTensor i.bc.dst d' r)) s
def evView (s : State) : State := onBc 0x03 doView s

/-- ALLOC, for a dynamic tensor; for another the cause HANDLE (DESIGN CHOICE, log entry 104). -/
def doAlloc (l : Launch) (i : BcIns) (s : State) : State :=
  match tensorAt l i.bc.dst with
  | none => decodeRaise 8 l i i.bc.dst s
  | some t =>
    if t.buf ≠ 0xFFFF then decodeRaise 8 l i i.bc.dst s
    else
      let n := ((viewOf l (seqRank s) { t with storage := some (0, 0), blocks := 1, whole := false }).map View.span).getD 0
      match wsAlloc n 64 l with
      | none => decodeRaise 1 l i i.bc.dst s
      | some (va, l') =>
        let t' := { t with storage := some (va, n), entry := i.bc.dst.toNat, blocks := 1, whole := false }
        upRun (fun _ => setPc (pastIns l i) (setHold i.bc.dst.toNat .empty (setTensor i.bc.dst t' l'))) s
def evAlloc (s : State) : State := onBc 0x04 doAlloc s

/-- FREE: waits until the readers and writers are 0 and no operator of the window names the handle. -/
def doFree (l : Launch) (i : BcIns) (s : State) : State :=
  match storedAt l i.bc.dst with
  | none => decodeRaise 8 l i i.bc.dst s
  | some t =>
    if !(holdOf l t.entry).quiet || l.opers.any (fun o => o.reads.contains t.entry || o.writes.contains t.entry) then s
    else
      let va := (t.storage.getD (0, 0)).1
      let own := t.buf == 0xFFFF && t.entry == i.bc.dst.toNat
      upRun (fun r => setPc (pastIns l i) (setHold t.entry .empty (setTensor i.bc.dst { t with storage := none }
        (if own then wsFree va r else r)))) s
def evFree (s : State) : State := onBc 0x05 doFree s

/-- The address past the ENDLOOP that closes a body. An ENDLOOP without a LOOP, and a LOOP of 0 without an ENDLOOP: DESIGN CHOICE, log
entry 104. -/
def pastLoop (recipes : List (BitVec 8 × List W64)) (code : List Byte) : Nat → Nat → Nat → Option Nat
  | 0, _, _ => none
  | n + 1, depth, pc =>
    match bcAt recipes code pc with
    | none => none
    | some i =>
      let next := pc + 8 * i.words
      if i.op = 0x06 then pastLoop recipes code n (depth + 1) next
      else if i.op = 0x07 then (if depth = 0 then some next else pastLoop recipes code n (depth - 1) next)
      else pastLoop recipes code n depth next

def doLoop (l : Launch) (i : BcIns) (s : State) : State :=
  let a := attrN i.bc 1
  let n := if a.getLsbD 63 then (l.symbols.get (a.extractLsb' 0 8).toFin).toNat else (a.extractLsb' 0 32).toNat
  if n = 0 then
    match pastLoop l.prog.recipes l.prog.code l.prog.code.length 0 (pastIns l i) with
    | some pc => upRun (setPc pc) s
    | none => decodeRaise 10 l i 0 s
  else if 8 ≤ l.loopStack.length then decodeRaise 9 l i 0 s
  else upRun (fun r => { setPc (pastIns l i) r with loopStack := (pastIns l i, n) :: r.loopStack }) s
def evLoop (s : State) : State := onBc 0x06 doLoop s

def doEndloop (l : Launch) (i : BcIns) (s : State) : State :=
  match l.loopStack with
  | [] => decodeRaise 9 l i 0 s
  | (body, n) :: rest =>
    if 1 < n then upRun (fun r => { setPc body r with loopStack := (body, n - 1) :: rest }) s
    else upRun (fun r => { setPc (pastIns l i) r with loopStack := rest }) s
def evEndloop (s : State) : State := onBc 0x07 doEndloop s

/-- The address that BRZ, BRNZ and CALL name: the instruction's own, plus attr[31:0] words. -/
def bcTarget (l : Launch) (i : BcIns) : Nat := ((l.pc : Int) + sextInt (attrBits i.bc 1 0 32) 32 * 8).toNat
def doBranch (zero : Bool) (l : Launch) (i : BcIns) (s : State) : State :=
  let x := l.symbols.get (i.bc.dst.extractLsb' 0 8).toFin
  upRun (setPc (if (x == 0) == zero then bcTarget l i else pastIns l i)) s
def evBrz (s : State) : State := onBc 0x08 (doBranch true) s
def evBrnz (s : State) : State := onBc 0x09 (doBranch false) s

def doCall (l : Launch) (i : BcIns) (s : State) : State :=
  if 16 ≤ l.callStack.length then decodeRaise 9 l i 0 s
  else upRun (fun r => { setPc (bcTarget l i) r with callStack := pastIns l i :: r.callStack }) s
def evCall (s : State) : State := onBc 0x0A doCall s
def doBcRet (l : Launch) (i : BcIns) (s : State) : State :=
  match l.callStack with
  | [] => decodeRaise 9 l i 0 s
  | pc :: rest => upRun (fun r => { setPc pc r with callStack := rest }) s
def evBytecodeRet (s : State) : State := onBc 0x0B doBcRet s

/-- FUSE: the fused recipes are firmware's, and each destination is written as without FUSE. -/
def evFuse (s : State) : State := onBc 0x0C (fun l i st => upRun (setPc (pastIns l i)) st) s

def evSync (s : State) : State :=
  onBc 0x0E (fun l i st => if l.opers.isEmpty then upRun (setPc (pastIns l i)) st else st) s

/-! ## Lowering (R327) -/

/-- A collective that brings a source into the form the operator needs: OP (R179) and its axis. A KCALL or a customer operator works on what
its agent holds (log entry 29). -/
def lowerOf (op : Nat) (bc : BcWord) (i : Nat) (t : Tensor) (dst : Option Tensor) (onK : Bool) : Option (Nat × Nat) :=
  let split := match dst with | some d => if d.mode = 1 then some d.axis else none | none => none
  if op = 0x34 then none
  else if t.mode = 2 then
    match split.bind fun ax => (List.range t.rank).find? fun a => axisMap op bc t.rank i a == some ax with
    | some a => some (1, a)
    | none => if (op = 0x20 ∨ op = 0x21) ∧ (attrN bc 1).getLsbD 2 then none else some (0, 0)
  else if t.mode = 1 ∧ !t.whole then
    let whole := match axisMap op bc t.rank i t.axis with | some a => !(split == some a) | none => true
    if (onK && decide (i < 3)) || op = 0x36 || decide (0x80 ≤ op) || !whole then none else some (2, t.axis)
  else none

/-- R179, R327: TYPE of a reduction. -/
def redType (fmt : Nat) : Option Nat :=
  match fmt with
  | 5 => some 0
  | 3 => some 1
  | 2 => some 2
  | _ => none

/-- The descriptor of an inserted collective on n ranks: w0, COUNT, and the arrangement of its source. -/
def planOf (group : BitVec 8) (n : Nat) (k : Nat) (ax : Nat) (v : View) : Option CollPlan :=
  let w0 := fun (ty : Nat) => BitVec.ofNat 64 (group.toNat * 2 ^ 16 + ty * 2 ^ 12 + k)
  let slice := v.span / Nat.max n 1
  match k with
  | 0 => (redType v.fmt).map fun ty => ⟨w0 ty, product v.held, none⟩
  | 1 => (redType v.fmt).map fun ty => ⟨w0 ty, product v.held / Nat.max n 1, some (ax, n)⟩
  | 2 => some (if v.span % 4 = 0 then ⟨w0 2, v.span / 4, none⟩ else ⟨w0 1, v.span / 2, none⟩)
  | _ => some (if slice % 4 = 0 then ⟨w0 2, slice / 4, some (ax, n)⟩ else ⟨w0 1, slice / 2, some (ax, n)⟩)

/-- The tensor that an inserted collective fills. -/
def loweredTensor (n k ax : Nat) (t : Tensor) (st : W64 × Nat) (entry : Nat) : Tensor :=
  let base := { t with storage := some st, entry := entry, blkAxis := 0, blocks := 1, whole := false }
  match k with
  | 0 => { base with mode := 0 }
  | 1 => { base with mode := 1, axis := ax }
  | 2 => { base with mode := 0, blkAxis := ax, blocks := n }
  | _ => { base with mode := 1, axis := ax, blkAxis := t.axis, blocks := n }

def newOper (id addr op : Nat) (bc : BcWord) (views : List (Option View)) (reads writes : List Nat) : Oper :=
  { id := id, addr := addr, op := op, bc := bc, views := views, reads := reads, writes := writes, issued := false, held := false
    ran := false, block := 0, operands := 0, recipe := [], pos := 0, loops := [], q := Vector.replicate 16 0, temps := []
    colls := [], plan := none, badIndex := false, asked := [] }

/-- The code of an inserted collective among the operators. -/
def collCode : Nat := 0x100

/-- The words of an inserted collective: no attributes of its own. -/
def plainBc : BcWord := ⟨0, 0, 0, false, false, false, []⟩

/-- A collective inserted on a tensor: what becomes of the program, and the tensor it fills; or the cause. -/
def insertColl (rank addr k ax : Nat) (t : Tensor) (l : Launch) : Except Nat (Launch × Tensor) :=
  let n := l.prog.agents
  match viewOf l rank t with
  | none => .error 8
  | some v =>
    match planOf l.prog.group n k ax v with
    | none => .error 4
    | some plan =>
      let entry := l.scoreboard.length
      let size := ((viewOf l rank (loweredTensor n k ax t (0, 0) entry)).map View.span).getD 0
      match wsAlloc size 64 l with
      | none => .error 1
      | some (va, l1) =>
        let t' := loweredTensor n k ax t (va, size) entry
        let o := { newOper l.nextOp addr collCode plainBc [viewOf l rank t', some v] [t.entry] [entry] with plan := some plan }
        .ok ({ l1 with scoreboard := l1.scoreboard ++ [.empty], opers := l1.opers ++ [o], nextOp := l1.nextOp + 1 }, t')

/-- SHARD: DST takes its new form; where data must move, a collective fills a temporary that is its storage from then on. A SHARD to
partial sums: DESIGN CHOICE, log entry 104. -/
def doShard (l : Launch) (i : BcIns) (s : State) : State :=
  match storedAt l i.bc.dst with
  | none => decodeRaise 8 l i i.bc.dst s
  | some t =>
    let mode : BitVec 2 := (attrN i.bc 1).extractLsb' 0 2
    let ax := attrBits i.bc 1 2 3
    let same := t.mode == mode && (mode != 1 || t.axis == ax)
    let kind : Option Nat :=
      if same || l.prog.agents ≤ 1 then none
      else if t.mode = 1 ∧ !t.whole then (if mode = 0 then some 2 else if mode = 1 then some 3 else none)
      else if t.mode = 2 then (if mode = 0 then some 0 else if mode = 1 then some 1 else none)
      else none
    if mode = 2 && !same then decodeRaise 4 l i i.bc.dst s
    else match kind with
      | none =>
        let t' := { t with mode := mode, axis := ax, whole := mode == 1 && (t.mode != 1 || t.whole) }
        upRun (fun r => setPc (pastIns l i) (setTensor i.bc.dst (if same then t else t') r)) s
      | some k =>
        if 64 ≤ (l.opers.filter fun o => !o.issued).length then s
        else match insertColl (seqRank s) l.pc k (if k = 2 then t.axis else ax) t l with
          | .error e => decodeRaise e l i i.bc.dst s
          | .ok (l', t') => upRun (fun _ => setPc (pastIns l i) (setTensor i.bc.dst t' l')) s
def evShard (s : State) : State := onBc 0x0D doShard s

/-! ## Tensor operators enter the window (R322) -/

/-- Handles that an operator's attribute words name, from view 3 on: whether it reads and whether it writes each. -/
def attrHandles (recipes : List (BitVec 8 × List W64)) (op : Nat) (bc : BcWord) : List (BitVec 16 × Bool × Bool) :=
  let h := fun (n lo : Nat) => (attrN bc n).extractLsb' lo 16
  match op with
  | 0x26 => (h 1 16, true, false) :: (if (attrN bc 1).getLsbD 0 then [] else [(h 1 32, true, false)])
  | 0x2C => [(h 1 16, false, true)]
  | 0x2D => [(h 1 0, true, false), (h 1 16, true, false)]
  | 0x2E => [(h 1 0, true, true), (h 2 0, true, false)]
  | 0x2F => [(h 1 0, true, false)]
  | 0x31 => [(h 1 16, false, true)]
  | _ => ((recipeOf recipes op).getD []).filterMap fun w => if rwOp w = 5 then some (h (rwAttr w) 0, false, true) else none

/-- Roles an operator must have: DST, SA, SB. -/
def needsRole (op i : Nat) : Bool :=
  if 0x36 ≤ op then false
  else if i = 2 then [0x20, 0x21, 0x22, 0x27, 0x28, 0x2A, 0x2E, 0x2F, 0x32, 0x33].contains op
  else true

/-- Every handle an operator names, by view number, with its reads and writes. -/
def handlesOf (recipes : List (BitVec 8 × List W64)) (i : BcIns) : List (BitVec 16 × Bool × Bool) :=
  [(i.bc.dst, false, true), (i.bc.sa, true, false), (i.bc.sb, true, false)] ++ attrHandles recipes i.op i.bc

/-- A MATMUL whose A and B are both split on K (R327). -/
def splitOnK (i : BcIns) (a b : Option Tensor) : Bool :=
  let f := fun (k : Nat) => (attrN i.bc 1).getLsbD k
  match a, b with
  | some x, some y => (i.op == 0x20 || i.op == 0x21) && x.mode == 1 && y.mode == 1 && x.axis == (if f 0 then 1 else 0)
      && y.axis == (if f 1 then 0 else 1)
  | _, _ => false

/-- The sources after lowering, in view order. -/
def lowerSources (rank : Nat) (i : BcIns) (dst : Option Tensor) (onK : Bool) (addr : Nat) :
    Nat → List (Option Tensor) → Launch → Except Nat (Launch × List (Option Tensor))
  | _, [], l => .ok (l, [])
  | n, none :: ts, l =>
    match lowerSources rank i dst onK addr (n + 1) ts l with
    | .ok (l', ts') => .ok (l', none :: ts')
    | .error e => .error e
  | n, some t :: ts, l =>
    let step : Except Nat (Launch × Tensor) :=
      if l.prog.agents ≤ 1 then .ok (l, t)
      else match lowerOf i.op i.bc n t dst onK with
        | none => .ok (l, t)
        | some (k, ax) => insertColl rank addr k ax t l
    match step with
    | .error e => .error e
    | .ok (l1, t1) =>
      match lowerSources rank i dst onK addr (n + 1) ts l1 with
      | .ok (l2, ts') => .ok (l2, some t1 :: ts')
      | .error e => .error e

/-- The temporaries that lowering has added for an operator: it frees them when it completes. -/
def addedTemps (before after : Launch) : List (W64 × Nat) := after.wsUsed.drop before.wsUsed.length

/-- R328: a pool keeps its rows per page: DISPATCH's, or those of the pool that its pages are made from. -/
def notePool (i : BcIns) (l : Launch) : Launch :=
  match tensorAt l i.bc.dst with
  | none => l
  | some t =>
    let from1 := ([i.bc.sa, i.bc.sb].filterMap (tensorAt l)).find? fun x => x.layout == 3 && x.pageRows != 0
    if i.op = 0x32 then setTensor i.bc.dst { t with pageRows := (attrN i.bc 2).toNat } l
    else match from1 with
      | some x => if t.layout = 3 then setTensor i.bc.dst { t with pageRows := x.pageRows } l else l
      | none => l

/-- R322: the operator at the pc enters the window, behind the collectives that its sources and its result need (R327). -/
def enterOper (l0 : Launch) (i : BcIns) (s : State) : State :=
  let l := notePool i l0
  let hs := handlesOf l.prog.recipes i
  let rank := seqRank s
  let missing := hs.zipIdx.find? fun h => if h.1.1 = 0 then needsRole i.op h.2 else (storedAt l h.1.1).isNone
  if 64 ≤ (l.opers.filter fun o => !o.issued).length then s
  else match missing with
    | some (h, _) => decodeRaise 8 l i h.1 s
    | none =>
      let ts := hs.map fun h => storedAt l h.1
      let dst := ts.getD 0 none
      let onK := splitOnK i (ts.getD 1 none) (ts.getD 2 none)
      let sources := ((ts.zip hs).map fun x => if x.2.2.1 && !x.2.2.2 then x.1 else none).drop 1
      match lowerSources rank i dst onK l.pc 1 sources l with
      | .error e => decodeRaise e l i i.bc.dst s
      | .ok (l1, src) =>
        let all := dst :: (src.zip (ts.drop 1)).map fun x => x.1 <|> x.2
        let partialC := onK && decide (1 < l.prog.agents) && (match dst with | some d => d.mode != 2 | none => false)
        let entriesOf := fun (want : Bool × Bool → Bool) => (all.zip hs).filterMap fun x =>
          match x.1 with | some t => if want x.2.2 then some t.entry else none | none => none
        let reads := entriesOf (·.1)
        let writes := (entriesOf (·.2)).eraseDups
        let views := all.map fun t => t.bind (viewOf l1 rank)
        if !partialC then
          let o := { newOper l1.nextOp l.pc i.op i.bc views reads writes with temps := addedTemps l l1 }
          upRun (fun _ => setPc (pastIns l i) { l1 with opers := l1.opers ++ [o], nextOp := l1.nextOp + 1 }) s
        else match dst with
          | none => s
          | some d =>
            let entry := l1.scoreboard.length
            let p0 := { d with mode := 2, storage := some (0, 0), entry := entry, blocks := 1, whole := false }
            match wsAlloc (((viewOf l1 rank p0).map View.span).getD 0) 64 l1 with
            | none => decodeRaise 1 l i i.bc.dst s
            | some (va, l2) =>
              let p := { p0 with storage := some (va, ((viewOf l1 rank p0).map View.span).getD 0) }
              let pv := viewOf l2 rank p
              let k := if d.mode = 1 then 1 else 0
              match pv.bind (planOf l.prog.group l.prog.agents k d.axis) with
              | none => decodeRaise 4 l i i.bc.dst s
              | some plan =>
                let dv := viewOf l2 rank d
                let cIn := (attrN i.bc 1).getLsbD 2
                let o := { newOper l2.nextOp l.pc i.op i.bc ([pv] ++ views.drop 1 ++ (if cIn then [dv] else []))
                    (reads ++ (if cIn then [d.entry] else [])) [entry] with temps := addedTemps l l1 }
                let c := { newOper (l2.nextOp + 1) l.pc collCode plainBc [dv, pv] [entry] [d.entry] with
                  plan := some plan, temps := [(va, 0)] }
                upRun (fun _ => setPc (pastIns l i) { l2 with
                  scoreboard := l2.scoreboard ++ [.empty], opers := l2.opers ++ [o, c], nextOp := l2.nextOp + 2 }) s

/-! ## Execution -/

/-- BYTECODE_NOP (R318): the step of this name, on what is in s.arg. -/
def execBytecodeNop (s : State) : Host.Outcome State Fault Refusal := .next (evBytecodeNop s)
/-- END (R318): the step of this name, on what is in s.arg. -/
def execEndOp (s : State) : Host.Outcome State Fault Refusal := .next (evEndOp s)
/-- DIM (R318): the step of this name, on what is in s.arg. -/
def execDim (s : State) : Host.Outcome State Fault Refusal := .next (evDim s)
/-- VIEW (R318): the step of this name, on what is in s.arg. -/
def execView (s : State) : Host.Outcome State Fault Refusal := .next (evView s)
/-- ALLOC (R318): the step of this name, on what is in s.arg. -/
def execAlloc (s : State) : Host.Outcome State Fault Refusal := .next (evAlloc s)
/-- FREE (R318): the step of this name, on what is in s.arg. -/
def execFree (s : State) : Host.Outcome State Fault Refusal := .next (evFree s)
/-- LOOP (R318): the step of this name, on what is in s.arg. -/
def execLoop (s : State) : Host.Outcome State Fault Refusal := .next (evLoop s)
/-- ENDLOOP (R318): the step of this name, on what is in s.arg. -/
def execEndloop (s : State) : Host.Outcome State Fault Refusal := .next (evEndloop s)
/-- BRZ (R318): the step of this name, on what is in s.arg. -/
def execBrz (s : State) : Host.Outcome State Fault Refusal := .next (evBrz s)
/-- BRNZ (R318): the step of this name, on what is in s.arg. -/
def execBrnz (s : State) : Host.Outcome State Fault Refusal := .next (evBrnz s)
/-- CALL (R318): the step of this name, on what is in s.arg. -/
def execCall (s : State) : Host.Outcome State Fault Refusal := .next (evCall s)
/-- BYTECODE_RET (R318): the step of this name, on what is in s.arg. -/
def execBytecodeRet (s : State) : Host.Outcome State Fault Refusal := .next (evBytecodeRet s)
/-- FUSE (R318): the step of this name, on what is in s.arg. -/
def execFuse (s : State) : Host.Outcome State Fault Refusal := .next (evFuse s)
/-- SHARD (R318): the step of this name, on what is in s.arg. -/
def execShard (s : State) : Host.Outcome State Fault Refusal := .next (evShard s)
/-- SYNC (R318): the step of this name, on what is in s.arg. -/
def execSync (s : State) : Host.Outcome State Fault Refusal := .next (evSync s)

end Sys2Proof.Machine
end

