-- ==== Sys2Proof/Machine/SeqRun.lean ====
section
/-! DEFINITION. The tensor operators, the recipes, and the completion of operators (R319 to R326, R395). Each tensor operator's
step, without b, takes the operator at the pc into the window; with b and n it does the tile work of the issued operator n. -/
namespace Sys2Proof.Machine

/-! ## Counters and notices (R323) -/

/-- The counter of an operator changes; at zero its notice is queued. -/
def addCounter (off : W64) (o : Oper) (d : Int) (s : State) : State :=
  let x := ((seqWord s off o.block).toNat : Int) + d
  let s1 := seqPut off o.block (toBytes 8 (wrapInt x 64)) s
  if x = 0 then upSeq (fun q => { q with notices := q.notices ++ [o.block] }) s1 else s1
/-- R325: every task emitted so far has ended: the counter holds the sequencer's own count and that of its collectives. -/
def tasksEnded (s : State) (off : W64) (o : Oper) : Bool := seqWord s off o.block == BitVec.ofNat 64 (1 + o.colls.length)

/-- The issued operator n, whose work has not been done. -/
def liveOper (s : State) : Option (Launch × Oper) :=
  match s.die.seq.run with
  | none => none
  | some l => match operById l s.arg.n with
    | some o => if o.issued && !o.ran && seqGoes s then some (l, o) else none
    | none => none

/-! ## Tile work of the built-in operators (R319, R320) -/

/-- The bytes an operator's views take; of a page pool or a block table, all of its storage. -/
def operIas (off : W64) (o : Oper) : List Nat :=
  (o.views.filterMap id).flatMap fun v => if v.layout < 2 then v.ias off else seqIas off v.va v.bytes

/-- R97: what an operator asks of the other die's controller is sent, once. -/
def sendAsks (l : Launch) (o : Oper) (s : State) : State :=
  let asks := farAsks s l.prog.off o
  asks.foldl (fun st x => st.send x.2.2) (upRun (setOper { o with asked := asks.map fun x => (x.1, x.2.1, none) }) s)
/-- The other die's controller answers the k-th question of operator n: m, the CAUSE.CODE of what fails, or 0 with bytes. -/
def farAnswer (s : State) : State :=
  match liveOper s with
  | none => s
  | some (_, o) => upRun (setOper { o with asked := o.asked.zipIdx.map fun x =>
      if x.2 = s.arg.k && x.1.2.2.isNone then (x.1.1, x.1.2.1, some (s.arg.m, s.arg.bytes)) else x.1 }) s

/-- The tile work of a built-in operator: its operands are read, its result is written, and its counter falls to zero. -/
def tileWork (op : Nat) (f : State → W64 → Oper → OpOut) (s : State) : State :=
  match liveOper s with
  | none => s
  | some (l, o) =>
    let off := l.prog.off
    let ias := operIas off o
    if o.op ≠ op ∨ !seqReadable s ias ∨ !seqWritable s off o.block 128 then s
    else if engBad s ias then operRaise 11 o.addr o.op 0 0 (BitVec.ofNat 64 Cause.memError.code) s
    else if o.asked.isEmpty && !(farAsks s off o).isEmpty then sendAsks l o s
    else if o.asked.any fun x => x.2.2.isNone then s
    else
      let r := f s off o
      match r.cause with
      | some k => operRaise k o.addr o.op o.bc.dst.toNat 0 0 s
      | none =>
        if !engAllWritable s (r.cells.map (·.1)) then s
        else addCounter off o (-1) (upRun (setOper { o with ran := true, badIndex := r.badIndex })
          (engWrite 0 r.cells (useUnc 0 ias (r.post s))))

/-- A tensor operator's step. -/
def onOper (op : Nat) (f : State → W64 → Oper → OpOut) (s : State) : State :=
  if s.arg.b then tileWork op f s else onBc op enterOper s

/-- A result given element by element. -/
def byElem (f : State → W64 → Oper → List Nat → Nat) (s : State) (off : W64) (o : Oper) : OpOut :=
  .of (viewCells s off (vw o 0) (f s off o))

def evMatmul (s : State) : State := onOper 0x20 matmulOut s
def evBmatmul (s : State) : State := onOper 0x21 matmulOut s
def evConv (s : State) : State := onOper 0x22 (byElem convElem) s
def evEwise (s : State) : State := onOper 0x23 (byElem ewiseElem) s
def evReduce (s : State) : State := onOper 0x24 (byElem reduceElem) s
def evSoftmax (s : State) : State := onOper 0x25 (byElem softmaxElem) s
def evNorm (s : State) : State := onOper 0x26 (byElem normElem) s
def evGather (s : State) : State := onOper 0x27 gatherOut s
def evScatter (s : State) : State := onOper 0x28 scatterOut s
def evPermute (s : State) : State := onOper 0x29 (byElem permuteElem) s
def evConcat (s : State) : State := onOper 0x2A (byElem concatElem) s
def evConvert (s : State) : State := onOper 0x2B (byElem convertElem) s
def evQuant (s : State) : State := onOper 0x2C quantOut s
def evAttend (s : State) : State := onOper 0x2D attendOut s
def evKvappend (s : State) : State := onOper 0x2E kvappendOut s
/-- SCAN, STATEOP; with b and x = 1 the other die's controller answers the k-th question of operator n (R97). -/
def evScan (s : State) : State := if s.arg.b && s.arg.x == 1 then farAnswer s else onOper 0x2F scanOut s
def evStateop (s : State) : State := if s.arg.b && s.arg.x == 1 then farAnswer s else onOper 0x30 stateopOut s
def evRoute (s : State) : State := onOper 0x31 routeOut s

def evDispatch (s : State) : State := onOper 0x32 dispatchOut s
def evCombine (s : State) : State := onOper 0x33 combineOut s
def evCopy (s : State) : State := onOper 0x35 copyOut s

/-! ## Collectives of the sequencer (R319, R325, R327) -/

/-- A window over every VA of the program, with the OFF of its windows on this agent. -/
def seqWin (off : W64) : Vector W64 24 :=
  ((Vector.replicate 24 (0 : W64)).set 1 0x000FFFFFFFFF001F).set 2 (off &&& 0x00FFFFFFFFFF0000)
/-- R282, R325: the C-syllable code of a group's scope: of one agent the die, of a package the package, else the pod. -/
def groupScope (s : State) (w0 : W64) : BitVec 2 :=
  match groupOf s (w0.extractLsb' 16 8) with
  | some g =>
    if g.members.all (· == s.core.agent) then 1
    else if g.members.all fun a => a.extractLsb' 1 9 == s.core.agent.extractLsb' 1 9 then 2 else 3
  | none => 3
/-- R325: a post without a signal, of the sequencer, with release at its group's scope. -/
def seqPost (s : State) (w0 off desc : W64) : CollPost :=
  { arm := false, desc := desc, flag := 0, ext := 0, ord := 2, sc := groupScope s w0, win := seqWin off, phys := false, agent := s.core.agent
    seq := 0, live := false, syl := 0, slotVa := 0 }
def descBytes (w0 src dst : W64) (n : Nat) : List Byte :=
  toBytes 8 w0.toNat ++ toBytes 8 src.toNat ++ toBytes 8 dst.toNat ++ toBytes 8 (n % 2 ^ 40) ++ toBytes 32 0

/-- A descriptor is written and posted; the operator's counter covers it until DONE. none: its line cannot be written yet. -/
def postColl (l : Launch) (o : Oper) (w0 src dst : W64) (n : Nat) (s : State) : Option State :=
  match wsAlloc 64 64 l with
  | none => some (operRaise 1 o.addr o.op 0 0 0 s)
  | some (desc, l1) =>
    let off := l.prog.off
    if !seqWritable s off desc 64 || !seqWritable s off o.block 128 then none
    else
      let s1 := seqPut off desc (descBytes w0 src dst n) (upRun (fun _ => setOper { o with colls := o.colls ++ [desc] } l1) s)
      some (addColl (newColl (seqPost s w0 off desc)) (addCounter off o 1 s1))

/-- R327: the bytes of a tensor's slices along an axis, one rank's after another. -/
def arranged (s : State) (off : W64) (v : View) (ax n : Nat) : List Byte :=
  let per := v.held.getD ax 1 / Nat.max n 1
  let ds := v.held.set ax per
  (List.range n).flatMap fun r =>
    let xs := (List.range (product ds)).map fun i =>
      let c := unlinear ds i
      let h := c.set ax (c.getD ax 0 + r * per)
      elemBits s off v (h.set v.axis (h.getD v.axis 0 + v.first))
    let w := fmtBits v.fmt
    toBytes ((xs.length * w + 7) / 8) (xs.foldr (fun x acc => acc * 2 ^ w + x) 0)

/-- R319: COUNT of a COLLECTIVE from SA's size, as its OP defines it (log entry 28). -/
def collCount (w0 : W64) (ranks bytes : Nat) : Nat :=
  let n := bytes / (if (w0.extractLsb' 12 4).toNat = 1 then 2 else 4)
  let op := (w0.extractLsb' 0 8).toNat
  if op = 1 ∨ op = 3 then n / Nat.max ranks 1 else n

/-- The plan of a collective operator. -/
def planFor (s : State) (o : Oper) : CollPlan :=
  match o.plan with
  | some p => p
  | none =>
    let w0 := attrN o.bc 1
    let n := match groupOf s (w0.extractLsb' 16 8) with | some g => g.members.length | none => 1
    ⟨w0, collCount w0 n (vw o 1).span, none⟩

/-- The work of a COLLECTIVE or of an inserted collective: its source arranged where it must be, then the post. -/
def collWork (s : State) : State :=
  match liveOper s with
  | none => s
  | some (l, o) =>
    if o.op ≠ 0x34 ∧ o.op ≠ collCode then s
    else
      let off := l.prog.off
      let p := planFor s o
      let ran := fun (st : State) => upRun (fun r => match operById r o.id with
        | some x => setOper { x with ran := true } r
        | none => r) st
      match p.arrange with
      | none =>
        match postColl l o p.w0 (vw o 1).va (vw o 0).va p.count s with
        | some t => if t.die.seq.raised.isEmpty then addCounter off o (-1) (ran t) else t
        | none => s
      | some (ax, n) =>
        let ias := (vw o 1).ias off
        match wsAlloc (vw o 1).span 64 l with
        | none => operRaise 1 o.addr o.op 0 0 0 s
        | some (tmp, l1) =>
          if !seqReadable s ias || !seqWritable s off tmp (vw o 1).span then s
          else if engBad s ias then operRaise 11 o.addr o.op 0 0 (BitVec.ofNat 64 Cause.memError.code) s
          else
            let o1 := { o with temps := o.temps ++ [(tmp, (vw o 1).span)] }
            let l2 := setOper o1 l1
            let s1 := seqPut off tmp (arranged s off (vw o 1) ax n) (useUnc 0 ias (upRun (fun _ => l2) s))
            match postColl l2 o1 p.w0 tmp (vw o 0).va p.count s1 with
            | some t => if t.die.seq.raised.isEmpty then addCounter off o (-1) (ran t) else t
            | none => s
/-- COLLECTIVE; with b also the work of a collective that the lowering of R327 has inserted. -/
def evCollective (s : State) : State := if s.arg.b then collWork s else onBc 0x34 enterOper s

/-- KCALL enters the window; so does an operator with a customer opcode (R315), whose recipe the recipe steps run. -/
def evKcall (s : State) : State :=
  match nextBc s with
  | some (_, some i) => if i.op = 0x36 ∨ 0x80 ≤ i.op then onBc i.op enterOper s else s
  | _ => s

/-! ## Recipes (R324 to R326). Each step runs the next word of the issued operator n, when that word is its own. -/

/-- A recipe word's step on an operator. -/
def onWord (code : Nat) (f : Launch → Oper → W64 → State → State) (s : State) : State :=
  match liveOper s with
  | none => s
  | some (l, o) => match o.recipe[o.pos]? with
    | some w => if rwOp w = code then seqAfter (f l o w s) else s
    | none => s
def setQ (i : Nat) (x : W64) (o : Oper) : Oper := { o with q := o.q.setIfInBounds i x }
def getQ (o : Oper) (i : Nat) : W64 := o.q.getD i 0
def nextWord (o : Oper) : Oper := { o with pos := o.pos + 1 }
def putOper (o : Oper) (s : State) : State := upRun (setOper o) s

/-- A dimension of a role, as this agent holds it (log entry 29). -/
def roleDim (o : Oper) (role d : Nat) : Nat := (vw o role).own.getD d 0

/-- The word after the ENDR that closes a loop. -/
def pastEndr (recipe : List W64) : Nat → Nat → Nat → Nat
  | 0, _, p => p
  | n + 1, depth, p =>
    match recipe[p]? with
    | none => p
    | some w =>
      if rwOp w = 0 then pastEndr recipe n (depth + 1) (p + 1)
      else if rwOp w = 9 then (if depth = 0 then p + 1 else pastEndr recipe n (depth - 1) (p + 1))
      else pastEndr recipe n depth (p + 1)

def doLoopr (_ : Launch) (o : Oper) (w : W64) (s : State) : State :=
  let step := Nat.max (w.extractLsb' 32 16).toNat 1
  let n := if rwKind w = 0 then (w.extractLsb' 0 32).toNat
    else (roleDim o (rwRole w) (w.extractLsb' 49 3).toNat + step - 1) / step
  if n = 0 then putOper { o with pos := pastEndr o.recipe o.recipe.length 0 (o.pos + 1) } s
  else if 4 ≤ o.loops.length then operRaise 5 o.addr o.op 0 0 0 s
  else putOper { nextWord (setQ (rwQ w % 8) 0 o) with loops := (o.pos, rwQ w % 8, n) :: o.loops } s
def evLoopr (s : State) : State := onWord 0 doLoopr s

def doTile (_ : Launch) (o : Oper) (w : W64) (s : State) : State :=
  let part := fun (k : Nat) =>
    let c := (w.extractLsb' (4 * k) 4).toNat
    if c < 8 then (getQ o c).toNat % 2 ^ 16 * 2 ^ (16 * k) else 0
  putOper (nextWord (setQ (rwQ w) (BitVec.ofNat 64 (part 0 + part 1 + part 2 + part 3)) o)) s
def evTile (s : State) : State := onWord 1 doTile s

def doBind (_ : Launch) (o : Oper) (w : W64) (s : State) : State :=
  let x : W64 := match rwKind w with
    | 0 => if rwRole w = 3 then o.operands else if hasView o (rwRole w) then (vw o (rwRole w)).va else 0
    | 1 => attrN o.bc (rwAttr w)
    | 2 => sext64 (w.extractLsb' 0 32).toNat 32
    | _ => BitVec.ofNat 64 (roleDim o (rwRole w) (rwAttr w))
  putOper (nextWord (setQ (rwQ w) x o)) s
def evBind (s : State) : State := onWord 2 doBind s

/-- R395: the rank of a grid point of a gang KCALL, and the scope that a program group of several agents needs. -/
def pointRank (s : State) (bc : BcWord) (tile : W64) : Nat :=
  let f := fun (lo : Nat) => (tile.extractLsb' lo 16).toNat
  seqRank s * kGrid bc + f 0 + attrBits bc 2 0 16 * (f 16 + attrBits bc 2 16 16 * f 32)
def levelNeeded (s : State) (l : Launch) : Nat :=
  if l.prog.agents ≤ 1 then 1
  else match groupOf s l.prog.group with
    | some g => if g.members.all fun a => a.extractLsb' 1 9 == s.core.agent.extractLsb' 1 9 then 3 else 4
    | none => 4

/-- R324, R395: the record of an EMIT. -/
def emitRec (s : State) (l : Launch) (o : Oper) (w : W64) (k : Kernel) : Rec :=
  let tile := getQ o (rwAttr w)
  let g := (w.extractLsb' 40 8).toNat
  let gran := if g = 0xFF then k.gran.toNat else g
  let gang := if o.op = 0x36 && kGang o.bc then
      2 ^ 17 + kLevel o.bc * 2 ^ 19 + (kDomain l o.addr).toNat * 2 ^ 32 + pointRank s o.bc tile % 2 ^ 16 * 2 ^ 48
    else 0
  { w0 := k.entry, w1 := getQ o (rwQ w), w2 := getQ o (w.extractLsb' 52 4).toNat, w3 := tile
    w4 := BitVec.ofNat 64 (s.die.seq.prio.toNat + gran * 2 ^ 8 + (if k.posr then 2 ^ 16 else 0) + 63 * 2 ^ 24 + gang)
    w5 := 0, w6 := o.block, w7 := 0 }

/-- EMIT: the counter rises by one, then the record is queued; a full FIFO holds the expansion (R295, R323). -/
def doEmit (l : Launch) (o : Oper) (w : W64) (s : State) : State :=
  match l.prog.kernels[(w.extractLsb' 0 16).toNat]? with
  | none => operRaise 5 o.addr o.op 0 0 0 s
  | some k =>
    let r := emitRec s l o w k
    if fifoFull s (recPrio r) || !seqWritable s l.prog.off o.block 128 then s
    else if o.op = 0x36 && kGang o.bc && decide (kLevel o.bc < levelNeeded s l) then operRaise 3 o.addr o.op 0 r.w3 0 s
    else fifoEnter false r (addCounter l.prog.off o 1 (putOper (nextWord o) s))
def evEmit (s : State) : State := onWord 3 doEmit s

def doWaith (l : Launch) (o : Oper) (w : W64) (s : State) : State :=
  let on := if rwKind w = 0 then
      (match tensorAt l ((attrN o.bc (rwAttr w)).extractLsb' 0 16) with
       | some t => (holdOf l t.entry).isReady
       | none => false)
    else tasksEnded s l.prog.off o
  if rwKind w = 0 && (tensorAt l ((attrN o.bc (rwAttr w)).extractLsb' 0 16)).isNone then
    operRaise 8 o.addr o.op (attrBits o.bc (rwAttr w) 0 16) 0 0 s
  else if on then putOper (nextWord o) s else s
def evWaith (s : State) : State := onWord 4 doWaith s

/-- SIGH, after every task emitted so far has ended: the extra destination's writer is complete. -/
def doSigh (l : Launch) (o : Oper) (w : W64) (s : State) : State :=
  match tensorAt l ((attrN o.bc (rwAttr w)).extractLsb' 0 16) with
  | none => operRaise 8 o.addr o.op (attrBits o.bc (rwAttr w) 0 16) 0 0 s
  | some t =>
    if !tasksEnded s l.prog.off o then s
    else if o.writes.contains t.entry then
      upRun (fun r => fillLess (setOper { nextWord o with writes := o.writes.erase t.entry } r) t.entry) s
    else putOper (nextWord o) s
def evSigh (s : State) : State := onWord 5 doSigh s

def doAllocr (l : Launch) (o : Oper) (w : W64) (s : State) : State :=
  let n := roundUp (w.extractLsb' 0 40).toNat (2 ^ 16)
  match wsAlloc n 64 l with
  | none => operRaise 1 o.addr o.op 0 0 0 s
  | some (va, l1) => upRun (fun _ => setOper { nextWord (setQ (rwQ w) va o) with temps := o.temps ++ [(va, n)] } l1) s
def evAllocr (s : State) : State := onWord 6 doAllocr s

/-- FREER, after every task emitted so far has ended. -/
def doFreer (l : Launch) (o : Oper) (w : W64) (s : State) : State :=
  let va := getQ o (rwQ w)
  if !tasksEnded s l.prog.off o then s
  else if o.temps.any fun t => t.1 == va then
    upRun (fun r => wsFree va (setOper { nextWord o with temps := o.temps.filter fun t => t.1 != va } r)) s
  else putOper (nextWord o) s
def evFreer (s : State) : State := onWord 7 doFreer s

def doCollr (l : Launch) (o : Oper) (w : W64) (s : State) : State :=
  let f := fun (lo len : Nat) => (w.extractLsb' lo len).toNat
  let w0 := BitVec.ofNat 64 (f 40 8 * 2 ^ 16 + f 24 4 * 2 ^ 12 + f 28 4 * 2 ^ 8 + f 32 8)
  match postColl l (nextWord o) w0 (getQ o (rwQ w)) (getQ o (f 52 4)) (getQ o (rwAttr w)).toNat s with
  | some t => t
  | none => s
def evCollr (s : State) : State := onWord 8 doCollr s

/-- ENDR: the innermost loop goes on or closes; without one the recipe ends, and the sequencer's own count with it. -/
def doEndr (l : Launch) (o : Oper) (_ : W64) (s : State) : State :=
  match o.loops with
  | (p, i, n) :: rest =>
    if (getQ o i).toNat + 1 < n then putOper { setQ i (getQ o i + 1) o with pos := p + 1 } s
    else putOper { nextWord o with loops := rest } s
  | [] =>
    if !seqWritable s l.prog.off o.block 128 then s
    else addCounter l.prog.off o (-1) (putOper { nextWord o with ran := true } s)
def evEndr (s : State) : State := onWord 9 doEndr s

/-! ## Completion (R321, R323, R327) -/

/-- An operator whose notice has come: its entries advance, its blocks and temporaries are free. What is read from then on is read after its
writes (R323). -/
def completeOper (o : Oper) (s0 : State) : State :=
  let s := dropUnc 0 s0
  let s1 := upRun (fun r =>
    let r1 := o.writes.foldl fillLess (o.readsOnly.foldl readLess { r with opers := r.opers.filter fun x => x.id != o.id })
    (o.temps.map (·.1)).foldl (fun x va => wsFree va x) (wsFree o.operands (wsFree o.block r1))) s
  if o.badIndex then operRaise 7 o.addr o.op o.bc.dst.toNat 0 0 s1 else s1

/-- A collective of an operator that has written DONE: the counter falls, or its STATUS is raised. -/
def collDone (l : Launch) (o : Oper) (desc : W64) (s : State) : State :=
  let off := l.prog.off
  let w7 := seqWord s off (desc + 56)
  if !seqReadable s (seqIas off desc 64) then s
  else if !w7.getLsbD 63 then useUnc 0 (seqIas off desc 64) s
  else if !seqWritable s off o.block 128 then s
  else if w7.extractLsb' 0 8 ≠ 0 then
    operRaise 6 o.addr (if o.op = collCode then 0 else o.op) 0 0 (w7 &&& 0xFF)
      (upRun (setOper { o with colls := o.colls.erase desc }) s)
  else addCounter off o (-1) (upRun (fun r => wsFree desc (setOper { o with colls := o.colls.erase desc } r)) s)

/-- OPERATOR_COMPLETE: the oldest notice is taken. Where there is none, b has the first collective of operator n looked at, and
without b the operators of the window that can issue now do (R322). Reads: b, n. -/
def evOperatorComplete (s : State) : State :=
  match s.die.seq.run with
  | none => upSeq (fun q => { q with notices := [] }) s
  | some l =>
    match s.die.seq.notices with
    | b :: rest =>
      let s1 := upSeq (fun q => { q with notices := rest }) s
      (match l.opers.find? fun o => o.issued && o.block == b with
       | some o => seqAfter (completeOper o s1)
       | none => s1)
    | [] =>
      if s.arg.b then
        match operById l s.arg.n with
        | some o => (match o.colls with | d :: _ => collDone l o d s | [] => s)
        | none => s
      else seqAfter s

/-! ## Start, stop, reports (R330 to R332) -/

/-- R321: the scoreboard of a program that starts. -/
def startHold (p : Program) (t : Tensor) : Hold :=
  if t.rank = 0 then .empty
  else match p.buffers[t.buf.toNat]? with
    | some b => if b.filled then .ready 0 else .empty
    | none => .empty
def launchOf (p : Program) : Launch :=
  { prog := p, pc := p.entry, symbols := Vector.replicate 256 0, loopStack := [], callStack := [], tensors := p.tensors
    scoreboard := p.tensors.map (startHold p), opers := [], nextOp := 0, wsUsed := [], ended := false }
/-- SQ_START: the program at SQIMG, while none runs. -/
def evSqStart (s : State) : State :=
  if s.die.seq.busy then s
  else match s.die.seq.programs.find? fun p => p.image == s.die.seq.sqimg with
    | some p => dropUnc 0 (upSeq (fun q => { q with
        busy := true, run := some (launchOf p), notices := [], stopped := false, halted := q.halted.filter fun x => x != p.image }) s)
    | none => s

/-- R331: the contexts of the program's tasks are released. -/
def releaseAll (p : Program) (s : State) : State :=
  ((s.core.saveArea.toList ++ s.die.disp.slots).filter fun x => ofProgram p x.2.task.record).foldl (fun st x =>
    setGranules x.2.granules .clearing (dropCtx x.1 st)) s
/-- R331 step 2: the program's records not yet started, with those that hold a saved context; what its ended tasks still queue is
discarded as it comes. -/
def discardRecs (p : Program) (s : State) : State :=
  let keep := fun (r : Rec) => !ofProgram p r
  let s2 := upDisp (fun k => { k with
    fifo := k.fifo.filter fun f => keep f.record
    returns := k.returns.filter fun f => keep f.record
    parked := k.parked.filter fun f => keep f.record
    restarts := k.restarts.filter fun f => keep f.record
    gangs := k.gangs.filter fun g => !p.domains.any fun x => x.2 == g.w0.extractLsb' 32 16
    peers := k.peers.map fun e => { e with deque := e.deque.filter fun q => keep q.record, ovf := e.ovf.filter fun q => keep q.record } })
    (releaseAll p s)
  s2.upCore fun c => { c with
    deque := c.deque.filter fun q => keep q.record
    dequeOvf := c.dequeOvf.filter fun q => keep (ovfRec s q).record
    restoring := c.restoring.filter fun x => keep x.1
    restoreLeft := if c.restoring.any fun x => keep x.1 then c.restoreLeft else none }

/-- R331: the program that runs stops. -/
def stopProgram (cause : BitVec 8) (s : State) : State :=
  match s.die.seq.run with
  | none => s
  | some l =>
    let s1 := discardRecs l.prog s
    let mine : Bool := match s.core.task with | some t => s.core.run == .running && ofProgram l.prog t.record | none => false
    let s2 := if mine then raiseAsync (fun a => { a with operator := match a.operator with | some c => some c | none => some cause }) s1 else s1
    (upSeq (fun q => { q with busy := false, fault := true, run := none, notices := [], stopped := true, halted := l.prog.image :: q.halted }) s2).send .programStopped
/-- SQ_STOP: no report. -/
def evSqStop (s : State) : State := stopProgram 0 s

/-- R332: a report is queued, or counted where 16 are. -/
def pushReport (r : Report) (s : State) : State :=
  if s.die.seq.reports.length < 16 then upSeq (fun q => { q with reports := q.reports ++ [r] }) s
  else upSeq (fun q => { q with lost := min 1023 (q.lost + 1) }) s
/-- R330: the words of a report. -/
def reportWords (r : Report) : Vector W64 8 :=
  let v : Vector W64 8 := Vector.replicate 8 0
  (((v.set 0 r.addr).set 1 (BitVec.ofNat 64 (r.handle.toNat * 2 ^ 16 + r.cause.toNat * 2 ^ 8 + r.opcode.toNat))).set 2 r.tile).set 3 r.detail
/-- R332: SQCTL as it reads. -/
def readSqctl (s : State) : W64 :=
  let q := s.die.seq
  BitVec.ofNat 64 ((if q.busy then 2 ^ 63 else 0) + (if q.fault then 2 ^ 62 else 0) + min 16 q.reports.length * 2 ^ 57 + q.lost % 2 ^ 10 * 2 ^ 47
    + q.rank.toNat * 2 ^ 37 + q.prio.toNat * 2 ^ 3)
/-- SQ_POP_REPORT. -/
def evSqPopReport (s : State) : State :=
  match s.die.seq.reports with
  | [] => s
  | r :: rest => upSeq (fun q => { q with sqrep := reportWords r, reports := rest }) s

/-- A cause that names its operator by its completion block (R323, R330). -/
def fillReport (s : State) (r : Report) (block : W64) : Report :=
  if block = 0 then r
  else match s.die.seq.run.bind fun l => l.opers.find? fun o => o.issued && o.block == block with
    | some o => { r with addr := BitVec.ofNat 64 o.addr, opcode := BitVec.ofNat 8 o.op }
    | none => r
/-- PROGRAM_FAULT_STOP: the oldest cause is reported; every cause but INDEX stops the program (R330, R331). -/
def evProgramFaultStop (s : State) : State :=
  match s.die.seq.raised with
  | [] => s
  | (r, block) :: rest =>
    let s1 := pushReport (fillReport s r block) (upSeq (fun q => { q with raised := rest }) s)
    if r.cause = 7 then seqAfter s1 else stopProgram r.cause s1

/-! ## Execution -/

/-- SQ_START (R332): the step of this name, on what is in s.arg. -/
def execSqStart (s : State) : Host.Outcome State Fault Refusal := .next (evSqStart s)
/-- SQ_STOP (R331): the step of this name, on what is in s.arg. -/
def execSqStop (s : State) : Host.Outcome State Fault Refusal := .next (evSqStop s)
/-- SQ_POP_REPORT (R332): the step of this name, on what is in s.arg. -/
def execSqPopReport (s : State) : Host.Outcome State Fault Refusal := .next (evSqPopReport s)
/-- PROGRAM_FAULT_STOP (R331): the step of this name, on what is in s.arg. -/
def execProgramFaultStop (s : State) : Host.Outcome State Fault Refusal := .next (evProgramFaultStop s)
/-- OPERATOR_COMPLETE (R323): the step of this name, on what is in s.arg. -/
def execOperatorComplete (s : State) : Host.Outcome State Fault Refusal := .next (evOperatorComplete s)
/-- MATMUL (R320): the step of this name, on what is in s.arg. -/
def execMatmul (s : State) : Host.Outcome State Fault Refusal := .next (evMatmul s)
/-- BMATMUL (R319): the step of this name, on what is in s.arg. -/
def execBmatmul (s : State) : Host.Outcome State Fault Refusal := .next (evBmatmul s)
/-- CONV (R319): the step of this name, on what is in s.arg. -/
def execConv (s : State) : Host.Outcome State Fault Refusal := .next (evConv s)
/-- EWISE (R319): the step of this name, on what is in s.arg. -/
def execEwise (s : State) : Host.Outcome State Fault Refusal := .next (evEwise s)
/-- REDUCE (R320): the step of this name, on what is in s.arg. -/
def execReduce (s : State) : Host.Outcome State Fault Refusal := .next (evReduce s)
/-- SOFTMAX (R320): the step of this name, on what is in s.arg. -/
def execSoftmax (s : State) : Host.Outcome State Fault Refusal := .next (evSoftmax s)
/-- NORM (R320): the step of this name, on what is in s.arg. -/
def execNorm (s : State) : Host.Outcome State Fault Refusal := .next (evNorm s)
/-- GATHER (R319): the step of this name, on what is in s.arg. -/
def execGather (s : State) : Host.Outcome State Fault Refusal := .next (evGather s)
/-- SCATTER (R319): the step of this name, on what is in s.arg. -/
def execScatter (s : State) : Host.Outcome State Fault Refusal := .next (evScatter s)
/-- PERMUTE (R319): the step of this name, on what is in s.arg. -/
def execPermute (s : State) : Host.Outcome State Fault Refusal := .next (evPermute s)
/-- CONCAT (R319): the step of this name, on what is in s.arg. -/
def execConcat (s : State) : Host.Outcome State Fault Refusal := .next (evConcat s)
/-- CONVERT (R319): the step of this name, on what is in s.arg. -/
def execConvert (s : State) : Host.Outcome State Fault Refusal := .next (evConvert s)
/-- QUANT (R319): the step of this name, on what is in s.arg. -/
def execQuant (s : State) : Host.Outcome State Fault Refusal := .next (evQuant s)
/-- ATTEND (R320): the step of this name, on what is in s.arg. -/
def execAttend (s : State) : Host.Outcome State Fault Refusal := .next (evAttend s)
/-- KVAPPEND (R319): the step of this name, on what is in s.arg. -/
def execKvappend (s : State) : Host.Outcome State Fault Refusal := .next (evKvappend s)
/-- SCAN (R319): the step of this name, on what is in s.arg. -/
def execScan (s : State) : Host.Outcome State Fault Refusal := .next (evScan s)
/-- STATEOP (R319): the step of this name, on what is in s.arg. -/
def execStateop (s : State) : Host.Outcome State Fault Refusal := .next (evStateop s)
/-- ROUTE (R319): the step of this name, on what is in s.arg. -/
def execRoute (s : State) : Host.Outcome State Fault Refusal := .next (evRoute s)
/-- DISPATCH (R328): the step of this name, on what is in s.arg. -/
def execDispatch (s : State) : Host.Outcome State Fault Refusal := .next (evDispatch s)
/-- COMBINE (R329): the step of this name, on what is in s.arg. -/
def execCombine (s : State) : Host.Outcome State Fault Refusal := .next (evCombine s)
/-- COLLECTIVE (R319): the step of this name, on what is in s.arg. -/
def execCollective (s : State) : Host.Outcome State Fault Refusal := .next (evCollective s)
/-- COPY (R319): the step of this name, on what is in s.arg. -/
def execCopy (s : State) : Host.Outcome State Fault Refusal := .next (evCopy s)
/-- KCALL (R395): the step of this name, on what is in s.arg. -/
def execKcall (s : State) : Host.Outcome State Fault Refusal := .next (evKcall s)
/-- LOOPR (R325): the step of this name, on what is in s.arg. -/
def execLoopr (s : State) : Host.Outcome State Fault Refusal := .next (evLoopr s)
/-- TILE (R325): the step of this name, on what is in s.arg. -/
def execTile (s : State) : Host.Outcome State Fault Refusal := .next (evTile s)
/-- BIND (R325): the step of this name, on what is in s.arg. -/
def execBind (s : State) : Host.Outcome State Fault Refusal := .next (evBind s)
/-- EMIT (R325): the step of this name, on what is in s.arg. -/
def execEmit (s : State) : Host.Outcome State Fault Refusal := .next (evEmit s)
/-- WAITH (R325): the step of this name, on what is in s.arg. -/
def execWaith (s : State) : Host.Outcome State Fault Refusal := .next (evWaith s)
/-- SIGH (R325): the step of this name, on what is in s.arg. -/
def execSigh (s : State) : Host.Outcome State Fault Refusal := .next (evSigh s)
/-- ALLOCR (R325): the step of this name, on what is in s.arg. -/
def execAllocr (s : State) : Host.Outcome State Fault Refusal := .next (evAllocr s)
/-- FREER (R325): the step of this name, on what is in s.arg. -/
def execFreer (s : State) : Host.Outcome State Fault Refusal := .next (evFreer s)
/-- COLLR (R325): the step of this name, on what is in s.arg. -/
def execCollr (s : State) : Host.Outcome State Fault Refusal := .next (evCollr s)
/-- ENDR (R325): the step of this name, on what is in s.arg. -/
def execEndr (s : State) : Host.Outcome State Fault Refusal := .next (evEndr s)

end Sys2Proof.Machine
end

