-- ==== Sys2Proof/Machine/SeqLoad.lean ====
section
/-! DEFINITION. The loader: the checks of a Visyn image and the placing of an accepted program (R311 to R316, R159, R161). -/
namespace Sys2Proof.Machine

/-! ## The tables (R311 to R315) -/

/-- Header fields by offset and size. -/
def hd (b : List Byte) (off n : Nat) : Nat := leAt b off n
def imgBufN (b : List Byte) : Nat := hd b 0x14 2
def imgTenN (b : List Byte) : Nat := hd b 0x1C 2
def imgKerN (b : List Byte) : Nat := hd b 0x24 2
def imgRecN (b : List Byte) : Nat := hd b 0x2C 2
def imgAgents (b : List Byte) : Nat := hd b 0x4C 2
def imgCode (b : List Byte) : List Byte := (b.drop (hd b 0x38 4)).take (hd b 0x3C 4)
/-- The offsets of a table's entries. -/
def entryOffs (b : List Byte) (off n size : Nat) : List Nat := (List.range n).map fun i => hd b off 4 + i * size
def bufOffs (b : List Byte) : List Nat := entryOffs b 0x10 (imgBufN b) 16
def tenOffs (b : List Byte) : List Nat := entryOffs b 0x18 (imgTenN b) 48
def kerOffs (b : List Byte) : List Nat := entryOffs b 0x20 (imgKerN b) 32
def recOffs (b : List Byte) : List Nat := entryOffs b 0x28 (imgRecN b) 8

/-- R312: fields of a buffer entry. -/
def bufSize (b : List Byte) (o : Nat) : Nat := bits (leAt b o 8) 39 0
def bufPage (b : List Byte) (o : Nat) : Nat := match bits (leAt b o 8) 41 40 with | 0 => 2 ^ 16 | 1 => 2 ^ 21 | _ => 2 ^ 26
def bufMode (b : List Byte) (o : Nat) : Nat := bits (leAt b o 8) 49 48
def bufAxis (b : List Byte) (o : Nat) : Nat := bits (leAt b o 8) 52 50
def bufInit (b : List Byte) (o : Nat) : Bool := bit (leAt b o 8) 44
def bufArgs (b : List Byte) (o : Nat) : Bool := bit (leAt b o 8) 45
def bufInitOff (b : List Byte) (o : Nat) : Nat := leAt b (o + 8) 4

/-- R314: a kernel's code as stored. -/
def kerCode (b : List Byte) (o : Nat) : List Byte := ((imgCode b).drop (leAt b o 4)).take (leAt b (o + 4) 4)
def kerStep (b : List Byte) (o : Nat) : Nat := leAt b (o + 0x16) 2

/-- The recipes of an image (R315). -/
def imgRecipe (b : List Byte) (o : Nat) : BitVec 8 × List W64 :=
  (BitVec.ofNat 8 (leAt b o 1), (List.range (leAt b (o + 2) 2)).map fun i => wordAtOff (imgCode b) (leAt b (o + 4) 4 + 8 * i))
def imgRecipes (b : List Byte) : List (BitVec 8 × List W64) := (recOffs b).map (imgRecipe b)

/-- The tensors of an image (R313), with the storage that their buffers' VAs give. -/
def imgTensor (b : List Byte) (bufs : List Buffer) (i o : Nat) : Tensor :=
  let w := leAt b o 4
  let buf := bits w 31 16
  let off := leAt b (o + 8) 8
  { fmt := bits w 3 0, rank := bits w 6 4, layout := bits w 15 8, buf := BitVec.ofNat 16 buf
    dims := (List.range 5).map fun k => BitVec.ofNat 32 (leAt b (o + 0x10 + 4 * k) 4)
    storage := if i = 0 then none else (bufs[buf]?).map fun x => (x.va + BitVec.ofNat 64 off, x.bytes - off)
    entry := i
    mode := match bufs[buf]? with | some x => x.mode | none => 3
    axis := match bufs[buf]? with | some x => x.axis | none => 0
    blkAxis := 0, blocks := 1, whole := false, pageRows := 0 }

/-! ## Refusals (R316). A check answers the byte offset of what it refuses. -/

def firstBad (xs : List (Nat × Bool)) : Option Nat := (xs.find? fun x => x.2).map (·.1)

def checkMagic (b : List Byte) : Option Nat :=
  firstBad ([(0, hd b 0 4 != 0x4E595356 || b.length < 128), (0x0A, hd b 0x0A 2 != 0), (0x4F, hd b 0x4F 1 != 0)]
    ++ (List.range 36).map fun i => (0x5C + i, hd b (0x5C + i) 1 != 0))
def checkStep (b : List Byte) : Option Nat :=
  let me := (stepId.extractLsb' 0 16).toNat
  firstBad ((0x08, decide (me < hd b 8 2)) :: (kerOffs b).map fun o => (o + 0x16, kerStep b o != 0 && kerStep b o != me))
/-- The declarations against the device's limits, the recipe store, and the memory granted (log entry 23). -/
def checkResource (s : State) (b : List Byte) : Option Nat :=
  let used := ((s.die.seq.programs.map fun p => (p.recipes.map fun r => r.2.length).sum)).sum
  firstBad [(0x14, decide (254 < imgBufN b)), (0x24, decide (4096 < imgKerN b)), (0x2C, decide (128 < imgRecN b)),
    (0x40, decide (64 < hd b 0x40 1)), (0x41, decide (64 < hd b 0x41 1)), (0x42, decide (32 < hd b 0x42 1)),
    (0x43, decide (8 < hd b 0x43 1)), (0x44, decide (256 < hd b 0x44 2)), (0x46, decide (60 < hd b 0x46 1)),
    (0x47, decide (2 < hd b 0x47 1)), (0x48, decide (65536 < hd b 0x48 4)), (0x4C, decide (1024 < imgAgents b)),
    (0x58, decide (32768 < hd b 0x58 4 + used)), (0x50, !Config.granted b),
    (0x48, decide (65536 < hd b 0x48 4 + (match s.die.seq.run with | some l => l.prog.seqs | none => 0)))]

/-- The spans of the tables and sections: offset and bytes. -/
def imgSpans (b : List Byte) : List (Nat × Nat × Nat) :=
  [(0x10, hd b 0x10 4, 16 * imgBufN b), (0x18, hd b 0x18 4, 48 * imgTenN b), (0x20, hd b 0x20 4, 32 * imgKerN b),
   (0x28, hd b 0x28 4, 8 * imgRecN b), (0x30, hd b 0x30 4, hd b 0x34 4), (0x38, hd b 0x38 4, hd b 0x3C 4)]
def spansMeet (x y : Nat × Nat × Nat) : Bool :=
  x.2.2 != 0 && y.2.2 != 0 && decide (x.2.1 < y.2.1 + y.2.2) && decide (y.2.1 < x.2.1 + x.2.2)
def spanChecks (b : List Byte) : List (Nat × Bool) :=
  (imgSpans b).zipIdx.map fun x => (x.1.1,
    x.1.2.1 % 8 != 0 || decide (b.length < x.1.2.1 + x.1.2.2) || (x.1.2.2 != 0 && decide (x.1.2.1 < 128))
      || ((imgSpans b).take x.2).any (spansMeet x.1))

def bufCheck (b : List Byte) (o : Nat) : List (Nat × Bool) :=
  let w := leAt b o 8
  [(o, bits w 63 53 != 0 || bits w 47 46 != 0 || bits w 43 42 == 3 || bits w 41 40 == 3 || bufSize b o == 0
      || decide (4 < bufAxis b o)),
   (o + 8, leAt b (o + 12) 4 != 0 || (bufInit b o && decide (hd b 0x34 4 < bufInitOff b o + bufSize b o)))]
/-- R312, R313: the bytes of a tensor that its agent holds lie within its buffer's SIZE; a pool's extent is its buffer's. -/
def tenFits (b : List Byte) (i o : Nat) : Bool :=
  let w := leAt b o 4
  let off := leAt b (o + 8) 8
  match (bufOffs b)[bits w 31 16]? with
  | none => true
  | some x =>
    let dims := (List.range (bits w 6 4)).map fun k => leAt b (o + 0x10 + 4 * k) 4
    let v : View := { View.blank with fmt := bits w 3 0, layout := bits w 15 8, dims := dims, axis := bufAxis b x
                                      len := (dims.getD (bufAxis b x) 1) / (if bufMode b x = 1 then Nat.max (imgAgents b) 1 else 1) }
    i == 0 || decide (off < bufSize b x) && (dims.any (bit · 31) || v.layout == 3 || decide (off + v.span ≤ bufSize b x))
def tenCheck (b : List Byte) (i o : Nat) : List (Nat × Bool) :=
  if i = 0 then [(o, (List.range 48).any fun k => leAt b (o + k) 1 != 0)]
  else
    let w := leAt b o 4
    let rank := bits w 6 4
    [(o, decide (11 < bits w 3 0) || rank == 0 || decide (5 < rank) || bit w 7 || decide (3 < bits w 15 8)
        || (decide (imgBufN b ≤ bits w 31 16) && bits w 31 16 != 0xFFFF)),
     (o + 4, leAt b (o + 4) 4 != 0), (o + 8, decide (2 ^ 40 ≤ leAt b (o + 8) 8) || !tenFits b i o), (o + 0x24, leAt b (o + 0x24) 8 != 0 || leAt b (o + 0x2C) 4 != 0)]
    ++ (List.range 5).map fun k =>
      let d := leAt b (o + 0x10 + 4 * k) 4
      (o + 0x10 + 4 * k, if rank ≤ k then d != 0 else if bit d 31 then decide (256 ≤ d % 2 ^ 31) else d == 0)
def kerCheck (b : List Byte) (o : Nat) : List (Nat × Bool) :=
  let len := hd b 0x3C 4
  [(o, decide (len < leAt b o 4 + leAt b (o + 4) 4)), (o + 0x14, decide (hd b 0x46 1 < leAt b (o + 0x14) 1)), (o + 0x15, decide (1 < leAt b (o + 0x15) 1))]
    ++ (List.range 8).map fun k =>
      let n := leAt b (o + 8 + k) 1
      (o + 8 + k, !(decide (n < imgBufN b) || n == 0xFD || n == 0xFE || n == 0xFF))

def recipeCheck (b : List Byte) (o : Nat) : List (Nat × Bool) :=
  let n := leAt b (o + 2) 2
  let at0 := leAt b (o + 4) 4
  [(o, decide (leAt b o 1 < 0x80) || leAt b (o + 1) 1 != 0 || n == 0 || decide (4096 < n)),
   (o + 4, at0 % 8 != 0 || decide (hd b 0x3C 4 < at0 + 8 * n) || !recipeOk (imgRecipe b o).2)]

def checkTable (b : List Byte) : Option Nat :=
  firstBad ([(0x14, imgBufN b == 0), (0x1C, decide (imgTenN b < 2)), (0x40, hd b 0x40 1 == 0), (0x4C, imgAgents b == 0),
      (0x0C, hd b 0x0C 4 % 8 != 0 || decide (hd b 0x3C 4 ≤ hd b 0x0C 4))]
    ++ spanChecks b ++ (bufOffs b).flatMap (bufCheck b) ++ (tenOffs b).zipIdx.flatMap (fun x => tenCheck b x.2 x.1)
    ++ (kerOffs b).flatMap (kerCheck b) ++ (recOffs b).flatMap (recipeCheck b))

/-- R317: the instructions that straight-line decode reaches, to the first END or RET: addresses, and none for an undefined one. -/
def straight (recipes : List (BitVec 8 × List W64)) (code : List Byte) : Nat → Nat → List (Nat × Option BcIns)
  | 0, _ => []
  | n + 1, pc =>
    if code.length ≤ pc then []
    else match bcAt recipes code pc with
      | none => [(pc, none)]
      | some i => if i.op = 0x01 ∨ i.op = 0x0B then [(pc, some i)] else (pc, some i) :: straight recipes code n (pc + 8 * i.words)
def imgLine (b : List Byte) : List (Nat × Option BcIns) := straight (imgRecipes b) (imgCode b) (imgCode b).length (hd b 0x0C 4)
def codeOff (b : List Byte) (pc : Nat) : Nat := hd b 0x38 4 + pc
def checkOpcode (b : List Byte) : Option Nat := firstBad ((imgLine b).map fun x => (codeOff b x.1, x.2.isNone))
/-- The handles that an instruction names: of a structural one, its own. -/
def bcHandles (recipes : List (BitVec 8 × List W64)) (i : BcIns) : List (BitVec 16) :=
  if 0x20 ≤ i.op then (handlesOf recipes i).map (·.1) ++ (((recipeOf recipes i.op).getD []).filter fun w => rwOp w == 4 && rwKind w == 0).map
      fun w => (attrN i.bc (rwAttr w)).extractLsb' 0 16
  else match i.op with
    | 0x02 => [i.bc.sa]
    | 0x03 => [i.bc.dst, i.bc.sa]
    | 0x04 | 0x05 | 0x0D => [i.bc.dst]
    | _ => []
def checkHandle (b : List Byte) : Option Nat :=
  firstBad ((imgLine b).map (fun x => (codeOff b x.1, match x.2 with
      | some i => (bcHandles (imgRecipes b) i).any (fun h => decide (imgTenN b ≤ h.toNat))
          || (i.op == 0x36 && decide (imgKerN b ≤ attrBits i.bc 1 0 12))
      | none => false))
    ++ (recOffs b).map fun o => (o, (imgRecipe b o).2.any fun w =>
      (rwOp w == 3 && decide (imgKerN b ≤ (w.extractLsb' 0 16).toNat)) || !rwAttrOk w))

/-- R314: bytes 0 to 7 of the GMAC of a kernel's code under the key of slot 511. -/
def kernelTag (s : State) (code : List Byte) : List Byte :=
  let key := slotDataKey s 511
  let padded := code ++ List.replicate ((16 - code.length % 16) % 16) 0
  let h := blockNum (aesEncrypt key (List.replicate 16 0))
  let x := ghash h ((blocksOf padded.length padded).map blockNum ++ [(8 * code.length) <<< 64])
  let m := x ^^^ blockNum (aesEncrypt key ((toBytes 12 Config.kernelIv.toNat).reverse.map (·.toNat) ++ [0, 0, 0, 1]))
  ((toBytes 16 m).reverse).take 8
def checkTag (s : State) (b : List Byte) : Option Nat :=
  firstBad ((kerOffs b).map fun o => (o + 0x18, (b.drop (o + 0x18)).take 8 != kernelTag s (kerCode b o)))

/-- R159: the slot whose decoder reads an entry's class, with the cluster bit of F. -/
def classSlot (cls cl : Nat) : Nat × Bool :=
  match cls with
  | 0 => (0, false)
  | 1 => (if cl = 0 then 2 else 3, false)
  | 2 => (5, cl != 0)
  | 3 => (6, false)
  | 4 => (8, false)
  | 5 => (9, false)
  | 6 => (10, false)
  | _ => (11, false)
/-- R159: an entry of a portable list as the bundle that holds its syllable alone; none where its tag is refused. -/
def listBundle (code : List Byte) (i : Nat) : Option (List W32) :=
  let tag := leAt code (16 + 12 * i) 4
  let ext := leAt code (24 + 12 * i) 4
  let cls := tag % 16
  let cl := bits tag 5 4
  if bits tag 31 7 ≠ 0 ∨ 7 < cls ∨ 1 < cl ∨ (cl ≠ 0 ∧ cls ≠ 1 ∧ cls ≠ 2) ∨ (!bit tag 6 ∧ ext ≠ 0) then none
  else
    let (slot, fcl) := classSlot cls cl
    let hasExt := bit tag 6
    some (BitVec.ofNat 32 ((if fcl then 2 ^ 30 else 0) + (if hasExt then 3 else 2) * 2 ^ 24 + (if hasExt then 2 ^ (12 + slot) else 0) + 2 ^ slot)
      :: BitVec.ofNat 32 (leAt code (20 + 12 * i) 4) :: (if hasExt then [BitVec.ofNat 32 ext] else []))
/-- R159, R161: an entry as an instruction; none where R158 would raise a fault at decode. -/
def listEntry (code : List Byte) (i : Nat) : Option Instr :=
  match listBundle code i with
  | some (h :: ws) => (match decodeBundle h ws with | .ok is => is.head? | _ => none)
  | _ => none
/-- R160: the entry a branch goes to, counted from its own. -/
def entryTarget (i : Nat) : Instr → Option Int
  | .br f | .bra f | .brf f | .bl f => some (i + sextInt f.off.toNat 19)
  | .bloopw f | .bloope f => some (i + sextInt f.off.toNat 19)
  | _ => none
/-- R137: a guard that is true in every case. -/
def alwaysOn (g : Guard) : Bool := !g.neg && (g.p == 0 || g.p == 16)
/-- R161: an entry that cannot fall through. -/
def noFall : Instr → Bool
  | .br f => alwaysOn f.g
  | .jr f | .yield f => alwaysOn f.g
  | .ret f | .endt f | .halt f => alwaysOn f.g
  | _ => false

/-! ### Native code of a portable list (R160, R161) -/

/-- R151: no result of an entry is still in flight after this many further bundles; two for the delay bundles of a transfer (R156). -/
def entryPad (cls op : Nat) : Nat :=
  match cls with
  | 0 => if decide (6 ≤ op) && decide (op ≤ 9) then 19 else if decide (0x30 ≤ op) && decide (op ≤ 0x3F) then 11 else 2
  | 2 => 7
  | 4 => 5
  | 7 => 2
  | _ => 4
def entryClass (code : List Byte) (i : Nat) : Nat := leAt code (16 + 12 * i) 4 % 16
def entryOp (code : List Byte) (i : Nat) : Nat := bits (leAt code (20 + 12 * i) 4) 31 25
/-- What follows an entry's bundle: after an X entry a bundle with MFENCE, then empty bundles until its results have landed, so that
its whole effect is in place before the next entry reads. -/
def entryTail (code : List Byte) (i : Nat) : List W32 :=
  (if entryClass code i = 4 then [0x02000100, 0x14000000] else [])
    ++ List.replicate (entryPad (entryClass code i) (entryOp code i)) 0x01000000
def entrySize (code : List Byte) (i : Nat) : Nat := ((listBundle code i).getD []).length + (entryTail code i).length
/-- The first word of every entry in the native code, from the sizes of the entries. -/
def entryStarts : Nat → List Nat → List Nat
  | _, [] => []
  | a, n :: ns => a :: entryStarts (a + n) ns
def listStarts (code : List Byte) : List Nat := entryStarts 0 ((List.range (leAt code 8 4)).map (entrySize code))
/-- R160: the native offset of a branch, in words from its bundle's header. -/
def nativeOff (starts : List Nat) (i : Nat) (t : Int) : Int := (starts.getD t.toNat 0 : Int) - (starts.getD i 0 : Int)
def offFits (x : Int) : Bool := decide (-(2 ^ 18) ≤ x) && decide (x < 2 ^ 18)
/-- The native words of an entry: its syllable, with a branch's offset counted in words, and what follows it. -/
def nativeEntry (code : List Byte) (starts : List Nat) (i : Nat) : List W32 :=
  let ws := (listBundle code i).getD []
  let own := match (listEntry code i).bind (entryTarget i) with
    | some t => ws.take 1 ++ [(ws.getD 1 0 &&& 0xFFF80000) ||| (BitVec.ofInt 19 (nativeOff starts i t)).setWidth 32] ++ ws.drop 2
    | none => ws
  own ++ entryTail code i
/-- R161: the native code that the loader produces for a portable list, one entry after another, the offset of its entry point, and its
table: the byte offset of every entry's bundle with the entry's index. Any native code that leaves the same memory and register state
would do; this is the model's (DESIGN CHOICE, log entry 30). -/
def nativeList (code : List Byte) : List Byte × Nat × List (Nat × Nat) :=
  let n := leAt code 8 4
  let starts := listStarts code
  (((List.range n).flatMap (nativeEntry code starts)).flatMap (fun w => toBytes 4 w.toNat), 4 * starts.getD (leAt code 12 4) 0,
    starts.zipIdx.map fun x => (4 * x.1, x.2))

/-- R159: the header of a list. -/
def listHeadOk (code : List Byte) : Bool :=
  let n := leAt code 8 4
  leAt code 0 4 == 0x4C50394B && leAt code 4 2 == 1 && leAt code 6 2 == 0 && decide (1 ≤ n) && decide (n ≤ 2 ^ 24)
    && decide (leAt code 12 4 < n) && code.length == 16 + 12 * n
/-- R161: an entry that the loader refuses. A branch whose native offset has no room in its field is refused with it (DESIGN CHOICE, log
entry 30). -/
def entryBad (code : List Byte) (starts : List Nat) (n i : Nat) : Bool :=
  match listEntry code i with
  | none => true
  | some x =>
    (match entryTarget i x with
     | some t => decide (t < 0) || decide ((n : Int) ≤ t) || !offFits (nativeOff starts i t)
     | none => false)
    || (i + 1 == n && !noFall x)
/-- R159, R161: where in a portable list the first thing stands that the loader refuses: its header, or its first offending entry. -/
def listBad (code : List Byte) : Option Nat :=
  let n := leAt code 8 4
  if !listHeadOk code then some 0
  else ((List.range n).find? (entryBad code (listStarts code) n)).map fun i => 16 + 12 * i

/-- The words of a block of bundles, and the offsets of the bundles that tile it (R314). -/
def blockWords (code : List Byte) : List W32 := (List.range (code.length / 4)).map fun i => BitVec.ofNat 32 (leAt code (4 * i) 4)
def tiling : Nat → Nat → List W32 → Option (List Nat)
  | 0, _, _ => none
  | n + 1, off, ws =>
    match ws with
    | [] => some []
    | h :: rest =>
      let k := (fld h 24 5).toNat
      if k = 0 ∨ ws.length < k then none
      else match decodeBundle h (rest.take (k - 1)) with
        | .ok _ => (tiling n (off + 4 * k) (ws.drop k)).map (off :: ·)
        | _ => none
/-- R314: a native block that is not refused. -/
def nativeOk (step : Nat) (code : List Byte) : Bool :=
  let ws := blockWords (code.drop 16)
  leAt code 0 4 == 0x4E42394B && leAt code 4 2 == step && leAt code 6 2 == 0 && leAt code 8 4 % 4 == 0 && code.length == 16 + leAt code 8 4
    && (match tiling (ws.length + 1) 0 ws with | some offs => offs.contains (leAt code 12 4) | none => false)
/-- R316: the offset of the first offending entry of a list, or of a native block. -/
def checkList (b : List Byte) : Option Nat :=
  (kerOffs b).findSome? fun o =>
    if kerStep b o = 0 then (listBad (kerCode b o)).map (codeOff b (leAt b o 4) + ·)
    else if nativeOk (kerStep b o) (kerCode b o) then none else some (codeOff b (leAt b o 4))

/-! ### Shapes -/

def staticDims (t : Tensor) : Bool := (t.dims.take t.rank).all fun d => !d.getLsbD 31
/-- The operator of an instruction at load, for its shape alone; none where a shape is symbolic. -/
def loadOper (p : Program) (i : BcIns) : Option Oper :=
  let hs := handlesOf p.recipes i
  let ts := hs.map fun h => if h.1 = 0 then none else p.tensors[h.1.toNat]?
  let l := launchOf p
  if i.op < 0x20 ∨ !(ts.all fun t => match t with | some x => staticDims x | none => true) then none
  else some (newOper 0 0 i.op i.bc (ts.map fun t => t.bind fun x => viewOf l 0 { x with storage := some (x.storage.getD (0, 0)), mode := 3 }) [] [])
def checkShape (p : Program) (b : List Byte) : Option Nat :=
  firstBad ((tenOffs b).zipIdx.map (fun x => match p.tensors[x.2]? with
      | some t =>
        let d := t.dims.getD t.axis 0
        (x.1, x.2 != 0 && ((t.mode == 1 && !d.getLsbD 31 && (d.toNat % Nat.max p.agents 1 != 0 || decide (t.rank ≤ t.axis)))
          || (t.mode == 2 && (redType t.fmt).isNone)))
      | none => (x.1, false))
    ++ (imgLine b).map fun x => (codeOff b x.1, match x.2.bind (loadOper p) with | some o => !shapeOk o | none => false))

/-! ## Placing -/

/-- R161, R314: the native code of a kernel, with its entry's offset and its table: the bundles of a native block, or those of its
list. -/
def nativeOf (b : List Byte) (o : Nat) : List Byte × Nat × List (Nat × Nat) :=
  if kerStep b o ≠ 0 then ((kerCode b o).drop 16, leAt (kerCode b o) 12 4, []) else nativeList (kerCode b o)
/-- VAs of the kernels' code, one after another from a line boundary (log entry 30). -/
def placeKernels : Nat → List (List Byte × Nat × List (Nat × Nat)) → List (Nat × List Byte × Nat × List (Nat × Nat))
  | _, [] => []
  | va, x :: xs => (va, x) :: placeKernels (roundUp (va + x.1.length) 128) xs
/-- The kernels of an image in their places, with the offsets of their entries. -/
def placed (b : List Byte) (va : Nat) : List ((Nat × List Byte × Nat × List (Nat × Nat)) × Nat) :=
  (placeKernels va ((kerOffs b).map (nativeOf b))).zip (kerOffs b)

/-- R314: the words of a window over a range of VAs. -/
def winOver (lo bytes : Nat) (perm : Nat) (off : W64) : List W64 :=
  [BitVec.ofNat 64 (lo / 2 ^ 16 % 2 ^ 36 * 2 ^ 16), BitVec.ofNat 64 ((lo + Nat.max bytes 1 - 1) / 2 ^ 16 % 2 ^ 36 * 2 ^ 16 + 16 + perm),
   off &&& 0x00FFFFFFFFFF0000]
def winSet (b : List Byte) (p : Program) (o lo hi : Nat) : Vector W64 24 :=
  let one := fun (k : Nat) =>
    let n := leAt b (o + 8 + k) 1
    let perm := bits (leAt b (o + 0x10) 4) (4 * k + 3) (4 * k)
    if n = 0xFD then winOver p.workspace.toNat (roundUp p.wsBytes (2 ^ 16)) perm p.off
    else if n = 0xFE then winOver lo (hi - lo) perm p.off
    else match p.buffers[n]? with
      | some x => winOver x.va.toNat x.bytes perm p.off
      | none => [0, 0, 0]
  let ws := (List.range 8).flatMap one
  Vector.ofFn fun i => ws.getD i.val 0

/-- The program of an image, as the loader sets it up: record w0 the image's VA, w1 OFF, w2 the workspace, w3 the code. -/
def imgProgram (b : List Byte) (a : EventArg) : Program :=
  let bufs := (bufOffs b).zipIdx.map fun x =>
    (⟨BitVec.ofNat 64 (a.nats.getD x.2 0), roundUp (bufSize b x.1) (bufPage b x.1), BitVec.ofNat 2 (bufMode b x.1), bufAxis b x.1,
      bufInit b x.1 || bufArgs b x.1⟩ : Buffer)
  let gangs := (imgLine b).filter fun x => match x.2 with | some i => i.op == 0x36 && kGang i.bc | none => false
  { image := a.record.w0, code := imgCode b, entry := hd b 0x0C 4, agents := imgAgents b, group := BitVec.ofNat 8 (hd b 0x4E 1)
    seqs := hd b 0x48 4, off := a.record.w1, workspace := a.record.w2, wsBytes := hd b 0x50 8, buffers := bufs
    tensors := (tenOffs b).zipIdx.map fun x => imgTensor b bufs x.2 x.1
    kernels := (placed b a.record.w3.toNat).map fun ((lo, native, entry, table), o) =>
      ⟨BitVec.ofNat 64 lo, BitVec.ofNat 64 (lo + native.length), BitVec.ofNat 64 (lo + entry), BitVec.ofNat 8 (leAt b (o + 0x14) 1),
        bit (leAt b (o + 0x15) 1) 0, table.map fun t => (BitVec.ofNat 64 (lo + t.1), t.2)⟩
    recipes := imgRecipes b
    recipeBase := 0
    domains := gangs.zipIdx.map fun x => (x.1.1, BitVec.ofNat 16 (a.nats.getD (imgBufN b + x.2) 0)) }

/-- The first check that an image fails, by code and offset (R316). -/
def refusal (s : State) (b : List Byte) (p : Program) : Option (Nat × Nat) :=
  let checks : List (Nat × Option Nat) :=
    [(1, checkMagic b), (2, if hd b 4 2 = 1 then none else some 4), (3, if hd b 6 2 = (stepId.extractLsb' 16 16).toNat then none else some 6),
     (4, checkStep b), (5, checkResource s b), (6, checkTable b), (7, checkOpcode b), (8, checkHandle b), (9, checkTag s b), (10, checkList b),
     (11, checkShape p b)]
  checks.findSome? fun c => c.2.map fun o => (c.1, o)

/-- R326: what the check found is wrong in a recipe's words. -/
def recipeRefused (b : List Byte) (code off : Nat) : Bool :=
  (recOffs b).any fun o => (code == 6 && off == o + 4 && !recipeOk (imgRecipe b o).2) || (code == 8 && off == o)

/-- R65: the tags of the code lines of a range of IAs. -/
def putTags (ia n : Nat) (s : State) : State :=
  (List.range ((ia % 128 + n + 127) / 128)).foldl (fun st k =>
    let c := BitVec.ofNat 49 (ia / 128 + k)
    engWrite 0 (((List.range 8).map fun i => ((tagIa c).toNat + i) % 2 ^ 56).zip (codeMac st c)) st) s
/-- The constants of the INIT buffers (R312). -/
def putInits (b : List Byte) (p : Program) (s : State) : State :=
  ((bufOffs b).zip p.buffers).foldl (fun st x =>
    if bufInit b x.1 then seqPut p.off x.2.va ((b.drop (hd b 0x30 4 + bufInitOff b x.1)).take (bufSize b x.1)) st else st) s
/-- R324: the first words of the recipe store from 32,768 on in which n words have room (DESIGN CHOICE, log entry 116). -/
def recipeRoom (store : List (Nat × W64)) (n : Nat) : Nat :=
  ((32768 :: store.map fun x => x.1 + 1).find? fun k => !store.any fun x => decide (k ≤ x.1) && decide (x.1 < k + n)).getD 32768
/-- A word of the store, in its place. -/
def storeWord (x : Nat × W64) : List (Nat × W64) → List (Nat × W64)
  | [] => [x]
  | y :: ys => if x.1 < y.1 then x :: y :: ys else if x.1 = y.1 then x :: ys else y :: storeWord x ys
/-- R324: the loader takes a program in, its recipes in the recipe store; one of the same image goes. -/
def putProgram (p : Program) (q : Sequencer) : Sequencer :=
  let words := p.recipes.flatMap (·.2)
  let span := fun (x : Program) => (x.recipes.map fun r => r.2.length).sum
  let gone := q.programs.filter fun x => x.image == p.image
  let kept := q.recipeStore.filter fun w => !gone.any fun x => decide (x.recipeBase ≤ w.1) && decide (w.1 < x.recipeBase + span x)
  let at0 := recipeRoom kept words.length
  { q with
    programs := q.programs.filter (fun x => x.image != p.image) ++ [{ p with recipeBase := at0 }]
    recipeStore := (words.zipIdx.map fun w => (at0 + w.2, w.1)).foldl (fun st w => storeWord w st) kept }
/-- The native code, its tags, and the kernel map (R293, R314). -/
def putKernels (b : List Byte) (p : Program) (a : EventArg) (s : State) : State :=
  (placed b a.record.w3.toNat).foldl (fun st x =>
    let lo := x.1.1
    let code := x.1.2.1
    let va := BitVec.ofNat 64 lo
    let s1 := putTags (seqIa p.off va) code.length (seqPut p.off va code st)
    upDisp (fun d => { d with windows := d.windows ++ [(lo, lo + code.length, winSet b p x.2 lo (lo + code.length))] }) s1) s

/-- VISYN_LOAD: the control cores' loader takes an image or refuses it. Reads: bytes (the image), record (w0 the VA it lies at, w1
the OFF of its windows, w2 the workspace, w3 where its code goes), nats (the buffers' VAs, then the domains of its gang KCALLs). -/
def evVisynLoad (s : State) : State :=
  let b := s.arg.bytes
  let p := imgProgram b s.arg
  match refusal s b p with
  | some (c, o) => s.send (.loadRefused c o (if recipeRefused b c o then 5 else 0))
  | none =>
    let s1 := putKernels b p s.arg (putInits b p s)
    upSeq (putProgram p) s1

/-! ## Execution -/

/-- VISYN_LOAD (R316): the step of this name, on what is in s.arg. -/
def execVisynLoad (s : State) : Host.Outcome State Fault Refusal := .next (evVisynLoad s)

end Sys2Proof.Machine
end

