-- ==== Sys2Proof/Machine/Boot.lean ====
section
/-! DEFINITION. Bring-up, security, health and power, and the writes of management registers (R6, R374 to R382). -/
namespace Sys2Proof.Machine

def upBoot (f : Boot → Boot) (s : State) : State := s.upDie fun d => { d with boot := f d.boot }

/-- A core reset to zero, with its identity and MENTRY, which the control cores write (R339, R374). -/
def zeroCore (c : CoreSt) : CoreSt :=
  { resetCore with
    agent := c.agent, cid := c.cid, offline := c.offline, sys := { resetSys with mentry := c.sys.mentry } }
/-- R375: a die without power: the records of the control cores and what they know of it stay, and of HBM the stack that code 4 names. -/
def darkDie (b : Boot) (d : DieSt) : DieSt :=
  { resetDie with
    dram := if b.code = 4 then d.dram.filter fun x => !x.2.1 && hbmPc x.1 % 6 == b.unit.toNat / 64 else []
    errors := d.errors
    links := { resetDie.links with configured := d.links.configured.take 2 }
    disp := { resetDie.disp with peers := d.disp.peers.map fun p => { resetPeer p.cid.toNat with offline := p.offline } }
    boot := b }
/-- R375: the safe state: BRSTAT says why, and the compute dies are unpowered, HBM with them. -/
def enterSafe (step code unit : Nat) (s : State) : State :=
  let b := { s.die.boot with
    ready := false, safe := true, step := BitVec.ofNat 8 step, code := BitVec.ofNat 8 code, unit := BitVec.ofNat 16 unit }
  { s with core := { zeroCore s.core with sys := resetSys }, die := darkDie b s.die }

/-! ## Firmware (R376) -/

/-- The bytes that a signature of 96 bytes at the end covers. -/
def signedBody (img : List Byte) : List Byte := img.take (img.length - 96)
/-- MREG[k] extended by a measurement, and the log. -/
def extendMreg (k : Nat) (digest : BitVec 384) (b : Boot) : Boot :=
  let old := b.mreg.getD k 0
  let new := sha384 ((toBytes 48 old.toNat).reverse ++ (toBytes 48 digest.toNat).reverse)
  { b with mreg := b.mreg.setIfInBounds k new, mlog := b.mlog ++ [(k, digest)] }
/-- The bytes of a public key: its coordinates, most significant byte first (DESIGN CHOICE, log entry 34). -/
def pubBytes (q : Nat × Nat) : List Byte := (toBytes 48 q.1).reverse ++ (toBytes 48 q.2).reverse
/-- R376: an image's signature, its last 96 bytes, verifies under a key that the stage accepts: the vendor root key, whose hash the fuses
hold, or for a monitor a key that a certificate names. -/
def imageSigned (fuses : BitVec 384) (key : Nat × Nat) (stage : Nat) (img : List Byte) : Bool :=
  (sha384 (pubBytes key) == fuses || (stage == 2 && Config.certified key))
    && ecdsaVerify key (sha384 (signedBody img)) (img.drop (img.length - 96))
/-- R376: the first n of the stages 0 boot, 1 control firmware, 2 monitor, 3 recipes, each measured once it is verified; and the first that
fails, an absent one too. -/
def measureStages (n : Nat) (imgs : List (List Byte)) (keys : List (Nat × Nat)) (b : Boot) : Boot × Option Nat :=
  (List.range (min n 4)).foldl (fun acc k => match acc.2, imgs[k]? with
    | some x, _ => (acc.1, some x)
    | none, none => (acc.1, some k)
    | none, some img =>
      if imageSigned b.fuses (keys.getD k (0, 0)) k img then (extendMreg k (sha384 (signedBody img)) acc.1, none) else (acc.1, some k)) (b, none)
/-- R374: the step in which a stage is verified, and how many stages have been looked at by the end of a step. -/
def stageStep (k : Nat) : Nat := if k = 0 then 1 else if k = 1 then 2 else 8
def stagesBy (step : Nat) : Nat := ((List.range 4).filter fun k => decide (stageStep k ≤ step)).length

/-- R18, R374: a key slot as it is loaded, from two bytes of its number and the pair: slot 511 stays, and a pair of two equal keys is
refused. -/
def loadKey (k : KeyUnit) (img : List Byte) : KeyUnit :=
  let pair := BitVec.ofNat 512 (ofBytes ((img.drop 2).take 64))
  let n := leAt img 0 2 % 512
  if n = 511 then k
  else if pair.extractLsb' 0 256 == pair.extractLsb' 256 256 then { k with err := true }
  else { k with slots := setSlot n pair k.slots }
/-- What the control cores write in steps 7 and 8 of R374, one item each: a TQROUTE entry (10 bytes: the chip and w), a group table entry (17
bytes: its number, w0, w1), or a key slot (66 bytes). -/
def bringUp (s : State) (img : List Byte) : State :=
  match img.length with
  | 10 => writeRoute (BitVec.ofNat 9 (leAt img 0 2)) (wordAtOff img 2) s
  | 17 => applyGroups (upColls (fun k => { k with
      deferred := (leAt img 0 1, wordAtOff img 1, wordAtOff img 9) :: k.deferred.filter fun d => d.1 != leAt img 0 1 }) s)
  | 66 => upKeys (fun k => loadKey k img) s
  | _ => s

/-- The die as steps 3 to 7 of R374 leave it: memory filled with zeros, links trained, the cores of nats offline. -/
def coldDie (offline : List Nat) (boot : Boot) (d : DieSt) : DieSt :=
  { resetDie with
    links := { resetDie.links with
      ports := Vector.replicate 37 { resetPort with up := true }, configured := d.links.configured.take 2 }
    disp := { resetDie.disp with peers := d.disp.peers.map fun p =>
      let off := offline.contains p.cid.toNat
      { resetPeer p.cid.toNat with offline := off, free := !off } }
    boot := boot }

/-- COLD_RESET: the eight steps of R374, or the safe state at the first that fails, with what was measured before. Reads: images (the four
firmware stages with their signatures, then what bringUp takes), keys (those that the stages come with), x (MENTRY), fail (a failing step with
its CODE and UNIT), b (units spared), nats (cores that are offline: DEGR). -/
def evColdReset (s : State) : State :=
  let a := s.arg
  let boot0 := { resetBoot with fuses := s.die.boot.fuses, draws := s.die.boot.draws, degr := a.b || !a.nats.isEmpty }
  let upto := match a.fail with | some (st, _, _) => st | none => 8
  let m := measureStages (stagesBy upto) a.images a.keys boot0
  let dead := fun (step code unit : Nat) => enterSafe step code unit (upBoot (fun _ => m.1) s)
  match m.2, a.fail with
  | some k, _ => dead (stageStep k) 1 0
  | none, some (st, code, unit) => dead st code unit
  | none, none =>
    let s1 : State := { s with
      core := { zeroCore s.core with sys := resetSys, offline := a.nats.contains s.core.cid.toNat }
      die := coldDie a.nats { m.1 with ready := true, step := 8 } s.die }
    ((a.images.drop 4).foldl bringUp s1).upCore fun c =>
      { c with run := if c.offline then .stopped else .idle, sys := { c.sys with mentry := a.x &&& ~~~3 } }

/-- CORE_RESET_TO_ZERO: the core enters the monitor at MENTRY; without a usable MENTRY it stops (R339). With b it is held in reset,
where MENTRY can be written. -/
def evCoreResetToZero (s : State) : State :=
  let s1 := s.upCore zeroCore
  if s.arg.b then s1
  else if mentryOk s1.core.sys.mentry then
    s1.upCore fun c => { c with run := .running, mon := true, mstream := ⟨c.sys.mentry &&& ~~~3, 1, 1, 0, none, none, none⟩ }
  else stopCore s1 0

/-! ## Counting errors and sparing (R378 to R380) -/

/-- R380: a core of the die goes offline: nothing is placed on it any more, its task is pre-empted and restored elsewhere, and a record that
it was to restore is queued again; lost: what it runs can be trusted no more, and has been given up. The INFO of that pre-emption the spec
does not state (DESIGN CHOICE, log entry 96). -/
def coreOffline (cid : Nat) (lost : Bool) (s : State) : State :=
  let own := cid == s.core.cid.toNat
  let s1 := match (runningAll s).find? fun r => r.cid == cid with
    | some r => if r.victim || lost then s else preemptAll r 1 true s
    | none => s
  let s2 := upBoot (fun b => { b with degr := true }) s1
  if own then
    match s2.core.restoring with
    | some (r, _) => fifoEnter true r (s2.upCore fun c => { c with offline := true, restoring := none, restoreLeft := none })
    | none => s2.upCore fun c => { c with offline := true }
  else upDisp (fun d => { d with peers := d.peers.map fun p => if p.cid.toNat == cid then { p with offline := true, free := false } else p }) s2
/-- R360, R380: the task of another core of the die is given up: of which record, the dispatcher does not say here (log entry 96). -/
def peerLost (cid : Nat) (s : State) : State :=
  match peerOf s cid with
  | some p => if p.free || p.offline then s else seqRaise 11 0 0 (BitVec.ofNat 64 Cause.memError.code) (peerFree cid s)
  | none => s

/-- R378: the number of a structure on chip, by its kind and index: 0 an L2 slice, 1 a bank of the Grotto cache, 2 a scratchpad bank, by
32 times the core-in-die plus the bank, 3 the register files of a core, by core-in-die. -/
def structUnit (kind index : Nat) : Nat := 4 * (kind * 2 ^ 16 + index) + 3
/-- R379: what a lasting fault of a structure on chip leads to; way is that of the event, in a cache. -/
def spareStruct (kind index way : Nat) (lost : Bool) (s : State) : State :=
  let degraded := upBoot (fun b => { b with degr := true })
  match kind with
  | 0 => degraded (disableWay index way s)
  | 1 =>
    let s1 := upGrotto (fun g => { g with deadWays := (index, way) :: without (index, way) g.deadWays }) s
    degraded (trimStore (s1.die.grotto.store.length + 1) s1)
  | 2 => coreOffline (index / 32) lost s
  | _ => coreOffline index lost s
/-- R378 to R380: an error in a structure on chip. A correctable one is counted; COUNT of them within SPAN make the structure a lasting
fault. After one that cannot be corrected (bad) in a scratchpad or in register files, the context of the task on the core cannot be
trusted any more: it is given up. -/
def structEvent (kind index way : Nat) (bad : Bool) (s : State) : State :=
  let u := structUnit kind index
  let core := if kind = 2 then index / 32 else index
  let s1 := if bad then markLasting u s else countWay u way s
  let lost := bad && decide (2 ≤ kind)
  let s2 := if !lost then s1
    else if core = s.core.cid.toNat then giveUpTask Cause.memError.code true s1 else peerLost core s1
  if bad || unitReached u s2 then spareStruct kind index way lost s2 else s2
/-- R378: the events held are weighed by a new ERRWIN. -/
def weighEvents (s : State) : State :=
  ((s.die.boot.events.map fun e => (e.1, e.2.2)).eraseDups.filter fun e => everReached s.die.boot e.1 && !s.die.boot.lasting.contains e.1).foldl
    (fun st e =>
      let st1 := markLasting e.1 st
      if e.1 % 4 = 3 then spareStruct (e.1 / 4 / 2 ^ 16) (e.1 / 4 % 2 ^ 16) e.2 false st1 else st1) s

/-- MC_LINE_READ (R15, R20), or with k = 5 an error in a structure on chip (R378). Reads there: x (its kind), n (its index), m (the way),
b (uncorrectable). -/
def evLineRead (s : State) : State :=
  if s.arg.k = 5 then structEvent s.arg.x.toNat s.arg.n s.arg.m s.arg.b s else evMcLineRead s

/-! ## Quotes and turnover (R377, R381) -/

/-- R377: the device key: the private number that HKDF-SHA-384 of the fuse secret gives, and its public key (log entry 34). -/
def devicePrivate : Nat :=
  Config.keyScalar (hkdf384 Config.hkdfSalt (toBytes 32 Config.fuseSecret.toNat).reverse ("K9 device".toList.map fun c => BitVec.ofNat 8 c.toNat))
def devicePublic : Nat × Nat := (ecMul 384 p384g (devicePrivate % p384n)).getD (0, 0)
/-- R377: the device id, the SHA-384 digest of the public key. -/
def deviceId : BitVec 384 := sha384 (pubBytes devicePublic)
/-- R377: what a quote holds, in the order of the rule. -/
def quoteBody (nonce : List Byte) (b : Boot) : List Byte :=
  nonce ++ b.mreg.toList.flatMap digestBytes ++ toBytes 8 stepId.toNat ++ digestBytes deviceId ++ toBytes 8 (brstat b).toNat
    ++ toBytes 8 b.turnovers
/-- R377: bytes signed with the device key, with the random number of a draw. -/
def deviceSign (draw : Nat) (body : List Byte) : BitVec 768 :=
  BitVec.ofNat 768 (ofBytes (ecdsaSign devicePrivate (Config.sigNonce draw) (sha384 body)).reverse)
/-- ATTESTATION_QUOTE: the nonce, the MREGs, STEPID, the device id, BRSTAT and the turnover count, signed with the device key (log entry 34).
Reads: bytes (the nonce, 48 bytes). -/
def evAttestationQuote (s : State) : State :=
  if s.arg.bytes.length ≠ 48 then s
  else
    let b := s.die.boot
    let body := quoteBody s.arg.bytes b
    (upBoot (fun b => { b with quoted := true, draws := b.draws + 1 }) s).send (.quote body (deviceSign b.draws body))

/-- The core after step 4 of R381: its register files, its stores and what it held for tasks are zero; what the control cores have
configured stays. -/
def cleanCore (c : CoreSt) : CoreSt :=
  { zeroCore c with
    run := if c.offline then .stopped else .idle
    sys := { resetSys with
      mentry := c.sys.mentry, quant := c.sys.quant, age := c.sys.age, preemptDelta := c.sys.preemptDelta, waitpark := c.sys.waitpark
      bartimeout := c.sys.bartimeout } }
/-- R381 steps 1 to 4 on the die. The arena's register keeps its value (DEDUCED, log entry 103). -/
def cleanDie (draws : Nat) (d : DieSt) : DieSt :=
  { d with
    mem := [], dram := []
    keys := { d.keys with
      busy := false, dat := Vector.replicate 8 0
      slots := (List.range 512).foldl (fun ks i => setSlot i (Config.drbg (draws + i)) ks) [] }
    coh := { resetCoh with cohint := d.coh.cohint, cohtkt := d.coh.cohtkt }
    grotto := { d.grotto with seqs := [], gens := [], store := [] }
    coll := { d.coll with colls := [], arms := [] }
    disp := { resetDisp with peers := d.disp.peers.map fun p => { resetPeer p.cid.toNat with offline := p.offline, free := !p.offline } }
    seq := { d.seq with busy := false, programs := [], run := none, notices := [], raised := [], stopped := true, halted := [], recipeStore := [] }
    links := { d.links with tqint := Vector.replicate 37 0 } }

/-- TENANT_TURNOVER. Reads: images, keys (the firmware stages re-read), nats (ports held down meanwhile), fail (a health-test failure that cannot
be spared: step, CODE, UNIT), b (one that has been spared: DEGR). -/
def evTenantTurnover (s : State) : State :=
  let s0 := stopProgram 0 s
  let s1 := s.arg.nats.foldl (fun st p => (portDown p st).upDie fun d => { d with links := { d.links with
    ports := d.links.ports.setIfInBounds p { d.links.ports.getD p resetPort with up := true } } }) s0
  let s2 := { s1 with core := cleanCore s1.core, die := cleanDie s1.die.boot.draws s1.die }
  let b0 := { s2.die.boot with
    mreg := Vector.replicate 4 0, turnovers := s.die.boot.turnovers + 1, quoted := false, step := 9, draws := s.die.boot.draws + 512
    degr := s.die.boot.degr || s.arg.b }
  let s3 := upBoot (fun _ => b0) s2
  let m := measureStages 4 s.arg.images s.arg.keys b0
  match m.2, s.arg.fail with
  | some _, _ => enterSafe 9 1 0 (upBoot (fun _ => m.1) s3)
  | none, some (_, code, unit) => enterSafe 9 code unit (upBoot (fun _ => m.1) s3)
  | none, none => upBoot (fun _ => m.1) s3

/-! ## Power (R382) -/

/-- POWER_LIMIT: an average above a limit brings in the next stage: arrays wake more slowly, bundles are stalled, issue stops. -/
def evPowerLimit (s : State) : State := upBoot (fun b => { b with powerStage := if b.powerStage = 3 then 3 else b.powerStage + 1 }) s
/-- POWER_AVERAGE_FALLS. -/
def evPowerAverageFalls (s : State) : State := upBoot (fun b => { b with powerStage := 0 }) s

/-- ARRAY_POWER_GATE: this core's array after 65,536 idle cycles; with b another core's. Reads: b, n (package core). -/
def evArrayPowerGate (s : State) : State :=
  let me := BitVec.ofNat 9 (packageCore s)
  let gate := fun (k : BitVec 9) (st : State) =>
    upBoot (fun b => { b with gated := if b.gated.contains k then b.gated else b.gated ++ [k] }) st
  if s.arg.b then (if BitVec.ofNat 9 s.arg.n = me then s else gate (BitVec.ofNat 9 s.arg.n) s)
  else if s.core.mxRun.isNone && s.core.mxQueue.isEmpty && decide (s.die.boot.arraySince + 65536 ≤ s.cycle) then gate me s
  else s

/-- The arrays that ask to wake: this core's, while an X instruction waits for it, and those of other cores. -/
def arraysAsking (s : State) : List (BitVec 9) :=
  let me := BitVec.ofNat 9 (packageCore s)
  (if s.die.boot.gated.contains me && !s.core.mxQueue.isEmpty then [me] else []) ++ without me s.die.boot.waking
/-- ARRAY_WAKE: one of the eight groups of the waking arrays is admitted, at most every 8,400 cycles (log entry 35). Reads: n (group);
with b another core's array, k, asks to wake. -/
def evArrayWake (s : State) : State :=
  if s.arg.b then
    upBoot (fun b => { b with waking := if b.gated.contains (BitVec.ofNat 9 s.arg.k) then without (BitVec.ofNat 9 s.arg.k) b.waking ++ [BitVec.ofNat 9 s.arg.k] else b.waking }) s
  else if s.cycle < s.die.boot.wakeSince + 8400 then s
  else
    let up := (arraysAsking s).filter fun k => k.toNat % 8 == s.arg.n % 8
    if up.isEmpty then s
    else upBoot (fun b => { b with
      gated := b.gated.filter fun k => !up.contains k, waking := b.waking.filter fun k => !up.contains k, wakeSince := s.cycle }) s

/-- THERMAL_TRIP. -/
def evThermalTrip (s : State) : State := enterSafe s.die.boot.step.toNat 7 0 s

/-! ## Management registers (R6) -/

/-- R42: HPCTL's fields. -/
def writeHpctl (x : W64) (k : Xlate) : Xlate :=
  { k with hpEn := x.getLsbD 63, hpThresh := x.extractLsb' 32 16, hpEpoch := x.extractLsb' 16 8, hpSample := x.extractLsb' 4 4 }
/-- R42, R95, R378: HPCTL, GRARENA and ERRWIN as they read. -/
def readHpctl (k : Xlate) : W64 :=
  BitVec.ofNat 64 ((if k.hpEn then 2 ^ 63 else 0) + k.hpThresh.toNat * 2 ^ 32 + k.hpEpoch.toNat * 2 ^ 16 + k.hpSample.toNat * 2 ^ 4)
def readArena (g : Grotto) : W64 := BitVec.ofNat 64 ((if g.en then 2 ^ 63 else 0) + g.sizeG.toNat * 2 ^ 46) ||| g.base
def readErrwin (b : Boot) : W64 := BitVec.ofNat 64 (b.errCount.toNat * 2 ^ 40 + b.errSpan.toNat)
/-- R95: GRARENA; ignored while a sequence is open, and with EN and a SIZEG out of range. -/
def writeArena (x : W64) (g : Grotto) : Grotto :=
  let size := (x.extractLsb' 46 8).toNat
  if !g.seqs.isEmpty || (x.getLsbD 63 && (size == 0 || decide (128 < size))) then g
  else { g with en := x.getLsbD 63, sizeG := BitVec.ofNat 16 size, base := x &&& 0x00003FFFC0000000 }
/-- R332: SQCTL: FAULT is cleared by a one, RANK and PRIO are stored; a command has a step of its own. -/
def writeSqctl (x : W64) (q : Sequencer) : Sequencer :=
  { q with fault := q.fault && !x.getLsbD 62, rank := x.extractLsb' 37 10, prio := x.extractLsb' 3 7 }

/-- REGISTER_WRITE: the writable fields of a management register. Reads: reg, x. -/
def evRegisterWrite (s : State) : State :=
  let x := s.arg.x
  match s.arg.reg with
  | .mkdat k => if s.die.keys.busy then s else upKeys (fun u => { u with dat := u.dat.set k.toFin x }) s
  | .mkctl => writeMkctl x s
  | .bpctlRej e =>
    let s1 := s.upDie fun d => { d with bpSel := e }
    if x.getLsbD 59 then setPark e { parkOf s1 e with rej := false } s1 else s1
  | .htbase => s.upDie fun d => { d with xlate := { d.xlate with htbase := x } }
  | .hpctl => s.upDie fun d => { d with xlate := writeHpctl x d.xlate }
  | .errwin => if x.extractLsb' 40 8 = 0 then s
      else weighEvents (upBoot (fun b => { b with errCount := x.extractLsb' 40 8 |>.setWidth 16, errSpan := x.extractLsb' 0 40 }) s)
  | .sqimg => upSeq (fun q => { q with sqimg := x }) s
  | .sqctl => upSeq (writeSqctl x) s
  | .tqroute chip => writeRoute chip x s
  | .grarena => upGrotto (writeArena x) s

/-! ## Execution -/

/-- MC_LINE_READ (R15): the step of this name, on what is in s.arg. -/
def execMcLineRead (s : State) : Host.Outcome State Fault Refusal := .next (evLineRead s)

/-- ATTESTATION_QUOTE (R377): the step of this name, on what is in s.arg. -/
def execAttestationQuote (s : State) : Host.Outcome State Fault Refusal := .next (evAttestationQuote s)
/-- COLD_RESET (R374): the step of this name, on what is in s.arg. -/
def execColdReset (s : State) : Host.Outcome State Fault Refusal := .next (evColdReset s)
/-- CORE_RESET_TO_ZERO (R374): the step of this name, on what is in s.arg. -/
def execCoreResetToZero (s : State) : Host.Outcome State Fault Refusal := .next (evCoreResetToZero s)
/-- TENANT_TURNOVER (R381): the step of this name, on what is in s.arg. -/
def execTenantTurnover (s : State) : Host.Outcome State Fault Refusal := .next (evTenantTurnover s)
/-- POWER_LIMIT (R382): the step of this name, on what is in s.arg. -/
def execPowerLimit (s : State) : Host.Outcome State Fault Refusal := .next (evPowerLimit s)
/-- ARRAY_POWER_GATE (R382): the step of this name, on what is in s.arg. -/
def execArrayPowerGate (s : State) : Host.Outcome State Fault Refusal := .next (evArrayPowerGate s)
/-- ARRAY_WAKE (R382): the step of this name, on what is in s.arg. -/
def execArrayWake (s : State) : Host.Outcome State Fault Refusal := .next (evArrayWake s)
/-- THERMAL_TRIP (R382): the step of this name, on what is in s.arg. -/
def execThermalTrip (s : State) : Host.Outcome State Fault Refusal := .next (evThermalTrip s)
/-- REGISTER_WRITE (R6): the step of this name, on what is in s.arg. -/
def execRegisterWrite (s : State) : Host.Outcome State Fault Refusal := .next (evRegisterWrite s)
/-- POWER_AVERAGE_FALLS (R382): the step of this name, on what is in s.arg. -/
def execPowerAverageFalls (s : State) : Host.Outcome State Fault Refusal := .next (evPowerAverageFalls s)

end Sys2Proof.Machine
end

