-- ==== Sys2Proof/Machine/Bundle.lean ====
section
/-! DEFINITION. A bundle fetched, decoded and issued from the head of the stream (R64 to R66, R142, R143, R148 to R158, R382). -/
namespace Sys2Proof.Machine

/-- R66, R157: the words the head of the stream needs: all of its bundle, or of an annulled one its header word. -/
def headWords (s : State) : FetchOut (List W32) :=
  let q := stream s
  match q.f0 with
  | some ws => .got ws
  | none =>
    if q.annul.getLsbD 0 then
      match fetchWord s q.q0 with
      | .got h => .got [h]
      | .fault c i => .fault c i
      | .probe a => .probe a
      | .line l u => .line l u
    else fetchBundle s q.q0

/-- R66, R156: what the issue of the bundle waits for or finds: its words, then the header words after it. -/
def issueLook (s : State) : FetchOut (List W32) :=
  match headWords s with
  | .probe a => .probe a
  | .line l u => .line l u
  | h => match aheadLook s with
    | .probe a => .probe a
    | .line l u => .line l u
    | _ => h

/-- R20, R58, R66: the fetch has taken what came for it: Errors that no access of the core waits for, and lines sent for one use. -/
def clearTold (s : State) : State :=
  if s.die.coh.badLines.isEmpty && s.die.coh.onceLines.isEmpty then s
  else
    let want := s.core.accs.map (·.line)
    upCoh (fun c => { c with badLines := c.badLines.filter fun b => b.eng || want.contains b.line, onceLines := [] }) s

/-- R64, R290: the code lines of a bundle that has been fetched just now enter the instruction cache; the two bundles after it have been
fetched before it commits, and stand as they were fetched. -/
def fillHead (ws : List W32) (s : State) : State :=
  let q := stream s
  let ahead := { fetchAhead s q with f0 := q.f0 }
  setStream (fillStream q ahead (if q.f0.isSome then s else fillFetched q.q0 ws.length s)) ahead

/-- R158: the bundle whose words have been fetched: its decode faults, or its syllables issue. -/
def issueWords (ws : List W32) (s : State) : State :=
  match decodeBundle (ws.headD 0) ws.tail with
  | .ok is => issueActs (issueList is) s
  | .illegalBundle => finishCycle (takeTrap (bundleTrap .illegalBundle 0 0 s) s)
  | .illegalOp m => finishCycle (takeTrap (bundleTrap .illegalOp 0 m s) s)

/-- A bundle whose words, or whose wait for them, are known, at the head of a formed stream. -/
def issueFetched (out : FetchOut (List W32)) (s : State) : State :=
  match out with
  | .fault c i => clearTold (finishCycle (takeTrap (bundleTrap c i 0 s) s))
  | .probe ia => finishCycle (holdBundle .structural (askProbes [(ia, none)] s))
  | .line _ _ => finishCycle (holdBundle .structural s)
  | .got ws =>
    let s1 := fillHead ws s
    clearTold (if (stream s1).annul.getLsbD 0 then issueActs [] s1 else issueWords ws s1)

/-- BUNDLE_ISSUE (R150). A fetch that waits for a probe's answer or a line holds the bundle; in the last stage of R382 nothing
issues. -/
def evBundleIssue (s : State) : State :=
  if s.core.run != .running || (boundary s).isSome || s.die.boot.powerStage == 3 then finishCycle s
  else let s1 := formLink s; serveHints (issueFetched (issueLook s1) (formed s1))

/-! ## Execution -/

/-- BUNDLE_ISSUE (R150): the step of this name, on what is in s.arg. -/
def execBundleIssue (s : State) : Host.Outcome State Fault Refusal := .next (evBundleIssue s)

end Sys2Proof.Machine
end

