-- ==== Sys2Proof/Machine/Dispatch.lean ====
section
/-! DEFINITION. The one dispatch of the machine: each instruction, operator and step to its meaning. -/
namespace Sys2Proof.Machine

def exec (i : Instr) (s : State) : Host.Outcome State Fault Refusal :=
  match i with
  | .nop f => Sys2Proof.Machine.execNop f s
  | .add f => Sys2Proof.Machine.execAdd f s
  | .sub f => Sys2Proof.Machine.execSub f s
  | .mul f => Sys2Proof.Machine.execMul f s
  | .mulh f => Sys2Proof.Machine.execMulh f s
  | .mulhn f => Sys2Proof.Machine.execMulhn f s
  | .div f => Sys2Proof.Machine.execDiv f s
  | .divn f => Sys2Proof.Machine.execDivn f s
  | .rem f => Sys2Proof.Machine.execRem f s
  | .remn f => Sys2Proof.Machine.execRemn f s
  | .and f => Sys2Proof.Machine.execAnd f s
  | .or f => Sys2Proof.Machine.execOr f s
  | .xor f => Sys2Proof.Machine.execXor f s
  | .andn f => Sys2Proof.Machine.execAndn f s
  | .shl f => Sys2Proof.Machine.execShl f s
  | .shr f => Sys2Proof.Machine.execShr f s
  | .sra f => Sys2Proof.Machine.execSra f s
  | .rol f => Sys2Proof.Machine.execRol f s
  | .min f => Sys2Proof.Machine.execMin f s
  | .max f => Sys2Proof.Machine.execMax f s
  | .minn f => Sys2Proof.Machine.execMinn f s
  | .maxn f => Sys2Proof.Machine.execMaxn f s
  | .clz f => Sys2Proof.Machine.execClz f s
  | .ctz f => Sys2Proof.Machine.execCtz f s
  | .popc f => Sys2Proof.Machine.execPopc f s
  | .mov f => Sys2Proof.Machine.execMov f s
  | .movh f => Sys2Proof.Machine.execMovh f s
  | .sext f => Sys2Proof.Machine.execSext f s
  | .zext f => Sys2Proof.Machine.execZext f s
  | .shadd1 f => Sys2Proof.Machine.execShadd1 f s
  | .shadd2 f => Sys2Proof.Machine.execShadd2 f s
  | .shadd3 f => Sys2Proof.Machine.execShadd3 f s
  | .cmpeq f => Sys2Proof.Machine.execCmpeq f s
  | .cmpne f => Sys2Proof.Machine.execCmpne f s
  | .cmplt f => Sys2Proof.Machine.execCmplt f s
  | .cmple f => Sys2Proof.Machine.execCmple f s
  | .cmpltn f => Sys2Proof.Machine.execCmpltn f s
  | .cmplen f => Sys2Proof.Machine.execCmplen f s
  | .pand f => Sys2Proof.Machine.execPand f s
  | .por f => Sys2Proof.Machine.execPor f s
  | .pxor f => Sys2Proof.Machine.execPxor f s
  | .pandn f => Sys2Proof.Machine.execPandn f s
  | .pget f => Sys2Proof.Machine.execPget f s
  | .pset f => Sys2Proof.Machine.execPset f s
  | .pall f => Sys2Proof.Machine.execPall f s
  | .fadd f => Sys2Proof.Machine.execFadd f s
  | .fsub f => Sys2Proof.Machine.execFsub f s
  | .fmul f => Sys2Proof.Machine.execFmul f s
  | .fma f => Sys2Proof.Machine.execFma f s
  | .fdiv f => Sys2Proof.Machine.execFdiv f s
  | .fsqrt f => Sys2Proof.Machine.execFsqrt f s
  | .fmin f => Sys2Proof.Machine.execFmin f s
  | .fmax f => Sys2Proof.Machine.execFmax f s
  | .fcmpeq f => Sys2Proof.Machine.execFcmpeq f s
  | .fcmplt f => Sys2Proof.Machine.execFcmplt f s
  | .fcmple f => Sys2Proof.Machine.execFcmple f s
  | .fcmpun f => Sys2Proof.Machine.execFcmpun f s
  | .ftoi f => Sys2Proof.Machine.execFtoi f s
  | .itof f => Sys2Proof.Machine.execItof f s
  | .fcvt f => Sys2Proof.Machine.execFcvt f s
  | .fclass f => Sys2Proof.Machine.execFclass f s
  | .mfs f => Sys2Proof.Machine.execMfs f s
  | .mts f => Sys2Proof.Machine.execMts f s
  | .probe f => Sys2Proof.Machine.execProbe f s
  | .vadd f => Sys2Proof.Machine.execVadd f s
  | .vsub f => Sys2Proof.Machine.execVsub f s
  | .vmul f => Sys2Proof.Machine.execVmul f s
  | .vfma f => Sys2Proof.Machine.execVfma f s
  | .vfms f => Sys2Proof.Machine.execVfms f s
  | .vmin f => Sys2Proof.Machine.execVmin f s
  | .vmax f => Sys2Proof.Machine.execVmax f s
  | .vminn f => Sys2Proof.Machine.execVminn f s
  | .vmaxn f => Sys2Proof.Machine.execVmaxn f s
  | .vabs f => Sys2Proof.Machine.execVabs f s
  | .vneg f => Sys2Proof.Machine.execVneg f s
  | .vmulh f => Sys2Proof.Machine.execVmulh f s
  | .vmulhn f => Sys2Proof.Machine.execVmulhn f s
  | .vsadd f => Sys2Proof.Machine.execVsadd f s
  | .vssub f => Sys2Proof.Machine.execVssub f s
  | .vand f => Sys2Proof.Machine.execVand f s
  | .vor f => Sys2Proof.Machine.execVor f s
  | .vxor f => Sys2Proof.Machine.execVxor f s
  | .vandn f => Sys2Proof.Machine.execVandn f s
  | .vnot f => Sys2Proof.Machine.execVnot f s
  | .vshl f => Sys2Proof.Machine.execVshl f s
  | .vshr f => Sys2Proof.Machine.execVshr f s
  | .vsra f => Sys2Proof.Machine.execVsra f s
  | .vclz f => Sys2Proof.Machine.execVclz f s
  | .vpopc f => Sys2Proof.Machine.execVpopc f s
  | .vcmpeq f => Sys2Proof.Machine.execVcmpeq f s
  | .vcmpne f => Sys2Proof.Machine.execVcmpne f s
  | .vcmplt f => Sys2Proof.Machine.execVcmplt f s
  | .vcmple f => Sys2Proof.Machine.execVcmple f s
  | .vcmpltn f => Sys2Proof.Machine.execVcmpltn f s
  | .vcmplen f => Sys2Proof.Machine.execVcmplen f s
  | .vcmpun f => Sys2Proof.Machine.execVcmpun f s
  | .vsel f => Sys2Proof.Machine.execVsel f s
  | .vmov f => Sys2Proof.Machine.execVmov f s
  | .vbcast f => Sys2Proof.Machine.execVbcast f s
  | .vxmov f => Sys2Proof.Machine.execVxmov f s
  | .vperm f => Sys2Proof.Machine.execVperm f s
  | .vperm2 f => Sys2Proof.Machine.execVperm2 f s
  | .vslideup f => Sys2Proof.Machine.execVslideup f s
  | .vslidedn f => Sys2Proof.Machine.execVslidedn f s
  | .vzip f => Sys2Proof.Machine.execVzip f s
  | .vunzip f => Sys2Proof.Machine.execVunzip f s
  | .viota f => Sys2Proof.Machine.execViota f s
  | .vcompress f => Sys2Proof.Machine.execVcompress f s
  | .vexpand f => Sys2Proof.Machine.execVexpand f s
  | .vextract f => Sys2Proof.Machine.execVextract f s
  | .vredadd f => Sys2Proof.Machine.execVredadd f s
  | .vredmax f => Sys2Proof.Machine.execVredmax f s
  | .vredmin f => Sys2Proof.Machine.execVredmin f s
  | .vscan f => Sys2Proof.Machine.execVscan f s
  | .vargmax f => Sys2Proof.Machine.execVargmax f s
  | .vargmin f => Sys2Proof.Machine.execVargmin f s
  | .vcvt f => Sys2Proof.Machine.execVcvt f s
  | .vcvtq f => Sys2Proof.Machine.execVcvtq f s
  | .vpack4 f => Sys2Proof.Machine.execVpack4 f s
  | .vunpack4 f => Sys2Proof.Machine.execVunpack4 f s
  | .vscale f => Sys2Proof.Machine.execVscale f s
  | .vplane f => Sys2Proof.Machine.execVplane f s
  | .vunplane f => Sys2Proof.Machine.execVunplane f s
  | .vdot4 f => Sys2Proof.Machine.execVdot4 f s
  | .vexp2 f => Sys2Proof.Machine.execVexp2 f s
  | .vexp f => Sys2Proof.Machine.execVexp f s
  | .vlog2 f => Sys2Proof.Machine.execVlog2 f s
  | .vln f => Sys2Proof.Machine.execVln f s
  | .vrcp f => Sys2Proof.Machine.execVrcp f s
  | .vrsq f => Sys2Proof.Machine.execVrsq f s
  | .vsqrt f => Sys2Proof.Machine.execVsqrt f s
  | .vtanh f => Sys2Proof.Machine.execVtanh f s
  | .vsigm f => Sys2Proof.Machine.execVsigm f s
  | .vsin f => Sys2Proof.Machine.execVsin f s
  | .vcos f => Sys2Proof.Machine.execVcos f s
  | .verf f => Sys2Proof.Machine.execVerf f s
  | .vgelu f => Sys2Proof.Machine.execVgelu f s
  | .lds f => Sys2Proof.Machine.execLds f s
  | .ldsn f => Sys2Proof.Machine.execLdsn f s
  | .sts f => Sys2Proof.Machine.execSts f s
  | .ldv f => Sys2Proof.Machine.execLdv f s
  | .stv f => Sys2Proof.Machine.execStv f s
  | .ldvx f => Sys2Proof.Machine.execLdvx f s
  | .stvx f => Sys2Proof.Machine.execStvx f s
  | .ldvb f => Sys2Proof.Machine.execLdvb f s
  | .ldvs f => Sys2Proof.Machine.execLdvs f s
  | .ldg f => Sys2Proof.Machine.execLdg f s
  | .ldgn f => Sys2Proof.Machine.execLdgn f s
  | .stg f => Sys2Proof.Machine.execStg f s
  | .ldgv f => Sys2Proof.Machine.execLdgv f s
  | .stgv f => Sys2Proof.Machine.execStgv f s
  | .lda f => Sys2Proof.Machine.execLda f s
  | .stl f => Sys2Proof.Machine.execStl f s
  | .aadd f => Sys2Proof.Machine.execAadd f s
  | .amin f => Sys2Proof.Machine.execAmin f s
  | .amax f => Sys2Proof.Machine.execAmax f s
  | .aminn f => Sys2Proof.Machine.execAminn f s
  | .amaxn f => Sys2Proof.Machine.execAmaxn f s
  | .aand f => Sys2Proof.Machine.execAand f s
  | .aor f => Sys2Proof.Machine.execAor f s
  | .axor f => Sys2Proof.Machine.execAxor f s
  | .axchg f => Sys2Proof.Machine.execAxchg f s
  | .acas f => Sys2Proof.Machine.execAcas f s
  | .afadd f => Sys2Proof.Machine.execAfadd f s
  | .vaor f => Sys2Proof.Machine.execVaor f s
  | .vaadd f => Sys2Proof.Machine.execVaadd f s
  | .drain f => Sys2Proof.Machine.execDrain f s
  | .pref f => Sys2Proof.Machine.execPref f s
  | .resid f => Sys2Proof.Machine.execResid f s
  | .icpin f => Sys2Proof.Machine.execIcpin f s
  | .icunpin f => Sys2Proof.Machine.execIcunpin f s
  | .dcwb f => Sys2Proof.Machine.execDcwb f s
  | .dcinv f => Sys2Proof.Machine.execDcinv f s
  | .mma f => Sys2Proof.Machine.execMma f s
  | .mmas f => Sys2Proof.Machine.execMmas f s
  | .mconv f => Sys2Proof.Machine.execMconv f s
  | .mzero f => Sys2Proof.Machine.execMzero f s
  | .mread f => Sys2Proof.Machine.execMread f s
  | .mwrite f => Sys2Proof.Machine.execMwrite f s
  | .mstore f => Sys2Proof.Machine.execMstore f s
  | .mplane f => Sys2Proof.Machine.execMplane f s
  | .msett f => Sys2Proof.Machine.execMsett f s
  | .mfence f => Sys2Proof.Machine.execMfence f s
  | .kseta f => Sys2Proof.Machine.execKseta f s
  | .ksetb f => Sys2Proof.Machine.execKsetb f s
  | .kfill f => Sys2Proof.Machine.execKfill f s
  | .kclr f => Sys2Proof.Machine.execKclr f s
  | .lsw f => Sys2Proof.Machine.execLsw f s
  | .lsr f => Sys2Proof.Machine.execLsr f s
  | .cpyin f => Sys2Proof.Machine.execCpyin f s
  | .cpyout f => Sys2Proof.Machine.execCpyout f s
  | .cpych f => Sys2Proof.Machine.execCpych f s
  | .cpykv f => Sys2Proof.Machine.execCpykv f s
  | .cpyst f => Sys2Proof.Machine.execCpyst f s
  | .cpymsg f => Sys2Proof.Machine.execCpymsg f s
  | .abclr f => Sys2Proof.Machine.execAbclr f s
  | .abwait f => Sys2Proof.Machine.execAbwait f s
  | .semset f => Sys2Proof.Machine.execSemset f s
  | .semadd f => Sys2Proof.Machine.execSemadd f s
  | .semrd f => Sys2Proof.Machine.execSemrd f s
  | .semwait f => Sys2Proof.Machine.execSemwait f s
  | .send f => Sys2Proof.Machine.execSend f s
  | .recv f => Sys2Proof.Machine.execRecv f s
  | .recvp f => Sys2Proof.Machine.execRecvp f s
  | .mbstat f => Sys2Proof.Machine.execMbstat f s
  | .coll f => Sys2Proof.Machine.execColl f s
  | .collarm f => Sys2Proof.Machine.execCollarm f s
  | .bwset f => Sys2Proof.Machine.execBwset f s
  | .sopen f => Sys2Proof.Machine.execSopen f s
  | .sclose f => Sys2Proof.Machine.execSclose f s
  | .ssnap f => Sys2Proof.Machine.execSsnap f s
  | .sroll f => Sys2Proof.Machine.execSroll f s
  | .sfork f => Sys2Proof.Machine.execSfork f s
  | .sdrop f => Sys2Proof.Machine.execSdrop f s
  | .spin f => Sys2Proof.Machine.execSpin f s
  | .sqry f => Sys2Proof.Machine.execSqry f s
  | .spawn f => Sys2Proof.Machine.execSpawn f s
  | .take f => Sys2Proof.Machine.execTake f s
  | .steal f => Sys2Proof.Machine.execSteal f s
  | .join f => Sys2Proof.Machine.execJoin f s
  | .domset f => Sys2Proof.Machine.execDomset f s
  | .br f => Sys2Proof.Machine.execBr f s
  | .bra f => Sys2Proof.Machine.execBra f s
  | .brf f => Sys2Proof.Machine.execBrf f s
  | .bl f => Sys2Proof.Machine.execBl f s
  | .jr f => Sys2Proof.Machine.execJr f s
  | .jrl f => Sys2Proof.Machine.execJrl f s
  | .ret f => Sys2Proof.Machine.execRet f s
  | .bloopw f => Sys2Proof.Machine.execBloopw f s
  | .bloope f => Sys2Proof.Machine.execBloope f s
  | .bar f => Sys2Proof.Machine.execBar f s
  | .bara f => Sys2Proof.Machine.execBara f s
  | .barw f => Sys2Proof.Machine.execBarw f s
  | .yield f => Sys2Proof.Machine.execYield f s
  | .endt f => Sys2Proof.Machine.execEndt f s
  | .halt f => Sys2Proof.Machine.execHalt f s
  | .trap f => Sys2Proof.Machine.execTrap f s
  | .bkpt f => Sys2Proof.Machine.execBkpt f s
  | .eret f => Sys2Proof.Machine.execEret f s
  | .wfe f => Sys2Proof.Machine.execWfe f s
  | .prio f => Sys2Proof.Machine.execPrio f s
  | .bundleIssue => Sys2Proof.Machine.execBundleIssue s
  | .scoreboardArrival => Sys2Proof.Machine.execScoreboardArrival s
  | .pendingEndEffect => Sys2Proof.Machine.execPendingEndEffect s
  | .wfeTimeout => Sys2Proof.Machine.execWfeTimeout s
  | .timerExpiry => Sys2Proof.Machine.execTimerExpiry s
  | .mcLineRead => Sys2Proof.Machine.execMcLineRead s
  | .hotPageEpoch => Sys2Proof.Machine.execHotPageEpoch s
  | .mcLineWrite => Sys2Proof.Machine.execMcLineWrite s
  | .fastFill => Sys2Proof.Machine.execFastFill s
  | .mkLoad => Sys2Proof.Machine.execMkLoad s
  | .mkLoadRandom => Sys2Proof.Machine.execMkLoadRandom s
  | .mkZeroise => Sys2Proof.Machine.execMkZeroise s
  | .mkCommandComplete => Sys2Proof.Machine.execMkCommandComplete s
  | .bpctlSelect => Sys2Proof.Machine.execBpctlSelect s
  | .parkTestUnpark => Sys2Proof.Machine.execParkTestUnpark s
  | .parkTest => Sys2Proof.Machine.execParkTest s
  | .unpark => Sys2Proof.Machine.execUnpark s
  | .parkingComplete => Sys2Proof.Machine.execParkingComplete s
  | .marchComplete => Sys2Proof.Machine.execMarchComplete s
  | .unparkingComplete => Sys2Proof.Machine.execUnparkingComplete s
  | .homeProbe => Sys2Proof.Machine.execHomeProbe s
  | .probeAnswer => Sys2Proof.Machine.execProbeAnswer s
  | .pageTableWalk => Sys2Proof.Machine.execPageTableWalk s
  | .htChangePage => Sys2Proof.Machine.execHtChangePage s
  | .htChangeAll => Sys2Proof.Machine.execHtChangeAll s
  | .filterInvalidate => Sys2Proof.Machine.execFilterInvalidate s
  | .filterAckWhenFree => Sys2Proof.Machine.execFilterAckWhenFree s
  | .filterInvAck => Sys2Proof.Machine.execFilterInvAck s
  | .migration => Sys2Proof.Machine.execMigration s
  | .readShared => Sys2Proof.Machine.execReadShared s
  | .readOwn => Sys2Proof.Machine.execReadOwn s
  | .upgrade => Sys2Proof.Machine.execUpgrade s
  | .writeBack => Sys2Proof.Machine.execWriteBack s
  | .readSharedUnc => Sys2Proof.Machine.execReadSharedUnc s
  | .readOwnUnc => Sys2Proof.Machine.execReadOwnUnc s
  | .readOwnAtom => Sys2Proof.Machine.execReadOwnAtom s
  | .homeDieRead => Sys2Proof.Machine.execHomeDieRead s
  | .homeDieExclusive => Sys2Proof.Machine.execHomeDieExclusive s
  | .forward => Sys2Proof.Machine.execForward s
  | .invalidate => Sys2Proof.Machine.execInvalidate s
  | .invAck => Sys2Proof.Machine.execInvAck s
  | .data => Sys2Proof.Machine.execData s
  | .error => Sys2Proof.Machine.execError s
  | .requestResend => Sys2Proof.Machine.execRequestResend s
  | .ticketSkip => Sys2Proof.Machine.execTicketSkip s
  | .waitingRequestServe => Sys2Proof.Machine.execWaitingRequestServe s
  | .wayFreeWait => Sys2Proof.Machine.execWayFreeWait s
  | .homeSliceEviction => Sys2Proof.Machine.execHomeSliceEviction s
  | .localSliceRead => Sys2Proof.Machine.execLocalSliceRead s
  | .localSliceWrite => Sys2Proof.Machine.execLocalSliceWrite s
  | .localSliceEviction => Sys2Proof.Machine.execLocalSliceEviction s
  | .codeLineFill => Sys2Proof.Machine.execCodeLineFill s
  | .icacheFill => Sys2Proof.Machine.execIcacheFill s
  | .regionRelease => Sys2Proof.Machine.execRegionRelease s
  | .granuleClearDone => Sys2Proof.Machine.execGranuleClearDone s
  | .mailboxDelivery => Sys2Proof.Machine.execMailboxDelivery s
  | .messageAccept => Sys2Proof.Machine.execMessageAccept s
  | .postedBufferFill => Sys2Proof.Machine.execPostedBufferFill s
  | .copyCommandStart => Sys2Proof.Machine.execCopyCommandStart s
  | .copyChunkLanded => Sys2Proof.Machine.execCopyChunkLanded s
  | .copyCommandComplete => Sys2Proof.Machine.execCopyCommandComplete s
  | .chainRecordRead => Sys2Proof.Machine.execChainRecordRead s
  | .stateChunkWrite => Sys2Proof.Machine.execStateChunkWrite s
  | .positionPreempt => Sys2Proof.Machine.execPositionPreempt s
  | .positionRollDone => Sys2Proof.Machine.execPositionRollDone s
  | .collPostForward => Sys2Proof.Machine.execCollPostForward s
  | .collectiveStart => Sys2Proof.Machine.execCollectiveStart s
  | .collectiveComplete => Sys2Proof.Machine.execCollectiveComplete s
  | .armEntry => Sys2Proof.Machine.execArmEntry s
  | .flagReread => Sys2Proof.Machine.execFlagReread s
  | .spawnRelease => Sys2Proof.Machine.execSpawnRelease s
  | .matrixStart => Sys2Proof.Machine.execMatrixStart s
  | .matrixComplete => Sys2Proof.Machine.execMatrixComplete s
  | .barrierArrival => Sys2Proof.Machine.execBarrierArrival s
  | .barrierPhaseComplete => Sys2Proof.Machine.execBarrierPhaseComplete s
  | .barrierTimeout => Sys2Proof.Machine.execBarrierTimeout s
  | .fifoArrival => Sys2Proof.Machine.execFifoArrival s
  | .returnStoreDrain => Sys2Proof.Machine.execReturnStoreDrain s
  | .coreTakesRecord => Sys2Proof.Machine.execCoreTakesRecord s
  | .affinityExpiry => Sys2Proof.Machine.execAffinityExpiry s
  | .agingStep => Sys2Proof.Machine.execAgingStep s
  | .quantumExpiry => Sys2Proof.Machine.execQuantumExpiry s
  | .parking => Sys2Proof.Machine.execParking s
  | .parkWake => Sys2Proof.Machine.execParkWake s
  | .gangPlacement => Sys2Proof.Machine.execGangPlacement s
  | .gangStart => Sys2Proof.Machine.execGangStart s
  | .trapEntry => Sys2Proof.Machine.execTrapEntry s
  | .contextSave => Sys2Proof.Machine.execContextSave s
  | .imageWriteout => Sys2Proof.Machine.execImageWriteout s
  | .contextRestore => Sys2Proof.Machine.execContextRestore s
  | .chqPop => Sys2Proof.Machine.execChqPop s
  | .chqAppend => Sys2Proof.Machine.execChqAppend s
  | .chqResume => Sys2Proof.Machine.execChqResume s
  | .snapnDiscard => Sys2Proof.Machine.execSnapnDiscard s
  | .mentryWrite => Sys2Proof.Machine.execMentryWrite s
  | .debugHaltRequest => Sys2Proof.Machine.execDebugHaltRequest s
  | .gangHeldClear => Sys2Proof.Machine.execGangHeldClear s
  | .sqStart => Sys2Proof.Machine.execSqStart s
  | .sqStop => Sys2Proof.Machine.execSqStop s
  | .sqPopReport => Sys2Proof.Machine.execSqPopReport s
  | .programFaultStop => Sys2Proof.Machine.execProgramFaultStop s
  | .visynLoad => Sys2Proof.Machine.execVisynLoad s
  | .operatorComplete => Sys2Proof.Machine.execOperatorComplete s
  | .bytecodeNop => Sys2Proof.Machine.execBytecodeNop s
  | .endOp => Sys2Proof.Machine.execEndOp s
  | .dim => Sys2Proof.Machine.execDim s
  | .view => Sys2Proof.Machine.execView s
  | .alloc => Sys2Proof.Machine.execAlloc s
  | .free => Sys2Proof.Machine.execFree s
  | .loop => Sys2Proof.Machine.execLoop s
  | .endloop => Sys2Proof.Machine.execEndloop s
  | .brz => Sys2Proof.Machine.execBrz s
  | .brnz => Sys2Proof.Machine.execBrnz s
  | .call => Sys2Proof.Machine.execCall s
  | .bytecodeRet => Sys2Proof.Machine.execBytecodeRet s
  | .fuse => Sys2Proof.Machine.execFuse s
  | .shard => Sys2Proof.Machine.execShard s
  | .sync => Sys2Proof.Machine.execSync s
  | .matmul => Sys2Proof.Machine.execMatmul s
  | .bmatmul => Sys2Proof.Machine.execBmatmul s
  | .conv => Sys2Proof.Machine.execConv s
  | .ewise => Sys2Proof.Machine.execEwise s
  | .reduce => Sys2Proof.Machine.execReduce s
  | .softmax => Sys2Proof.Machine.execSoftmax s
  | .norm => Sys2Proof.Machine.execNorm s
  | .gather => Sys2Proof.Machine.execGather s
  | .scatter => Sys2Proof.Machine.execScatter s
  | .permute => Sys2Proof.Machine.execPermute s
  | .concat => Sys2Proof.Machine.execConcat s
  | .convert => Sys2Proof.Machine.execConvert s
  | .quant => Sys2Proof.Machine.execQuant s
  | .attend => Sys2Proof.Machine.execAttend s
  | .kvappend => Sys2Proof.Machine.execKvappend s
  | .scan => Sys2Proof.Machine.execScan s
  | .stateop => Sys2Proof.Machine.execStateop s
  | .route => Sys2Proof.Machine.execRoute s
  | .dispatch => Sys2Proof.Machine.execDispatch s
  | .combine => Sys2Proof.Machine.execCombine s
  | .collective => Sys2Proof.Machine.execCollective s
  | .copy => Sys2Proof.Machine.execCopy s
  | .kcall => Sys2Proof.Machine.execKcall s
  | .loopr => Sys2Proof.Machine.execLoopr s
  | .tile => Sys2Proof.Machine.execTile s
  | .bind => Sys2Proof.Machine.execBind s
  | .emit => Sys2Proof.Machine.execEmit s
  | .waith => Sys2Proof.Machine.execWaith s
  | .sigh => Sys2Proof.Machine.execSigh s
  | .allocr => Sys2Proof.Machine.execAllocr s
  | .freer => Sys2Proof.Machine.execFreer s
  | .collr => Sys2Proof.Machine.execCollr s
  | .endr => Sys2Proof.Machine.execEndr s
  | .groupTableWrite => Sys2Proof.Machine.execGroupTableWrite s
  | .flitSend => Sys2Proof.Machine.execFlitSend s
  | .flitReceive => Sys2Proof.Machine.execFlitReceive s
  | .nak => Sys2Proof.Machine.execNak s
  | .retrainComplete => Sys2Proof.Machine.execRetrainComplete s
  | .rateFlit => Sys2Proof.Machine.execRateFlit s
  | .portDown => Sys2Proof.Machine.execPortDown s
  | .hostBarAccess => Sys2Proof.Machine.execHostBarAccess s
  | .attestationQuote => Sys2Proof.Machine.execAttestationQuote s
  | .coldReset => Sys2Proof.Machine.execColdReset s
  | .coreResetToZero => Sys2Proof.Machine.execCoreResetToZero s
  | .tenantTurnover => Sys2Proof.Machine.execTenantTurnover s
  | .powerLimit => Sys2Proof.Machine.execPowerLimit s
  | .arrayPowerGate => Sys2Proof.Machine.execArrayPowerGate s
  | .arrayWake => Sys2Proof.Machine.execArrayWake s
  | .thermalTrip => Sys2Proof.Machine.execThermalTrip s
  | .registerWrite => Sys2Proof.Machine.execRegisterWrite s
  | .spilledMessageMove => Sys2Proof.Machine.execSpilledMessageMove s
  | .powerAverageFalls => Sys2Proof.Machine.execPowerAverageFalls s

end Sys2Proof.Machine
end

