-- ==== Sys2Proof/Machine/Choose.lean ====
section
/-! DEFINITION. The steps that the machine can make of itself beside the issue of a bundle: those of the memory, the engines, the
dispatcher and the sequencer that something waits for (R405). Steps that only the outside brings about (messages of other agents,
the control cores, the host, evictions) are not among them. -/
namespace Sys2Proof.Machine

/-- A step with its argument. -/
abbrev Choice := Instr × EventArg

def plain (i : Instr) : Choice := (i, EventArg.blank)
def withN (i : Instr) (n : Nat) : Choice := (i, { EventArg.blank with n := n })
def withK (i : Instr) (k : Nat) : Choice := (i, { EventArg.blank with k := k })
def withBN (i : Instr) (n : Nat) : Choice := (i, { EventArg.blank with b := true, n := n })
/-- A step about a line, for requester who, with the event's further fields. -/
def onLine (i : Instr) (l : BitVec 50) (who : BitVec 10) (b : Bool := false) (n : Nat := 0) (k : Nat := 0) (m : Nat := 0) : Choice :=
  (i, { EventArg.blank with line := l, agent := who, b := b, n := n, k := k, m := m })
/-- A choice where a condition holds. -/
def when (b : Bool) (c : Choice) : List Choice := if b then [c] else []

/-! ## Lines that something waits for -/

/-- Who waits for a line: the core's caches, its fetch, its fetch for a tag, or an engine, by the number plus one of its copy channel and
the number of the core's access that its work was issued after. Engines and tags are read uncached (R56, R65). -/
inductive Waiter where
  | cache
  | fetch
  | tag
  | engine (chan seq : Nat)
deriving DecidableEq, Repr
/-- A line that is waited for, whether it is to be written, and whether the whole of it is (R21). -/
structure Want where
  line : BitVec 50
  write : Bool
  full : Bool
  who : Waiter
deriving DecidableEq, Repr

def engReads (chan seq : Nat) (ias : List Nat) : List Want := (linesOf ias).map fun l => ⟨l, false, false, .engine chan seq⟩
def engWrites (chan : Nat) (ias : List Nat) : List Want :=
  (linesOf ias).map fun l => ⟨l, true, coversLine l (ias.map fun a => (a, 0)), .engine chan 0⟩
/-- What a command of a copy channel reads. -/
def cmdReads (c : Cmd) (ias : List Nat) : List Want := engReads (chanNo c) c.seq ias

/-- The lines that accesses of the core wait for, and its prefetches. -/
def accWants (s : State) : List Want :=
  (neededLines s).map fun x => ⟨x.1, x.2, x.2 && (match nextWrite s x.1 with | some g => wholeLine g | none => false), .cache⟩
/-- The line that the fetch waits for. -/
def fetchWants (s : State) : List Want :=
  if s.core.run == .running && (boundary s).isNone then
    match issueLook s with
    | .line l unc => [⟨l, false, false, if unc then .tag else .fetch⟩]
    | _ => []
  else []
/-- R67: the lines of pinned code that the caches lack: the code, then its tag. -/
def pinWants (s : State) : List Want :=
  (s.core.pins.flatMap fun p => (List.range p.count).map fun i => (BitVec.ofNat 49 (p.first.toNat + i))).flatMap fun c =>
    if !codeHeld s c then [0, 1].map fun i => ⟨BitVec.ofNat 50 (c.toNat * 2 + i), false, false, .cache⟩
    else if s.die.coh.verified.contains c then []
    else match codeLine s (BitVec.ofNat 56 (c.toNat * 128)) with
      | .line l true => [⟨l, false, false, .tag⟩]
      | _ => []
/-- The lines of tasks that have stopped (R186, R269). -/
def leaveWants (s : State) : List Want :=
  s.core.leaving.flatMap fun l =>
    match counterCheck s l with
    | .go ia => if leftQuiet s l && !l.member && l.counter then (joinLines l ia).map (fun x => ⟨x.1, x.2, false, .cache⟩) else []
    | _ => []

/-- The piece of a command that moves next, drawn from those that have not landed (R86, R90). -/
def drawPiece (s : State) (c : Cmd) : Option Nat :=
  let left := (List.range (pieces c)).filter fun p => !c.landed.contains p
  if left.isEmpty then none else left[Config.pick (s.tick + c.seq) % left.length]?

/-- The lines of a command's block table entry that is read next (R107). -/
def kvWants (s : State) (c : Cmd) : List Want :=
  match (kvBlocks c).find? fun b => !c.blocks.any fun x => x.1 == b with
  | some b => if copyOrdered s c c.ord && (btcFind s c b).isNone then
      (match kvEntryIa c b (kvEntryVa c b) with | some a => cmdReads c ((List.range 8).map fun i => (a + i) % 2 ^ 56) | none => [])
    else []
  | none => []
/-- The lines of a chain's record: to be read, or its OWN to be cleared (R92). -/
def chainWants (s : State) (c : Cmd) : List Want :=
  match cmdWindow c c.e1 (c.e1 + 63) .rd with
  | none => []
  | some ia =>
    let ias := (List.range 64).map fun i => (ia.toNat + i) % 2 ^ 56
    if c.record.isSome then (if allLanded c then engWrites (chanNo c) (ias.take 8) else [])
    else if c.started && !c.checked && copyOrdered s c 0 then cmdReads c ias else []
/-- Lines that the commands of a channel wait for. -/
def chanWants (s : State) (h : Channel) : List Want :=
  h.queue.flatMap fun c =>
    (if c.isKv && c.started && !c.checked then kvWants s c else [])
    ++ (if c.isChain then chainWants s c else [])
    ++ (if c.checked && copyOrdered s c (moveOrd c) then
          match drawPiece s c with
          | some p =>
            let ws := pieceWrites c p
            (pieceNeeds s c p).map fun x => ⟨x.1, x.2, x.2 && coversLine x.1 (ws.map fun a => (a, 0)), .engine (chanNo c) c.seq⟩
          | none => []
        else [])

/-- Lines of a collective: its descriptor, its arrays, its w7 (R180). -/
def collWants (s : State) (c : Coll) : List Want :=
  match c.post with
  | none => []
  | some p =>
    (if c.desc.isNone && postAcquired s p then (match postSpan p p.desc 64 .rd with | some ias => engReads 0 p.seq ias | none => []) else [])
    ++ (if (c.fail.isSome && c.checked) || c.wrote then engWrites 0 (w7Ias p) else [])
    ++ (match c.running, c.desc, c.entry.bind (groupOf s) with
        | true, some d, some g =>
          let n := g.members.length
          if c.mine.isNone then (match postSpan p d.w1 (dSrcLen d n) .rd with | some ias => engReads 0 p.seq ias | none => [])
          else if c.wrote then []
          else (match postSpan p d.w2 (dDstLen d n) .w with | some ias => engWrites 0 (nextChunk c ias) | none => [])
        | _, _, _ => [])

/-- The element that a DIM waits for (R318). -/
def dimWants (s : State) (l : Launch) : List Want :=
  match nextBc s with
  | some (_, some i) =>
    if i.op ≠ 2 then []
    else match (storedAt l i.bc.sa).bind fun t => viewOf l (seqRank s) t with
      | some v => engReads 0 0 (seqIas l.prog.off (v.va + BitVec.ofNat 64 (4 * v.index (unlinear v.dims (attrBits i.bc 1 0 32)))) 4)
      | none => []
  | _ => []
/-- Lines of the sequencer: the blocks of the operators to issue, and the operands of those that run (R323, R325). -/
def seqWants (s : State) : List Want :=
  match s.die.seq.run with
  | none => []
  | some l =>
    let off := l.prog.off
    dimWants s l ++ (match wsAlloc 128 128 l with
     | some (a, l1) => engWrites 0 (seqIas off a 128) ++ (match wsAlloc 64 64 l1 with
       | some (b, _) => engWrites 0 (seqIas off b 64)
       | none => [])
     | none => [])
    ++ (match wsAlloc 64 64 l with | some (a, _) => engWrites 0 (seqIas off a 64) | none => [])
    ++ (l.opers.filter (·.issued)).flatMap fun o =>
      engWrites 0 (seqIas off o.block 128)
        ++ o.colls.flatMap (fun d => engReads 0 0 (seqIas off d 64))
        ++ (if o.ran then []
            else
              let ias := operIas off o
              engReads 0 0 ias ++ engWrites 0 (ias.filter fun a => isLocal s (BitVec.ofNat 56 a))
                ++ (match wsAlloc (vw o 1).span 64 l with
                    | some (t, _) => if o.plan.isSome then engWrites 0 (seqIas off t (vw o 1).span) else []
                    | none => []))

/-- Records wait for a core. -/
def workWaits (s : State) : Bool :=
  let d := s.die.disp
  !d.fifo.isEmpty || !s.core.deque.isEmpty || !s.core.dequeOvf.isEmpty || d.peers.any fun p => !p.deque.isEmpty || !p.ovf.isEmpty
/-- R352, R355: a context of this core is to be written out: another core takes it, alone or with its gang, or its granules are needed. -/
def outWanted (s : State) (va : W64) : Bool :=
  (coreFree s && workWaits s && (choose s s.core.cid.toNat).isNone)
    || (s.die.disp.peers.any fun p => p.free && !p.offline && match choose s p.cid.toNat with
        | some (_, d) => d.record.w7 == va
        | none => false)
    || s.die.disp.gangs.any fun g =>
        let dom := g.w0.extractLsb' 32 16
        gangReady g && (gangRecs s dom).any fun f =>
          f.record.w7 == va && (reservedCores s dom).any fun c => c.1 != s.core.cid.toNat && c.2 == recRank f.record
/-- The contexts of this core that are to be written out now. -/
def outNow (s : State) : List (W64 × Ctx) :=
  (s.core.saveArea.toList ++ s.die.disp.slots).filter fun x => (x.2.inCore || !x.2.granules.isEmpty) && outWanted s x.1
/-- Lines of a context that is to be written out, or read from its slot (R352, R356). -/
def slotWants (s : State) : List Want :=
  ((outNow s).flatMap fun x => engWrites 0 ((slotCells s x.1 x.2).map (·.1)))
    ++ (match s.core.restoring with
        | some (r, _) => if (s.core.saveArea.any fun x => x.1 == r.w7) then [] else engReads 0 0 (slotReads s r)
        | none => [])
/-- R181: the lines of armed flags, which the local slices hold. -/
def armWants (s : State) : List Want :=
  (s.die.coll.arms.filter (·.changed)).flatMap fun a => (linesOf (flagIas a)).map fun l => ⟨l, false, false, .cache⟩

def allWants (s : State) : List Want :=
  accWants s ++ fetchWants s ++ pinWants s ++ leaveWants s ++ s.core.channels.toList.flatMap (chanWants s) ++ s.die.coll.colls.flatMap (collWants s)
    ++ (s.die.coll.deferred.flatMap fun d => if entryUsed s d.1 then [] else engReads 0 0 (listIas d.2.1 d.2.2)) ++ armWants s ++ seqWants s ++ slotWants s

/-- R20: the class of the read that a waiter's line needs at its controller. -/
def Waiter.cls : Waiter → Nat
  | .engine _ _ => 1
  | _ => 0
/-- The step that brings a line nearer. Of a line with an Error only a write of the whole of it is still waited for (R21). -/
def lineStep (s : State) (w : Want) : List Choice :=
  let me := s.core.agent
  let ready := match w.who, w.write with
    | .engine _ _, true => engWritable s w.line
    | .engine c n, false => engReadable s c n w.line
    | .tag, _ => tagReadable s w.line
    | .fetch, _ => fetchReadable s w.line
    | .cache, true => lineWritable s w.line
    | .cache, false => lineReadable s w.line
  let chan := match w.who with | .engine c _ => c | _ => 0
  let eng := w.who.cls == 1
  if ready || (lineBad s w.line && !w.full) then []
  else if isLocal s (lineIa w.line) then
    if dramOnly s w.line && !lineBad s w.line then [onLine .mcLineRead w.line me (k := w.who.cls)]
    else if w.write then [onLine .homeDieExclusive w.line me (b := eng) (m := if w.full then 1 else 0) (n := chan)]
    else [onLine .homeDieRead w.line me (b := eng || w.who == .tag) (n := if w.who == .tag then 1 else 0) (m := chan)]
  else if w.write then (if eng then [] else [onLine .localSliceWrite w.line me])
  else [onLine .localSliceRead w.line me (b := eng || w.who == .tag) (k := if w.who == .tag then 1 else 0) (n := chan)]

/-! ## The kinds of steps -/

/-- R35, R38: the pages of this die that something asks about. -/
def askedPages (s : State) : List (BitVec 56) :=
  (s.core.probes ++ s.core.leaving.flatMap (·.probes) ++ s.core.hints.flatMap (·.probes)
    ++ (s.core.channels.toList.flatMap fun h => h.queue.flatMap (·.probes)) ++ s.die.coll.colls.flatMap (·.probes)).filterMap
      (fun q => if q.2.isNone && isLocal s q.1 then some q.1 else none)
    ++ s.core.awaits.filterMap fun a => match a.probe, a.value with
      | some (ia, _, _), none => if isLocal s ia then some ia else none
      | _, _ => none

/-- Requests that wait at the home slices for their line, their turn or a way (R52, R62). -/
def homeChoices (s : State) : List Choice :=
  s.die.coh.waiting.flatMap fun t =>
    let mine := t.src == s.core.agent
    when (dramOnly s t.line) (onLine .mcLineRead t.line t.src (k := if !mine then 2 else if t.eng then 1 else 0))
      ++ [onLine .waitingRequestServe t.line s.core.agent, onLine .wayFreeWait t.line s.core.agent]

/-- Memory, translation and coherence; the repair of a bank with a lasting fault, and its retirement, are the control cores' (R379; R19, R26, R35, R38, R40, R41, R42, R52, R62). -/
def memChoices (s : State) : List Choice :=
  let coh := s.die.coh
  (allWants s).flatMap (lineStep s) ++ homeChoices s
    ++ (askedPages s).map (fun ia => (.homeProbe, { EventArg.blank with ia := ia, agent := s.core.agent }))
    ++ coh.resends.map (fun r => onLine .requestResend r.line s.core.agent)
    ++ when (!coh.later.isEmpty) (.requestResend, { EventArg.blank with b := true })
    ++ when (!(deadLines s).isEmpty) (.wayFreeWait, { EventArg.blank with b := true })
    ++ (if coh.next == coh.serve then [] else (List.range 48).map (withN .ticketSkip))
    ++ when s.die.keys.busy (plain .mkCommandComplete)
    ++ (if s.die.park.toList.any (·.busy) then (List.range 4).flatMap fun e =>
          let p := parkOf s (BitVec.ofNat 2 e)
          withN .unparkingComplete e :: when (!lastingBank s p.pc p.bank) (withN .parkingComplete e) else [])
    ++ when (!s.core.deferInv.isEmpty) (plain .filterAckWhenFree)
    ++ when s.die.xlate.migration.isSome (plain .migration)
    ++ when (s.die.xlate.hpEn && s.die.xlate.migration.isNone && !(hotPages s).isEmpty) (withK .migration 1)
    ++ when (s.die.xlate.hpEn && epochDue s) (plain .hotPageEpoch)

/-- R67: the lines of the pins that are absent from where they are pinned. -/
def pinChoices (s : State) : List Choice :=
  s.core.pins.flatMap fun p =>
    ((List.range p.count).map fun i => p.first.toNat + i).flatMap fun c =>
      if !s.die.coh.verified.contains (BitVec.ofNat 49 c) then [withN .codeLineFill c]
      else if !p.l2 && !s.core.icache.contains (BitVec.ofNat 49 c) then [withN .icacheFill c] else []

/-- The copy channels (R78 to R92). -/
def copyChoices (s : State) : List Choice :=
  (List.range 4).flatMap fun k =>
    let h := chOf s (BitVec.ofNat 2 k)
    if h.queue.isEmpty then []
    else
      [withN .copyCommandStart k, withN .chainRecordRead k, withN .copyCommandComplete k]
        ++ h.queue.zipIdx.flatMap fun x =>
          match drawPiece s x.1 with
          | none => []
          | some p =>
            let arg := { EventArg.blank with n := k, m := x.2, k := p }
            if x.1.isState then [(.copyChunkLanded, arg), (.stateChunkWrite, arg)] else [(.copyChunkLanded, arg)]

/-- The scoreboard, the matrix unit, the granules, deques and messages of the core. -/
def coreChoices (s : State) : List Choice :=
  let c := s.core
  let me := BitVec.ofNat 9 (packageCore s)
  (c.awaits.filter (awaitReady s)).map (fun a => withK .scoreboardArrival a.id)
    ++ when (!c.leaving.isEmpty) (plain .pendingEndEffect)
    ++ when (s.die.boot.gated.contains me && !c.mxQueue.isEmpty) (withN .arrayWake (packageCore s % 8))
    ++ when (!s.die.boot.gated.contains me && decide (s.die.boot.arraySince + 65536 ≤ s.cycle)) (plain .arrayPowerGate)
    ++ when (!c.outMail.isEmpty) (plain .messageAccept)
    ++ when ((c.deque.any fun d => !d.released) || c.dequeOvf.any fun d => !d.released) (plain .spawnRelease)
    ++ when (!c.freeing.isEmpty) (plain .regionRelease)
    ++ (if c.granules.toList.contains .clearing then
          ((List.range 60).filter fun g => c.granules.getD g .held == .clearing).map (withN .granuleClearDone) else [])
    ++ when (c.waiting == .wfe) (plain .wfeTimeout)
    ++ (if c.bars.toList.any (·.asked) then (List.range 8).map (withK .barrierArrival) else [])

/-- The collective engine (R180, R181). -/
def collChoices (s : State) : List Choice :=
  (if s.core.posts.isEmpty then [] else [plain .collPostForward, plain .armEntry])
    ++ ((List.range s.die.coll.arms.length).map (withN .flagReread))
    ++ ((List.range s.die.coll.colls.length).flatMap fun i => [withN .collectiveStart i, withN .collectiveComplete i])
    ++ when (!s.die.coll.deferred.isEmpty) (EventArg.blank |> fun a => (.groupTableWrite, { a with b := true }))
/-- The flits that the ports hold, received or new, and replays that go on (R364, R365). -/
def linkChoices (s : State) : List Choice :=
  (List.range 37).flatMap fun n => match portAt s n with
    | some p =>
      let go := fun (m k : Nat) => (Instr.flitSend, { EventArg.blank with b := true, n := n, m := m, k := k })
      ((p.queue.map (·.vc)).eraseDups.map fun v => go 0 v.toNat) ++ ((p.held.map (·.vc)).eraseDups.map fun v => go 1 v.toNat)
        ++ when (p.resend != 0) (go 2 0)
    | none => []

/-- The dispatcher and the contexts (R264 to R266, R295 to R309, R352 to R356). -/
def dispChoices (s : State) : List Choice :=
  let d := s.die.disp
  let work := workWaits s
  when (coreFree s && work) (plain .coreTakesRecord)
    ++ (if work then (d.peers.filter fun p => p.free && !p.offline).map (fun p => withBN .coreTakesRecord p.cid.toNat) else [])
    ++ (if d.fifo.isEmpty then [] else [plain .affinityExpiry, plain .agingStep])
    ++ when (!d.returns.isEmpty) (plain .returnStoreDrain)
    ++ when (!(quantumDue s).isEmpty) (plain .quantumExpiry)
    ++ when (parkable s.core.waiting) (plain .parking)
    ++ when (!d.parked.isEmpty) (plain .parkWake)
    ++ when (barLate s || !d.parked.isEmpty) (plain .barrierTimeout)
    ++ ((List.range d.arrivals.length).map (withN .barrierPhaseComplete))
    ++ (d.gangs.flatMap fun g =>
          let n := (g.w0.extractLsb' 32 16).toNat
          [withN .gangPlacement n, withN .gangStart n])
    ++ when s.core.restoring.isSome (plain .contextRestore)
    ++ when s.core.spillMove.isSome (plain .spilledMessageMove)
    ++ when (!d.restarts.isEmpty) (plain .positionRollDone)
    ++ (outNow s).map fun x => (.imageWriteout, { EventArg.blank with x := x.1 })

/-- The step of a bytecode opcode (R317 to R319, R315). -/
def opcodeStep (op : Nat) : Instr :=
  if 0x80 ≤ op then .kcall else match bcOperator op with | some (_, i) => i | none => .bytecodeNop
/-- The step of an issued operator's work: its own, the next word of its recipe, or a collective that lowering has put in. -/
def operStep (o : Oper) : Instr :=
  if o.op = collCode then .collective
  else match o.recipe[o.pos]? with
    | some w => (decodeRecipe w).getD .endr
    | none => opcodeStep o.op

/-- The operator sequencer (R311 to R332). -/
def seqChoices (s : State) : List Choice :=
  when (!s.die.seq.raised.isEmpty) (plain .programFaultStop)
    ++ match s.die.seq.run with
      | none => when (!s.die.seq.notices.isEmpty) (plain .operatorComplete)
      | some l =>
        plain .operatorComplete ::
          (match nextBc s with
           | some (_, some i) => [plain (opcodeStep i.op)]
           | some (_, none) => [plain .bytecodeNop]
           | none => [])
          ++ ((l.opers.filter fun o => o.issued && !o.ran).map fun o => withBN (operStep o) o.id)
          ++ (l.opers.filter fun o => !o.colls.isEmpty).map fun o => withBN .operatorComplete o.id

/-- Every step that may be possible now. -/
def offered (s : State) : List Choice :=
  memChoices s ++ pinChoices s ++ copyChoices s ++ coreChoices s ++ collChoices s ++ linkChoices s ++ dispChoices s ++ seqChoices s

/-- The step changes something: it is enabled. -/
def moves (s : State) (c : Choice) : Bool :=
  match exec c.1 { s with arg := c.2 } with
  | .next t => decide (t ≠ { s with arg := c.2 })
  | _ => false

/-- The steps that the machine can make of itself now, the issue of a bundle apart. -/
def enabled (s : State) : List Choice := (offered s).filter (moves s)

/-- R405: which of them comes next, or none for the issue of a bundle. -/
def chosen (s : State) : Option Choice :=
  match enabled s with
  | [] => none
  | cs => cs[Config.pick s.tick % (cs.length + 1)]?

/-- R245, R405: the matrix unit's steps have their cycles: an instruction completes when its own have passed, and the next one starts at once. -/
def matrixDue (s : State) : Option Instr :=
  if s.core.mxRun.isSome then (if s.core.mxLeft = 0 then some .matrixComplete else none)
  else if s.core.mxQueue.isEmpty || s.die.boot.gated.contains (BitVec.ofNat 9 (packageCore s)) then none
  else some .matrixStart
/-- The step that is due: that of the matrix unit, or of the boundary; of the latter none while a position restart waits for what the
other die's controller answers (R105), when the engines go on. -/
def due (s : State) : Option Instr := (matrixDue s) <|> (if s.core.posr == some none then none else boundary s)

/-- R375: in the safe state the control cores, the host's function and what they answer are alive, and nothing else of the package. -/
def alive (i : Instr) : Bool :=
  match i with
  | .coldReset | .hostBarAccess | .attestationQuote => true
  | _ => false

/-- A step that belongs to the outside or to the machine, and is no syllable of a bundle. -/
def isStep (i : Instr) : Bool := (issueOf i).isNone

/-! ## Putting an instruction where the fetch reads -/

/-- The VA that withFetchWord uses: monitor code at the first bytes of this agent's memory. -/
def fetchAt (s : State) : W64 := BitVec.ofNat 64 (s.core.agent.toNat * 2 ^ 46)
/-- The bundle of the instruction that a table word names; for a word of none, a bundle with the word in slot S0. -/
def wordBundle (nbits w : Nat) : List W32 :=
  match decodeTableWord nbits w with
  | some i => (encodeSolo i).getD [0x02000001, BitVec.ofNat 32 w]
  | none => [0x02000001, BitVec.ofNat 32 w]
/-- Monitor code of these words stands at fetchAt, in a line of the instruction cache, and the core runs it next. -/
def placeCode (ws : List W32) (s : State) : State :=
  let a := fetchAt s
  let ia := (a.setWidth 56).toNat
  { s with
    inputs := []
    core := { s.core with
      run := .running, mon := true, mEnd := .none, mDue := 0
      mstream := ⟨a, nextEntry, nextEntry, 0, none, none, none⟩
      icache := BitVec.ofNat 49 (ia / 128) :: s.core.icache }
    die := { s.die with mem := s.die.mem.writeBytes ia (ws.flatMap fun w => toBytes 4 w.toNat) } }

end Sys2Proof.Machine
end

