-- ==== Sys2Proof/Machine/Step.lean ====
section
/-! DEFINITION. One step of the machine: what the outside brings, the boundary's own step, a step of an engine, or the issue of
a bundle (R335, R375, R405). -/
namespace Sys2Proof.Machine

/-- R405. An outside step is taken with its argument; in the safe state only those of what is still alive (R375). -/
def step (s : State) : Host.Outcome State Fault Refusal :=
  match s.inputs with
  | (i, a) :: rest =>
    if isStep i && (!s.die.boot.safe || alive i) then exec i { s with inputs := rest, arg := a, tick := s.tick + 1 }
    else .next { s with inputs := rest, tick := s.tick + 1 }
  | [] =>
    if s.die.boot.safe then .fault .unpowered
    else match due s with
      | some i => exec i { s with arg := EventArg.blank, tick := s.tick + 1 }
      | none => match chosen s with
        | some c => exec c.1 { s with arg := c.2, tick := s.tick + 1 }
        | none => exec .bundleIssue { s with tick := s.tick + 1 }

/-- s with the instruction of a table word as the next to be fetched and run. The core of State.reset is held in reset, so the
core is put at monitor level at code of its own, as the control cores do at bring-up (R374). -/
def State.withFetchWord (s : State) (nbits w : Nat) : State := placeCode (wordBundle nbits w) s

end Sys2Proof.Machine
end

