-- ==== Sys2Proof/Safety.lean ====
section
/-! DEFINITION. The terms that claims are stated in: a settled state, what a bundle of one syllable leaves, and the invariant that
every step keeps. -/
namespace Sys2Proof.Machine

/-- A state in which the next bundle issues or traps at once: the core runs, nothing is due at the boundary, the bundle is not
annulled, and no result, access or hint is outstanding. -/
def Settled (s : State) : Prop :=
  s.core.run = .running ∧ boundary s = none ∧ (stream s).annul.getLsbD 0 = false ∧ s.core.pipe = [] ∧ s.core.awaits = []
    ∧ s.core.accs = [] ∧ s.core.prefs = []

/-- The syllable of an instruction as it issues alone. -/
def soloAct (i : Instr) : Act := (issueOf i).getD (actNop 0)

/-- The state after the bundle that holds only i has committed with the effects e, one cycle later (R150, R156). -/
def Done (i : Instr) (e : Eff) (s : State) : State := finishCycle (singleStep (commit [soloAct i] [e] s))

/-- Effects: exposed results alone, effects at commit alone, a transfer alone. -/
def results (ps : List Pend) : Eff := ⟨ps, id, Ctl.none⟩
def effect (f : State → State) : Eff := ⟨[], f, Ctl.none⟩
def transfer (t : Option W64) (annul : Bool) : Eff := ⟨[], id, ⟨t, annul⟩⟩

/-- The state after the bundle at the head of the stream has trapped (R334, R336). -/
def Trapped (t : TrapReq) (s : State) : State := finishCycle (takeTrap t s)
/-- The state after the bundle at the head of the stream has been held for a cycle (R153, R167). -/
def Held (w : WaitKind) (f : State → State) (s : State) : State := finishCycle (holdBundle w (f s))

/-- An instruction runs: exec answers the state after its bundle has committed with the effects e. -/
def Runs (i : Instr) (e : Eff) (s : State) : Prop := exec i s = .next (Done i e s)
/-- An instruction takes a trap. -/
def Traps (i : Instr) (t : TrapReq) (s : State) : Prop := exec i s = .next (Trapped t s)
/-- An instruction's bundle is held for this cycle. -/
def Holds (i : Instr) (w : WaitKind) (f : State → State) (s : State) : Prop := exec i s = .next (Held w f s)
/-- R334: the trap for a cause that the one syllable of a bundle raises at an address. -/
def raised (i : Instr) (c : Cause) (va : W64) (s : State) : TrapReq :=
  ⟨c, 0, false, BitVec.ofNat 12 (2 ^ (soloAct i).slot), if causeHasAddr c then va else pc s, 0, false⟩

/-! ## Shapes of results that several instructions share -/

/-- What a syllable with a scalar guard does: e where the guard is true, nothing where it is false (R138). -/
def guarded (g : Guard) (s : State) (e : Eff) : Eff := if guardOn g s then e else Eff.none

/-- A two-operand scalar instruction: s(sd) := op(s(sa), op2), no flag, at a latency (R255). -/
def SBinLaw (mk : SBin → Instr) (lat : Nat) (op : W64 → W64 → W64) : Prop :=
  ∀ (f : SBin) (s : State), Settled s →
    Runs (mk f) (guarded f.g s (results [pendS f.d (op (readS s f.a) (op2Val s f.op2)) lat (sNo f.slot) 0])) s
/-- A one-operand scalar instruction. -/
def SUnLaw (mk : SUn → Instr) (op : W64 → W64) : Prop :=
  ∀ (f : SUn) (s : State), Settled s →
    Runs (mk f) (guarded f.g s (results [pendS f.d (op (readS s f.a)) 1 (sNo f.slot) 0])) s
/-- An instruction of the integer divider: it needs the divider free and keeps it for 20 cycles (R153, R255). -/
def SDivLaw (mk : SBin → Instr) (op : W64 → W64 → W64) : Prop :=
  ∀ (f : SBin) (s : State), Settled s →
    (s.core.divBusy = 0 → Runs (mk f) (guarded f.g s ⟨[pendS f.d (op (readS s f.a) (op2Val s f.op2)) 20 (sNo f.slot) 0],
      fun t => t.upCore fun c => { c with divBusy := 20 }, Ctl.none⟩) s)
    ∧ (s.core.divBusy ≠ 0 → guardOn f.g s = true → Holds (mk f) .structural id s)
/-- A scalar compare: all 128 bits of p(pd) (R256). -/
def SCmpLaw (mk : SCmp → Instr) (op : W64 → W64 → Bool) : Prop :=
  ∀ (f : SCmp) (s : State), Settled s →
    Runs (mk f) (guarded f.g s (results [pendP f.p (if op (readS s f.a) (op2Val s f.op2) then BitVec.allOnes 128 else 0)
      (BitVec.allOnes 128) 1 (sNo f.slot) 0])) s
/-- Predicate logic: all 128 bits of p(pd) (R257). -/
def SPredLaw (mk : SPred → Instr) (op : W128 → W128 → W128) : Prop :=
  ∀ (f : SPred) (s : State), Settled s →
    Runs (mk f) (guarded f.g s (results [pendP f.p (op (readP s f.a) (readP s f.b)) (BitVec.allOnes 128) 1 (sNo f.slot) 0])) s

/-- The operands of a scalar FP instruction, decoded (R253, R258). -/
def fpA (f : SFBin) (s : State) : FVal := decodeF (fpFmt f.dbl) (fpBits f.dbl (readS s f.a))
def fpB (f : SFBin) (s : State) : FVal := decodeF (fpFmt f.dbl) (fop2Val s f.dbl f.op2)
/-- A scalar FP result: bits and flags at latency 4 (R258). -/
def fpResult (d : BitVec 6) (slot : SSlot) (lat : Nat) (r : Nat × Flags) : Pend :=
  pendS d (BitVec.ofNat 64 r.1) lat (sNo slot) r.2
/-- A two-operand scalar FP instruction: one exact result, rounded once with RNE. -/
def SFBinLaw (mk : SFBin → Instr) (op : FVal → FVal → Exact) : Prop :=
  ∀ (f : SFBin) (s : State), Settled s →
    Runs (mk f) (guarded f.g s (results [fpResult f.d f.slot 4 (deliver (fpFmt f.dbl) .rne (op (fpA f s) (fpB f s)))])) s
/-- An instruction of the FP divider, kept for 12 cycles (R153). -/
def fdivEff (d : BitVec 6) (slot : SSlot) (r : Nat × Flags) : Eff :=
  ⟨[fpResult d slot 12 r], fun t => t.upCore fun c => { c with fdivBusy := 12 }, Ctl.none⟩
/-- An FP compare: all 128 bits at latency 4 (R258). -/
def SFCmpLaw (mk : SFCmp → Instr) (op : FVal → FVal → Bool) (fl : FVal → FVal → Flags) : Prop :=
  ∀ (f : SFCmp) (s : State), Settled s →
    let x := decodeF (fpFmt f.dbl) (fpBits f.dbl (readS s f.a))
    let y := decodeF (fpFmt f.dbl) (fop2Val s f.dbl f.op2)
    Runs (mk f) (guarded f.g s
      (results [pendP f.p (if op x y then BitVec.allOnes 128 else 0) (BitVec.allOnes 128) 4 (sNo f.slot) (fl x y)])) s

/-- The bytes of an element (R209), the bytes of a vector (R144), and the elements whose guard bit is true (R138, R209). -/
def vElems (slot : VSlot) (g : VGuard) (w : VW) (t : VT) (s : State) : List Nat :=
  activeElems (vLanes g (slotCl slot) s) (VT.bytes t) (VW.bytes w / VT.bytes t)
/-- An element of a register of the slot's cluster (R209). -/
def vEl (slot : VSlot) (t : VT) (s : State) (r : BitVec 5) (i : Nat) : Nat :=
  lane (readV s (clV (slotCl slot) r)) i (8 * VT.bytes t)
/-- An element of the vb operand (R211). -/
def vElB (slot : VSlot) (t : VT) (s : State) (b : VOp) (i : Nat) : Nat :=
  lane (vopVal s (slotCl slot) t b) i (8 * VT.bytes t)
/-- R117: what a syllable that rounds under VRM leaves of VRM. -/
def drawPost (rounds : Bool) (s : State) : State → State := if rounds && stochastic s then countDraw else id
/-- A vector result: the listed elements with their values and flags, at a latency. -/
def vEff (slot : VSlot) (d : BitVec 5) (w : VW) (t : VT) (lat : Nat) (rounds : Bool) (s : State)
    (xs : List (Nat × Nat × Flags)) : Eff :=
  ⟨[vecPend (clV (slotCl slot) d) (VT.bytes t) (VW.bytes w) lat (vNo slot) xs], drawPost rounds s, Ctl.none⟩
/-- A two-operand vector instruction on integer and float types (R213). -/
def VBinLaw (mk : VBin → Instr) (latI latF : Nat) (rounds : Bool) (fi : Nat → Nat → Nat → Nat → Nat × Flags)
    (ff : RMode → Fmt → Nat → Nat → Nat → Nat × Flags) : Prop :=
  ∀ (f : VBin) (s : State), Settled s →
    Runs (mk f) (match VT.fmt f.t with
      | some fm => vEff f.slot f.d f.w f.t latF rounds s ((vElems f.slot f.g f.w f.t s).map fun i =>
          (i, ff (vMode s i) fm (vEl f.slot f.t s f.d i) (vEl f.slot f.t s f.a i) (vElB f.slot f.t s f.b i)))
      | none => vEff f.slot f.d f.w f.t latI false s ((vElems f.slot f.g f.w f.t s).map fun i =>
          (i, fi (8 * VT.bytes f.t) (vEl f.slot f.t s f.d i) (vEl f.slot f.t s f.a i) (vElB f.slot f.t s f.b i)))) s
/-- A two-operand vector instruction on integer types alone; any other type has no encoding (R149). -/
def VIntLaw (mk : VBin → Instr) (lat : Nat) (fi : Nat → Nat → Nat → Nat × Flags) : Prop :=
  ∀ (f : VBin) (s : State), Settled s → (mk f).wf = true →
    Runs (mk f) (vEff f.slot f.d f.w f.t lat false s ((vElems f.slot f.g f.w f.t s).map fun i =>
      (i, fi (8 * VT.bytes f.t) (vEl f.slot f.t s f.a i) (vElB f.slot f.t s f.b i)))) s
/-- A one-operand vector instruction. -/
def VUnLaw (mk : VUn → Instr) (lat : Nat) (op : VT → Nat → Nat → Nat × Flags) : Prop :=
  ∀ (f : VUn) (s : State), Settled s →
    Runs (mk f) (vEff f.slot f.d f.w f.t lat false s ((vElems f.slot f.g f.w f.t s).map fun i =>
      (i, op f.t (8 * VT.bytes f.t) (vEl f.slot f.t s f.a i)))) s
/-- A bitwise or shift instruction: an immediate is not converted (R211, R214). -/
def VLogicLaw (mk : VBin → Instr) (op : Nat → Nat → Nat → Nat) : Prop :=
  ∀ (f : VBin) (s : State), Settled s →
    Runs (mk f) (vEff f.slot f.d f.w f.t 1 false s ((vElems f.slot f.g f.w f.t s).map fun i =>
      (i, op (8 * VT.bytes f.t) (vEl f.slot f.t s f.a i)
        (match f.b with
          | .reg b => vEl f.slot f.t s b i
          | .imm w => w.toNat % 2 ^ (8 * VT.bytes f.t)), 0))) s
/-- A vector compare: the bytes of each element whose guard is true get its result (R138, R215). -/
def VCmpLaw (mk : VCmp → Instr) (fi : Nat → Nat → Nat → Bool) (ff : FVal → FVal → Bool) (fl : FVal → FVal → Flags) : Prop :=
  ∀ (f : VCmp) (s : State), Settled s → (mk f).wf = true →
    let is := vElems f.slot f.g f.w f.t s
    let res : Nat → Bool × Flags := fun i =>
      let a := vEl f.slot f.t s f.a i
      let b := vElB f.slot f.t s f.b i
      match VT.fmt f.t with
      | some fm => (ff (decodeF fm a) (decodeF fm b), fl (decodeF fm a) (decodeF fm b))
      | none => (fi (8 * VT.bytes f.t) a b, 0)
    Runs (mk f) (results [pendP (clP (slotCl f.slot) f.p) (elemsMask (VT.bytes f.t) (is.filter fun i => (res i).1))
      (elemsMask (VT.bytes f.t) is) 1 (vNo f.slot) (orAll (is.map fun i => (res i).2))]) s
/-- An instruction of the F slot: correctly rounded values of a function, the unit busy for its cycles (R153, R231). -/
def FUnLaw (mk : FUn → Instr) (fn : FVal → Exact) : Prop :=
  ∀ (f : FUn) (s : State), Settled s → (mk f).wf = true →
    ∃ fm, VT.fmt f.t = some fm
      ∧ (s.core.fBusy = 0 → exec (mk f) s = .next (Done (mk f)
          ⟨[vecPend (clV f.cl f.d) (VT.bytes f.t) (VW.bytes f.w) 8 5
            ((activeElems (vLanes f.g f.cl s) (VT.bytes f.t) (VW.bytes f.w / VT.bytes f.t)).map fun i =>
              (i, deliver fm .rne (fn (decodeF fm (lane (readV s (clV f.cl f.a)) i (8 * VT.bytes f.t))))))],
            fun t => t.upCore fun c => { c with fBusy := Nat.max 1 (8 * VW.bytes f.w / 512) }, Ctl.none⟩ s))
      ∧ (s.core.fBusy ≠ 0 → Holds (mk f) .structural id s)

/-- No global access and no hint of the core is outstanding. -/
def Quiet (s : State) : Prop := s.core.accs = [] ∧ s.core.prefs = [] ∧ s.core.hints = []

/-- A line homed here in a mapped HBM page of the home translation buffer, with nothing in progress on it and data and tag at
hand. -/
def CleanHome (s : State) (l : BitVec 50) : Prop :=
  isLocal s (lineIa l) = true ∧ lineBusy s l = false ∧ dramOnly s l = false ∧ lineBad s l = false ∧ wayBarred s l = false
    ∧ (s.die.coh.waiting.any fun w => w.line == l) = false
    ∧ s.die.xlate.migration = none ∧ ∃ e, bufferFind s.die.xlate (iaOffset (lineIa l)) = some e ∧ entOk e = true ∧ entTier e = false

/-- R52: a request of another agent that its slice admits at once. -/
def Admitted (s : State) (m : Coh) : Prop :=
  CleanHome s m.line ∧ m.src ≠ s.core.agent ∧ m.ticket = none ∧ entries s (homeSlice (lineIa m.line)) true < 56
    ∧ entries s (homeSlice (lineIa m.line)) false < 64
    ∧ s.die.coh.next.get (slice48 (homeSlice (lineIa m.line))) = s.die.coh.serve.get (slice48 (homeSlice (lineIa m.line)))

/-- R53: the Data with DONE of a transaction of this home. -/
def doneMsg (s : State) (m : Coh) (unc : Bool) (d : Option LineData) : OutMsg :=
  .coh .data m.req { cohMsg s m.line with req := m.req, txn := m.txn, done := true, unc := unc, data := d } 0 0 none

/-- The byte stores of the machine are in canonical form: global memory, and the scratchpad of the core. -/
def Inv (s : State) : Prop := s.die.mem.wf = true ∧ s.core.spad.wf = true

end Sys2Proof.Machine
end

