-- ==== Sys2Proof/Certificates/Slice0/Obligations.lean ====
section
/-! DEFINITION. The statements for the provers. -/
section
open Sys2Proof Sys2Proof.Machine

/-! ## The S class -/

/-- R255, R123: the results of the integer instructions: every one of them completes, with the value of the rule's table at the
latency of R151 and no flag; the divider's instructions wait while it is busy (R153). -/
def Obligations.ScalarIntegerResults : Prop :=
  SBinLaw .add 1 (fun a b => a + b) ∧ SBinLaw .sub 1 (fun a b => a - b) ∧ SBinLaw .mul 3 (fun a b => a * b)
    ∧ SBinLaw .mulh 3 (fun a b => BitVec.ofInt 64 (a.toInt * b.toInt / 2 ^ 64))
    ∧ SBinLaw .mulhn 3 (fun a b => BitVec.ofNat 64 (a.toNat * b.toNat / 2 ^ 64))
    ∧ SDivLaw .div (fun a b => if b = 0 then BitVec.allOnes 64 else BitVec.ofInt 64 (a.toInt.tdiv b.toInt))
    ∧ SDivLaw .divn (fun a b => if b = 0 then BitVec.allOnes 64 else BitVec.ofNat 64 (a.toNat / b.toNat))
    ∧ SDivLaw .rem (fun a b => if b = 0 then a else BitVec.ofInt 64 (a.toInt.tmod b.toInt))
    ∧ SDivLaw .remn (fun a b => if b = 0 then a else BitVec.ofNat 64 (a.toNat % b.toNat))
    ∧ SBinLaw .and 1 (fun a b => a &&& b) ∧ SBinLaw .or 1 (fun a b => a ||| b) ∧ SBinLaw .xor 1 (fun a b => a ^^^ b)
    ∧ SBinLaw .andn 1 (fun a b => a &&& ~~~b)
    ∧ SBinLaw .shl 1 (fun a c => if c.toNat < 64 then a <<< c.toNat else 0)
    ∧ SBinLaw .shr 1 (fun a c => if c.toNat < 64 then a >>> c.toNat else 0)
    ∧ SBinLaw .sra 1 (fun a c => a.sshiftRight (min c.toNat 63))
    ∧ SBinLaw .rol 1 (fun a c => a.rotateLeft (c.toNat % 64))
    ∧ SBinLaw .min 1 (fun a b => if b.toInt < a.toInt then b else a)
    ∧ SBinLaw .max 1 (fun a b => if a.toInt < b.toInt then b else a)
    ∧ SBinLaw .minn 1 (fun a b => if b.toNat < a.toNat then b else a)
    ∧ SBinLaw .maxn 1 (fun a b => if a.toNat < b.toNat then b else a)
    ∧ SBinLaw .shadd1 1 (fun a b => (a <<< 1) + b) ∧ SBinLaw .shadd2 1 (fun a b => (a <<< 2) + b)
    ∧ SBinLaw .shadd3 1 (fun a b => (a <<< 3) + b)
    ∧ SUnLaw .clz (fun a => BitVec.ofNat 64 (leadZeros 64 a.toNat))
    ∧ SUnLaw .ctz (fun a => BitVec.ofNat 64 (trailZeros 64 a.toNat))
    ∧ SUnLaw .popc (fun a => BitVec.ofNat 64 (popCount 64 a.toNat))
    ∧ (∀ (f : SMov) (s : State), Settled s →
        Runs (.mov f) (guarded f.g s (results [pendS f.d (op2Val s f.op2) 1 (sNo f.slot) 0])) s)
    ∧ SBinLaw .movh 1 (fun a b => (b <<< 32) + (a &&& 0xFFFFFFFF))
    ∧ SBinLaw .sext 1 (fun a b => sext64 a.toNat (if b.toNat % 64 = 0 then 64 else b.toNat % 64))
    ∧ SBinLaw .zext 1 (fun a b => BitVec.ofNat 64 (a.toNat % 2 ^ (if b.toNat % 64 = 0 then 64 else b.toNat % 64)))

/-- R123: the corners of integer division: a division by zero, and the most negative number divided by minus one. -/
def Obligations.DivisionCorners : Prop :=
  (∀ a : W64, divVal a 0 = BitVec.allOnes 64 ∧ divnVal a 0 = BitVec.allOnes 64 ∧ remVal a 0 = a ∧ remnVal a 0 = a)
    ∧ divVal (BitVec.intMin 64) (BitVec.allOnes 64) = BitVec.intMin 64
    ∧ remVal (BitVec.intMin 64) (BitVec.allOnes 64) = 0
    ∧ (∀ a b : W64, b ≠ 0 → (remVal a b).toInt.natAbs < b.toInt.natAbs ∧ (0 ≤ (remVal a b).toInt * a.toInt)
        ∧ divVal a b * b + remVal a b = a)
    ∧ ∀ a b : W64, b ≠ 0 → (remnVal a b).toNat < b.toNat ∧ (divnVal a b).toNat * b.toNat + (remnVal a b).toNat = a.toNat

/-- R256, R257: compares and predicate instructions write all 128 bits of the predicate, PGET a scalar register. -/
def Obligations.CompareAndPredicateResults : Prop :=
  SCmpLaw .cmpeq (fun a b => decide (a = b)) ∧ SCmpLaw .cmpne (fun a b => decide (a ≠ b))
    ∧ SCmpLaw .cmplt (fun a b => decide (a.toInt < b.toInt)) ∧ SCmpLaw .cmple (fun a b => decide (a.toInt ≤ b.toInt))
    ∧ SCmpLaw .cmpltn (fun a b => decide (a.toNat < b.toNat)) ∧ SCmpLaw .cmplen (fun a b => decide (a.toNat ≤ b.toNat))
    ∧ SPredLaw .pand (fun a b => a &&& b) ∧ SPredLaw .por (fun a b => a ||| b) ∧ SPredLaw .pxor (fun a b => a ^^^ b)
    ∧ SPredLaw .pandn (fun a b => a &&& ~~~b)
    ∧ SPredLaw .pall (fun a b => if b &&& ~~~a = 0 then BitVec.allOnes 128 else 0)
    ∧ (∀ (f : SPget) (s : State), Settled s → Runs (.pget f) (guarded f.g s (results
        [pendS f.d ((readP s f.a).extractLsb' (if f.h then 64 else 0) 64) 1 (sNo f.slot) 0])) s)
    ∧ ∀ (f : SPset) (s : State), Settled s → Runs (.pset f) (guarded f.g s (results
        [pendP f.p (readS s f.b ++ readS s f.a : BitVec (64 + 64)) (BitVec.allOnes 128) 1 (sNo f.slot) 0])) s

/-- R258: the scalar floating-point instructions: one exact result rounded once to the precision. -/
def Obligations.ScalarFloatResults : Prop :=
  SFBinLaw .fadd (fun x y => addF .rne x y) ∧ SFBinLaw .fsub (fun x y => addF .rne x (negF y)) ∧ SFBinLaw .fmul mulF
    ∧ (∀ (f : SFBin) (s : State), Settled s → Runs (.fma f) (guarded f.g s (results [fpResult f.d f.slot 4
        (deliver (fpFmt f.dbl) .rne (fmaF .rne (fpA f s) (fpB f s) (decodeF (fpFmt f.dbl) (fpBits f.dbl (readS s f.d)))))])) s)
    ∧ (∀ (f : SFBin) (s : State), Settled s →
        (s.core.fdivBusy = 0 →
          Runs (.fdiv f) (guarded f.g s (fdivEff f.d f.slot (deliver (fpFmt f.dbl) .rne (divF (fpA f s) (fpB f s))))) s)
        ∧ (s.core.fdivBusy ≠ 0 → guardOn f.g s = true → Holds (.fdiv f) .structural id s))
    ∧ (∀ (f : SFUn) (s : State), Settled s →
        (s.core.fdivBusy = 0 → Runs (.fsqrt f) (guarded f.g s (fdivEff f.d f.slot
          (deliver (fpFmt f.dbl) .rne (sqrtF (decodeF (fpFmt f.dbl) (fpBits f.dbl (readS s f.a))))))) s)
        ∧ (s.core.fdivBusy ≠ 0 → guardOn f.g s = true → Holds (.fsqrt f) .structural id s))
    ∧ (∀ (f : SFBin) (s : State), Settled s → Runs (.fmin f) (guarded f.g s (results [fpResult f.d f.slot 4
        (minF (fpFmt f.dbl) (fpBits f.dbl (readS s f.a)) (fop2Val s f.dbl f.op2), 0)])) s)
    ∧ (∀ (f : SFBin) (s : State), Settled s → Runs (.fmax f) (guarded f.g s (results [fpResult f.d f.slot 4
        (maxF (fpFmt f.dbl) (fpBits f.dbl (readS s f.a)) (fop2Val s f.dbl f.op2), 0)])) s)
    ∧ SFCmpLaw .fcmpeq feq (fun _ _ => 0) ∧ SFCmpLaw .fcmplt flt cmpFlags ∧ SFCmpLaw .fcmple fle cmpFlags
    ∧ SFCmpLaw .fcmpun (fun x y => x.isNan || y.isNan) (fun _ _ => 0)
    ∧ (∀ (f : SFConv) (s : State), Settled s → Runs (.ftoi f) (guarded f.g s (results [fpResult f.d f.slot 4
        (let r := toIntSat .rz (if f.u then 0 else -9223372036854775808)
            (if f.u then 18446744073709551615 else 9223372036854775807)
            (exactVal (decodeF (fpFmt f.dbl) (fpBits f.dbl (readS s f.a))))
         (wrapInt r.1 64, r.2))])) s)
    ∧ (∀ (f : SFConv) (s : State), Settled s → Runs (.itof f) (guarded f.g s (results [fpResult f.d f.slot 4
        (intToF (fpFmt f.dbl) .rne (if f.u then ((readS s f.a).toNat : Int) else (readS s f.a).toInt))])) s)
    ∧ (∀ (f : SFUn) (s : State), Settled s → Runs (.fcvt f) (guarded f.g s (results [fpResult f.d f.slot 4
        (if f.dbl then convF fp32 fp64 .rne (fpBits false (readS s f.a))
          else convF fp64 fp32 .rne (readS s f.a).toNat)])) s)
    ∧ ∀ (f : SFUn) (s : State), Settled s → Runs (.fclass f) (guarded f.g s (results [fpResult f.d f.slot 4
        (fclassVal (fpFmt f.dbl) (fpBits f.dbl (readS s f.a)), 0)])) s

/-- R140, R259: MFS and MTS at a level that may make the access, and PRIV at one that may not, whatever the guard. -/
def Obligations.SystemRegisterMoves : Prop :=
  ∀ s : State, Settled s →
    (∀ f : SMfs, (s.core.mon = true ∨ monOnly f.x.toNat = false) → Runs (.mfs f) (guarded f.g s
        ⟨[pendS f.d (sysRead s f.x.toNat) 1 (sNo f.slot) 0], sysReadEffect f.x.toNat, Ctl.none⟩) s)
    ∧ (∀ f : SMfs, s.core.mon = false → monOnly f.x.toNat = true → Traps (.mfs f) (raised (.mfs f) .priv 0 s) s)
    ∧ (∀ f : SMts, (s.core.mon = true ∨ (monOnly f.x.toNat || taskRO f.x.toNat) = false) →
        Runs (.mts f) (guarded f.g s (if f.x = 0x014 then
            results [⟨.lpw, (readS s f.s &&& 0xFFFFFFFF00000FFF).setWidth 1024, lowMask 8, 0, sNo f.slot, 0, 1⟩]
          else if f.x = 0x015 then
            results [⟨.lpe, (readS s f.s &&& 0xFFFFFFFF00000FFF).setWidth 1024, lowMask 8, 0, sNo f.slot, 0, 1⟩]
          else effect (sysWrite f.x.toNat (readS s f.s)))) s)
    ∧ ∀ f : SMts, s.core.mon = false → (monOnly f.x.toNat || taskRO f.x.toNat) = true →
        Traps (.mts f) (raised (.mts f) .priv 0 s) s

/-- R116, R119, R141, R29, R71, R304, R140: what a register reads after an MTS of v: its stored bits; CORELID, STEPID and MENTRY keep
their values at either level. -/
def Obligations.SystemRegisterStoredBits : Prop :=
  ∀ (s : State) (v : W64),
    sysRead (sysWrite 0x011 v s) 0x011 = v &&& 0x7F
    ∧ sysRead (sysWrite 0x010 v s) 0x010
        = (v &&& 0xFFFFFFFF00000000) ||| (if (v &&& 7).toNat ≤ 4 then v &&& 7 else s.core.sys.vrm &&& 7)
    ∧ sysRead (sysWrite 0x012 v s) 0x012 = v &&& 0xFFFFFFFF
    ∧ sysRead (sysWrite 0x000 v s) 0x000 = v &&& 0x0000FFFF000001FF
    ∧ sysRead (sysWrite 0x001 v s) 0x001 = v &&& 0xFFF ∧ sysRead (sysWrite 0x002 v s) 0x002 = v
    ∧ sysRead (sysWrite 0x003 v s) 0x003 = v &&& ~~~3
    ∧ sysRead (sysWrite 0x004 v s) 0x004 = (if v.getLsbD 0 then 1 else v &&& ~~~3)
    ∧ sysRead (sysWrite 0x005 v s) 0x005 = (if v.getLsbD 0 then 1 else v &&& ~~~3)
    ∧ sysRead (sysWrite 0x006 v s) 0x006 = v &&& 7
    ∧ sysRead (sysWrite 0x018 v s) 0x018 = v &&& 0xFFFFFFFF
    ∧ sysRead (sysWrite 0x019 v s) 0x019 = (v &&& 0xFFFF0000) ||| (s.core.sys.collide &&& ~~~v &&& 0xFFF)
    ∧ sysRead (sysWrite 0x049 v s) 0x049 = v
    ∧ (∀ x ∈ [0x008, 0x04A, 0x04B], sysWrite x v s = s)

/-- R260: PROBE never holds and never traps: the answer is known where the address, the window or the filter decides, and asked
of the page's home otherwise. -/
def Obligations.ProbeAnswers : Prop :=
  ∀ (f : SProbe) (s : State), Settled s →
    let va := readS s f.a
    let need := probeNeed f.k
    let known := fun w : W64 => Runs (.probe f) (effect (pushResult s f.d (sNo f.slot) w)) s
    (guardOn f.g s = false → Runs (.probe f) Eff.none s)
    ∧ (guardOn f.g s = true →
      (canonical va = false → known (probeWord false 1 0 0))
      ∧ (canonical va = true → probeWindow s va = none → known (probeWord false 1 0 0))
      ∧ ∀ n ia, canonical va = true → probeWindow s va = some (n, ia) →
        (s.core.mon = false → (winWord s.core.sys.win n 1).getLsbD need.winBit = false → known (probeWord false 1 n ia))
        ∧ ((s.core.mon = true ∨ (winWord s.core.sys.win n 1).getLsbD need.winBit = true) →
          ∀ hit, hit = (match filterFind s ia with
              | some e => permits need e.rd e.wr e.ex
              | none => false) →
            (hit = true → known (probeWord true 0 n ia))
            ∧ (hit = false → configured s (iaAgent ia) = false → known (probeWord false 2 n ia))
            ∧ (hit = false → configured s (iaAgent ia) = true → Runs (.probe f) (effect fun t => sendProbe ia
                (pushAwait { scalarAwait s f.d (sNo f.slot) with probe := some (ia, f.k, BitVec.ofNat 3 n) } t)) s)))

/-! ## The V and F classes -/

/-- R209, R212, R213: vector arithmetic: each element whose guard is true gets the exact integer result in its width, or the float
result rounded once under VRM. -/
def Obligations.VectorArithmeticResults : Prop :=
  let fp2 : (RMode → FVal → FVal → Exact) → RMode → Fmt → Nat → Nat → Nat → Nat × Flags :=
    fun op md fm _ a b => deliver fm md (op md (decodeF fm a) (decodeF fm b))
  VBinLaw .vadd 1 4 true (fun w _ a b => (wrapInt (a + b) w, 0)) (fp2 fun md x y => addF md x y)
    ∧ VBinLaw .vsub 1 4 true (fun w _ a b => (wrapInt ((a : Int) - b) w, 0)) (fp2 fun md x y => addF md x (negF y))
    ∧ VBinLaw .vmul 3 4 true (fun w _ a b => (wrapInt (a * b) w, 0)) (fp2 fun _ x y => mulF x y)
    ∧ VBinLaw .vfma 3 4 true (fun w d a b => (wrapInt (a * b + d) w, 0))
        (fun md fm d a b => deliver fm md (fmaF md (decodeF fm a) (decodeF fm b) (decodeF fm d)))
    ∧ VBinLaw .vfms 3 4 true (fun w d a b => (wrapInt ((d : Int) - a * b) w, 0))
        (fun md fm d a b => deliver fm md (fmaF md (negF (decodeF fm a)) (decodeF fm b) (decodeF fm d)))
    ∧ VBinLaw .vmin 1 4 false (fun w _ a b => (if sextInt b w < sextInt a w then b else a, 0)) (fun _ fm _ a b => (minF fm a b, 0))
    ∧ VBinLaw .vmax 1 4 false (fun w _ a b => (if sextInt a w < sextInt b w then b else a, 0)) (fun _ fm _ a b => (maxF fm a b, 0))
    ∧ VIntLaw .vminn 1 (fun _ a b => (min a b, 0)) ∧ VIntLaw .vmaxn 1 (fun _ a b => (max a b, 0))
    ∧ VUnLaw .vabs 1 (fun t w a => if (VT.fmt t).isSome then (a % 2 ^ (w - 1), 0) else (wrapInt (sextInt a w).natAbs w, 0))
    ∧ VUnLaw .vneg 1 (fun t w a => if (VT.fmt t).isSome then (a ^^^ 2 ^ (w - 1), 0) else (wrapInt (-(sextInt a w)) w, 0))
    ∧ VIntLaw .vmulh 3 (fun w a b => (wrapInt (sextInt a w * sextInt b w / (2 : Int) ^ w) w, 0))
    ∧ VIntLaw .vmulhn 3 (fun w a b => (a * b / 2 ^ w, 0))
    ∧ VIntLaw .vsadd 1 (fun w a b => clampS w (sextInt a w + sextInt b w))
    ∧ VIntLaw .vssub 1 (fun w a b => clampS w (sextInt a w - sextInt b w))

/-- R211, R214: logic, shifts and counts on each element. -/
def Obligations.VectorLogicResults : Prop :=
  VLogicLaw .vand (fun _ a b => a &&& b) ∧ VLogicLaw .vor (fun _ a b => a ||| b) ∧ VLogicLaw .vxor (fun _ a b => a ^^^ b)
    ∧ VLogicLaw .vandn (fun w a b => a &&& (b ^^^ (2 ^ w - 1)))
    ∧ VUnLaw .vnot 1 (fun _ w a => (a ^^^ (2 ^ w - 1), 0))
    ∧ VLogicLaw .vshl (fun w a c => if c < w then a <<< c % 2 ^ w else 0)
    ∧ VLogicLaw .vshr (fun w a c => if c < w then a >>> c else 0)
    ∧ VLogicLaw .vsra (fun w a c => wrapInt (sextInt a w / (2 : Int) ^ (min c (w - 1))) w)
    ∧ VUnLaw .vclz 1 (fun _ w a => (leadZeros w a, 0)) ∧ VUnLaw .vpopc 1 (fun _ w a => (popCount w a, 0))

/-- R138, R215, R124: vector compares. -/
def Obligations.VectorCompareResults : Prop :=
  VCmpLaw .vcmpeq (fun _ a b => decide (a = b)) feq (fun _ _ => 0)
    ∧ VCmpLaw .vcmpne (fun _ a b => decide (a ≠ b)) (fun x y => !funord x y && !feq x y) (fun _ _ => 0)
    ∧ VCmpLaw .vcmplt (fun w a b => decide (sextInt a w < sextInt b w)) flt cmpFlags
    ∧ VCmpLaw .vcmple (fun w a b => decide (sextInt a w ≤ sextInt b w)) fle cmpFlags
    ∧ VCmpLaw .vcmpltn (fun _ a b => decide (a < b)) flt cmpFlags
    ∧ VCmpLaw .vcmplen (fun _ a b => decide (a ≤ b)) fle cmpFlags
    ∧ VCmpLaw .vcmpun (fun _ _ _ => false) funord (fun _ _ => 0)

/-- R216 to R219: selection, moves, permutes, slides, interleaves, compression, extraction. Elements are taken as they stood at
issue, n of them. -/
def Obligations.VectorMoveResults : Prop :=
  ∀ s : State, Settled s →
    (∀ f : VTer, Runs (.vsel f) (vEff f.slot f.d f.w f.t 1 false s ((List.range (VW.bytes f.w / VT.bytes f.t)).map fun i =>
      (i, vEl f.slot f.t s (if (vLanes f.g (slotCl f.slot) s).getLsbD (i * VT.bytes f.t) then f.a else f.b) i, 0))) s)
    ∧ (∀ f : VMov, Runs (.vmov f) (vEff f.slot f.d f.w f.t 1 false s ((vElems f.slot f.g f.w f.t s).map fun i =>
      (i, vElB f.slot f.t s f.src i, 0))) s)
    ∧ (∀ f : VBcast, Runs (.vbcast f) (vEff f.slot f.d f.w f.t 1 false s ((vElems f.slot f.g f.w f.t s).map fun i =>
      (i, (readS s f.x).toNat % 2 ^ (8 * VT.bytes f.t), 0))) s)
    ∧ (∀ f : VUn, Runs (.vxmov f) (vEff f.slot f.d f.w f.t 2 false s ((vElems f.slot f.g f.w f.t s).map fun i =>
      (i, lane (readV s (clV (match slotCl f.slot with | .west => .east | .east => .west) f.a)) i (8 * VT.bytes f.t), 0))) s)
    ∧ (∀ f : VIota, Runs (.viota f) (vEff f.slot f.d f.w f.t 1 false s ((vElems f.slot f.g f.w f.t s).map fun i =>
      (i, (i + (f.imm.getD 0).toNat) % 2 ^ (8 * VT.bytes f.t), 0))) s)
    ∧ (∀ f : VTer, let n := VW.bytes f.w / VT.bytes f.t
      Runs (.vperm f) (vEff f.slot f.d f.w f.t 2 false s ((vElems f.slot f.g f.w f.t s).map fun i =>
        (i, vEl f.slot f.t s f.a (vEl f.slot f.t s f.b i % n), 0))) s
      ∧ Runs (.vperm2 f) (vEff f.slot f.d f.w f.t 2 false s ((vElems f.slot f.g f.w f.t s).map fun i =>
        let j := vEl f.slot f.t s f.b i % (2 * n)
        (i, if j < n then vEl f.slot f.t s f.a j else vEl f.slot f.t s f.d (j - n), 0))) s)
    ∧ (∀ f : VSlide, let n := VW.bytes f.w / VT.bytes f.t
      Runs (.vslideup f) (vEff f.slot f.d f.w f.t 2 false s ((vElems f.slot f.g f.w f.t s).map fun i =>
        (i, if f.k.toNat ≤ i then vEl f.slot f.t s f.a (i - f.k.toNat) else vEl f.slot f.t s f.b (n - f.k.toNat + i), 0))) s
      ∧ Runs (.vslidedn f) (vEff f.slot f.d f.w f.t 2 false s ((vElems f.slot f.g f.w f.t s).map fun i =>
        (i, if i + f.k.toNat < n then vEl f.slot f.t s f.a (i + f.k.toNat) else vEl f.slot f.t s f.b (i + f.k.toNat - n), 0))) s)
    ∧ (∀ f : VZip, let n := VW.bytes f.w / VT.bytes f.t
      let h := if f.h = some true then 1 else 0
      Runs (.vzip f) (vEff f.slot f.d f.w f.t 2 false s ((vElems f.slot f.g f.w f.t s).map fun i =>
        (i, vEl f.slot f.t s (if i % 2 = 0 then f.a else f.b) (i / 2 + h * (n / 2)), 0))) s
      ∧ Runs (.vunzip f) (vEff f.slot f.d f.w f.t 2 false s ((vElems f.slot f.g f.w f.t s).map fun i =>
        (i, if i < n / 2 then vEl f.slot f.t s f.a (2 * i + h) else vEl f.slot f.t s f.b (2 * (i - n / 2) + h), 0))) s)
    ∧ (∀ f : VUn, let is := vElems f.slot f.g f.w f.t s
      Runs (.vcompress f) (vEff f.slot f.d f.w f.t 2 false s ((List.zip (List.range is.length) is).map fun p =>
        (p.1, vEl f.slot f.t s f.a p.2, 0))) s
      ∧ Runs (.vexpand f) (vEff f.slot f.d f.w f.t 2 false s ((List.zip (List.range is.length) is).map fun p =>
        (p.2, vEl f.slot f.t s f.a p.1, 0))) s)
    ∧ ∀ f : VExtract, Runs (.vextract f)
      (if (vLanes f.g (slotCl f.slot) s).getLsbD (f.n.toNat * VT.bytes f.t) then
        results [pendS f.x (if (VT.fmt f.t).isNone && !f.u then sext64 (vEl f.slot f.t s f.a f.n.toNat) (8 * VT.bytes f.t)
          else BitVec.ofNat 64 (vEl f.slot f.t s f.a f.n.toNat)) 2 (vNo f.slot) 0]
       else Eff.none) s

/-- R220 to R222: reductions write one element at the bottom of vd, a scan one for each element whose guard is true. -/
def Obligations.VectorReductionResults : Prop :=
  ∀ (f : VUn) (s : State), Settled s →
    let e := VT.bytes f.t
    let w := 8 * e
    let is := vElems f.slot f.g f.w f.t s
    let xs := is.map fun i => (i, vEl f.slot f.t s f.a i)
    let one : Nat → Bool → Nat × Flags → Eff := fun bytes rounds x =>
      ⟨[vecPend (clV (slotCl f.slot) f.d) bytes bytes 4 (vNo f.slot) [(0, x)]], drawPost rounds s, Ctl.none⟩
    let total : List (Nat × Nat) → Int := fun l => (l.map fun x => sextInt x.2 w).sum
    (match VT.fmt f.t with
      | some fm => Runs (.vredadd f) (one e true (deliver fm (vMode s 0) (sumF (vMode s 0) (xs.map fun x => decodeF fm x.2)))) s
          ∧ Runs (.vredmax f) (one e false (foldF fm maxF true xs, 0)) s
          ∧ Runs (.vredmin f) (one e false (foldF fm minF false xs, 0)) s
          ∧ Runs (.vscan f) (vEff f.slot f.d f.w f.t 4 true s (xs.map fun x =>
              (x.1, deliver fm (vMode s x.1) (sumF (vMode s x.1) ((xs.filter fun y => y.1 ≤ x.1).map fun y => decodeF fm y.2))))) s
      | none => Runs (.vredadd f) (one 4 false (wrapInt (total xs) 32, 0)) s
          ∧ Runs (.vredmax f) (one e false
              (xs.foldl (fun acc x => if sextInt acc w < sextInt x.2 w then x.2 else acc) (2 ^ (w - 1)), 0)) s
          ∧ Runs (.vredmin f) (one e false
              (xs.foldl (fun acc x => if sextInt x.2 w < sextInt acc w then x.2 else acc) (2 ^ (w - 1) - 1), 0)) s
          ∧ Runs (.vscan f) (vEff f.slot f.d f.w f.t 4 false s (xs.map fun x =>
              (x.1, wrapInt (total (xs.filter fun y => y.1 ≤ x.1)) w, 0))) s)
    ∧ Runs (.vargmax f) (one 4 false (argBest f.t (fun c => decide (0 < c)) xs, 0)) s
    ∧ Runs (.vargmin f) (one 4 false (argBest f.t (fun c => decide (c < 0)) xs, 0)) s

/-- R223 to R230: conversions, quantization, nibbles, scales, the dot product and bit planes. -/
def Obligations.VectorConversionResults : Prop :=
  ∀ s : State, Settled s →
    (∀ f : VCvt,
      let n := VW.bytes f.w / max (VT.bytes f.st) (VT.bytes f.t)
      Runs (.vcvt f) ⟨[vecPend (clV (slotCl f.slot) f.d) (VT.bytes f.t) (n * VT.bytes f.t) 3 (vNo f.slot)
          ((activeElems (vLanes f.g (slotCl f.slot) s) (VT.bytes f.t) n).map fun i =>
            (i, cvtElem f.st f.t f.u (vMode s i) (vEl f.slot f.st s f.a i)))],
        drawPost ((VT.fmt f.st).isSome || (VT.fmt f.t).isSome) s, Ctl.none⟩ s)
    ∧ (∀ f : VCvtq,
      let xs := qElems f s
      let out := xs.filter fun x => x.2.2
      let src := qSrc f
      let narrow : Nat × Nat × Bool → Nat × Nat × Flags := fun x =>
        if x.2.2 then (x.1, 0, 0)
        else if f.t == .i8 then
          let r := toIntSat (vMode s x.1) (-128) 127 (exactVal (decodeF src.1 x.2.1))
          (x.1, wrapInt r.1 8, r.2)
        else (x.1, convF src.1 e4m3 (vMode s x.1) x.2.1)
      let bf := fun x : Nat × Nat × Bool => (convF src.1 bf16 .rne x.2.1).1
      let side := sideLanes (qCount s) (xs.map fun x => (x.2.2, bf x))
      let ordered := lastWrites (((xs.map narrow).zip side).flatMap fun x => (x.1.1, x.1.2.1) :: match x.2 with
        | some (l, v) => [(2 * l, v % 256), (2 * l + 1, v / 256 % 256)]
        | none => [])
      Runs (.vcvtq f) ⟨(if f.d = f.b
          then [{ vecPend (clV (slotCl f.slot) f.d) 1 128 5 (vNo f.slot) (ordered.map fun w => (w.1, w.2, 0)) with
            flags := orAll ((xs.map narrow).map fun x => x.2.2) }]
          else [vecPend (clV (slotCl f.slot) f.d) 1 (VW.bytes f.w / src.2) 5 (vNo f.slot) (xs.map narrow),
            vecPend (clV (slotCl f.slot) f.b) 2 128 5 (vNo f.slot) ((side.filterMap id).map fun p => (p.1, p.2, 0))])
          ++ [pendP (clP (slotCl f.slot) f.q) (elemsMask 1 (out.map (·.1))) (elemsMask 1 (xs.map (·.1))) 5 (vNo f.slot) 0],
        drawPost true s, Ctl.none⟩ s
      ∧ side.filterMap id = List.zip ((List.range (64 - qCount s)).map fun k => qCount s + k) (out.map bf)
      ∧ qCount (qAdvance f s) = min 64 (qCount s + out.length)
      ∧ (qAdvance f s).core.sys.qcnt.getLsbD 8 = (s.core.sys.qcnt.getLsbD 8 || decide (64 < qCount s + out.length)))
    ∧ (∀ f : VUn,
      let is := vElems f.slot f.g f.w f.t s
      let conv : Nat → Nat × Flags := fun i => match VT.fmt f.t with
        | some fm => convF fm e2m1 (vMode s i) (vEl f.slot f.t s f.a i)
        | none => clampS 4 (sextInt (vEl f.slot f.t s f.a i) (8 * VT.bytes f.t))
      let nib : Nat → Nat := fun i => if i ∈ is then (conv i).1 else lane (readV s (clV (slotCl f.slot) f.d)) i 4
      Runs (.vpack4 f) ⟨[vecPend (clV (slotCl f.slot) f.d) 1 (VW.bytes f.w / VT.bytes f.t / 2) 3 (vNo f.slot)
          ((is.map fun i => i / 2).eraseDups.map fun b =>
            (b, nib (2 * b) + 16 * nib (2 * b + 1), orAll ((is.filter fun i => i / 2 == b).map fun i => (conv i).2)))],
        drawPost (VT.fmt f.t).isSome s, Ctl.none⟩ s)
    ∧ (∀ f : VUn, Runs (.vunpack4 f) (vEff f.slot f.d f.w f.t 3 false s ((vElems f.slot f.g f.w f.t s).map fun i =>
        let x := lane (readV s (clV (slotCl f.slot) f.a)) i 4
        (i, match VT.fmt f.t with
          | some fm => ((convF e2m1 fm .rne x).1, 0)
          | none => (wrapInt (sextInt x 4) (8 * VT.bytes f.t), 0)))) s)
    ∧ (∀ f : VTer, (Instr.vscale f).wf = true → ∃ fm, VT.fmt f.t = some fm ∧
      Runs (.vscale f) (vEff f.slot f.d f.w f.t 3 true s ((vElems f.slot f.g f.w f.t s).map fun i =>
        (i, deliver fm (vMode s i) (scaleF (decodeF fm (vEl f.slot f.t s f.a i))
          (lane (readV s (clV (slotCl f.slot) f.b)) (i / 32) 8))))) s)
    ∧ (∀ f : VDot,
      let byte : BitVec 5 → Nat → Int := fun r i => sextInt (lane (readV s (clV (slotCl f.slot) r)) i 8) 8
      Runs (.vdot4 f) (results [vecPend (clV (slotCl f.slot) f.d) 4 (VW.bytes f.w) 3 (vNo f.slot)
        ((activeElems (vLanes f.g (slotCl f.slot) s) 4 (VW.bytes f.w / 4)).map fun i =>
          (i, wrapInt ((lane (readV s (clV (slotCl f.slot) f.d)) i 32 : Int) + byte f.a (4 * i) * byte f.b (4 * i)
            + byte f.a (4 * i + 1) * byte f.b (4 * i + 1) + byte f.a (4 * i + 2) * byte f.b (4 * i + 2)
            + byte f.a (4 * i + 3) * byte f.b (4 * i + 3)) 32, 0))]) s)
    ∧ ∀ f : VUn,
      let b := 8 * VT.bytes f.t
      let m := 8 * VW.bytes f.w / b
      let v := readV s (clV (slotCl f.slot) f.a)
      let bits : (Nat → Nat) → Eff := fun src =>
        if (vLanes f.g (slotCl f.slot) s).getLsbD 0 then
          results [pendV (clV (slotCl f.slot) f.d) (BitVec.ofNat 1024 ((List.range (b * m)).foldl
            (fun acc k => if v.getLsbD (src k) then acc ||| 2 ^ k else acc) 0)) (lowMask (VW.bytes f.w)) (VW.bytes f.w) 5
            (vNo f.slot) 0]
        else Eff.none
      Runs (.vplane f) (bits fun k => k % m * b + k / m) s ∧ Runs (.vunplane f) (bits fun k => k % b * m + k / b) s

/-- R130 to R135, R153, R231: the special functions of the F slot. -/
def Obligations.SpecialFunctionResults : Prop :=
  FUnLaw .vexp2 fnExp2 ∧ FUnLaw .vexp fnExp ∧ FUnLaw .vlog2 fnLog2 ∧ FUnLaw .vln fnLn ∧ FUnLaw .vrcp fnRcp
    ∧ FUnLaw .vrsq fnRsq ∧ FUnLaw .vsqrt fnSqrt ∧ FUnLaw .vtanh fnTanh ∧ FUnLaw .vsigm fnSigm ∧ FUnLaw .vsin fnSin
    ∧ FUnLaw .vcos fnCos ∧ FUnLaw .verf fnErf ∧ FUnLaw .vgelu fnGelu

/-! ## The M class -/

/-- R191 to R193: scratchpad loads: where every accessed byte lies in a region, and the accesses meet no bank conflict (R69), the
bytes come to the register at latency 5; an access with no true guard does nothing. -/
def Obligations.ScratchpadLoadResults : Prop :=
  ∀ s : State, Settled s →
    (∀ f : MMem, bankRows [soloAct (.lds f)] s ≤ s.core.bankWait + 1 → cellsBad s (scalarCells f s) = none →
      Runs (.lds f) (guarded f.g s (results [pendS f.d (sext64 (spadGather s (scalarCells f s)).toNat (8 * sizeBytes f.w)) 5
        (mNo f.slot) 0])) s)
    ∧ (∀ f : MMem, bankRows [soloAct (.ldsn f)] s ≤ s.core.bankWait + 1 → cellsBad s (scalarCells f s) = none →
      Runs (.ldsn f) (guarded f.g s (results [pendS f.d ((spadGather s (scalarCells f s)).setWidth 64) 5 (mNo f.slot) 0])) s)
    ∧ ∀ (i : Instr) (d : BitVec 6) (w : BitVec 2) (slot : MSlot) (cs : Cells), i.wf = true →
      ((∃ f : MMem, i = .ldv f ∧ d = f.d ∧ w = f.w ∧ slot = f.slot ∧ cs = vectorCells f s)
        ∨ (∃ f : MMem, i = .ldvb f ∧ d = f.d ∧ w = f.w ∧ slot = f.slot ∧ cs =
            (guardBytes (guardLanes f.g s) (widthBytes f.w)).map fun b =>
              (b, memAddr s f.base 32 f.off + BitVec.ofNat 64 (b % 32)))
        ∨ (∃ f : MIdx, i = .ldvx f ∧ d = f.d ∧ w = f.w ∧ slot = f.slot ∧ cs = elemCells f indexAddr s)
        ∨ (∃ f : MIdx, i = .ldvs f ∧ d = f.d ∧ w = f.w ∧ slot = f.slot ∧ cs = elemCells f strideAddr s)) →
      bankRows [soloAct i] s ≤ s.core.bankWait + 1 → cellsBad s cs = none →
      Runs i (if cs = [] then Eff.none
        else results [pendV d (spadGather s cs) (byteMask (cs.map (·.1))) (widthBytes w) 5 (mNo slot) 0]) s

/-- R69, R191 to R193: a scratchpad store whose bytes all lie in a region writes the register's byte to the cell of each address,
the last of two for one cell, and no other byte of the scratchpad or of memory. -/
def Obligations.ScratchpadStoreResults : Prop :=
  ∀ (s : State) (i : Instr) (v : W1024) (cs : Cells), Settled s →
    ((∃ f : MMem, i = .sts f ∧ v = (readS s f.d).setWidth 1024 ∧ cs = scalarCells f s)
      ∨ (∃ f : MMem, i = .stv f ∧ v = readV s f.d ∧ cs = vectorCells f s)
      ∨ (∃ f : MIdx, i = .stvx f ∧ v = readV s f.d ∧ cs = elemCells f indexAddr s)) →
    bankRows [soloAct i] s ≤ s.core.bankWait + 1 → cellsBad s cs = none →
    Runs i (effect (spadScatter v cs)) s
      ∧ (∀ p, (∀ c ∈ cs, spadAddr s c.2 ≠ some p) →
          (Done i (effect (spadScatter v cs)) s).core.spad.read p = s.core.spad.read p)
      ∧ (Done i (effect (spadScatter v cs)) s).die.mem = s.die.mem
      ∧ ∀ (before after : Cells) (b : Nat) (a : W64) (p : Nat), cs = before ++ (b, a) :: after → spadAddr s a = some p →
          (∀ c ∈ after, spadAddr s c.2 ≠ some p) →
          (Done i (effect (spadScatter v cs)) s).core.spad.read p = v.extractLsb' (8 * b) 8

/-- R71, R191 to R193, R69: a scratchpad access that names a byte of no region traps with SCRATCH_BOUNDS at the lowest such address
and changes nothing else of its own; one with a bank conflict not yet served is held. -/
def Obligations.ScratchpadBoundsTraps : Prop :=
  ∀ (s : State) (i : Instr) (cs : Cells), Settled s →
    ((∃ f : MMem, (i = .lds f ∨ i = .ldsn f ∨ i = .sts f) ∧ cs = scalarCells f s)
      ∨ (∃ f : MMem, (i = .ldv f ∨ i = .stv f) ∧ cs = vectorCells f s)
      ∨ (∃ f : MIdx, (i = .ldvx f ∨ i = .stvx f) ∧ cs = elemCells f indexAddr s)
      ∨ (∃ f : MIdx, i = .ldvs f ∧ cs = elemCells f strideAddr s)) →
    (∀ a, cellsBad s cs = some a → Traps i (raised i .scratchBounds a s) s)
    ∧ (cellsBad s cs = none → s.core.bankWait + 1 < bankRows [soloAct i] s →
        Holds i .structural (fun t => t.upCore fun c => { c with bankWait := c.bankWait + 1 }) s)

/-- R194, R195, R197: global loads that pass the checks: the destination is scoreboarded and the access is outstanding with the
bytes it names; where no byte's guard is true nothing happens. The issue of a load precedes the other effects of its bundle (R154),
so it stands in the early part of the syllable. -/
def Obligations.GlobalLoadsIssue : Prop :=
  ∀ (s : State) (i : Instr) (span : Span) (cells : List (Nat × Nat)) (a : Await) (issue : State → State), Settled s →
    ((∃ f : MMem, ∃ sx, (i = .ldg f ∧ sx = true ∨ i = .ldgn f ∧ sx = false) ∧ span = scalarSpan f.g f.base f.w f.off s
        ∧ (span.2 ≠ [] → gcheck s [span] .rd none false = .ok [cells]) ∧ issue = issueLoad a cells false 0
        ∧ a = { scalarAwait s f.d (mNo f.slot) with va := memAddr s f.base (sizeBytes f.w) f.off, size := sizeBytes f.w, sext := sx })
      ∨ (∃ f : MMem, i = .ldgv f ∧ span = vectorSpan f s ∧ (span.2 ≠ [] → gcheck s [span] .rd none false = .ok [cells]) ∧ issue = issueLoad a cells false 0
        ∧ a = { scalarAwait s f.d (mNo f.slot) with
            vec := true, mask := byteMask (cells.map (·.1)), size := widthBytes f.w
            va := memAddr s f.base 32 f.off + BitVec.ofNat 64 ((cells.map (·.1)).headD 0) })
      ∨ (∃ f : MOrd, i = .lda f ∧ span = scalarSpan f.g f.base f.w (.short f.off) s
        ∧ (span.2 ≠ [] → gcheck s [span] .rd (some (span.1, sizeBytes f.w)) true = .ok [cells])
        ∧ issue = (fun t => issueLoad a cells true f.sc (strongPost s [cells] t))
        ∧ a = { scalarAwait s f.d (mNo f.slot) with va := span.1, size := sizeBytes f.w, sext := true })) →
    Runs i Eff.none s
      ∧ (soloAct i).early (countBundle s) = if span.2 = [] then countBundle s else issue (countBundle s)

/-- R194 to R197: global stores that pass the checks are outstanding with the bytes of their register; a guard that is false in
every byte does nothing. -/
def Obligations.GlobalStoresIssue : Prop :=
  ∀ s : State, Settled s →
    (∀ (f : MMem) (cells : List (Nat × Nat)),
      (guardOn f.g s = false → Runs (.stg f) Eff.none s)
      ∧ (guardOn f.g s = true → gcheck s [scalarSpan f.g f.base f.w f.off s] .w none false = .ok [cells] →
          Runs (.stg f) (effect (pushAcc .store (storeOf ((readS s f.d).setWidth 1024) cells) false false 0)) s))
    ∧ (∀ (f : MMem) (cells : List (Nat × Nat)), f.w ≠ 3 →
      ((vectorSpan f s).2 = [] → Runs (.stgv f) Eff.none s)
      ∧ ((vectorSpan f s).2 ≠ [] → gcheck s [vectorSpan f s] .w none false = .ok [cells] →
          Runs (.stgv f) (effect (pushAcc .store (storeOf (readV s f.d) cells) false false 0)) s))
    ∧ ∀ (f : MOrd) (cells : List (Nat × Nat)),
      let span := scalarSpan f.g f.base f.w (.short f.off) s
      (guardOn f.g s = false → Runs (.stl f) Eff.none s)
      ∧ (guardOn f.g s = true → gcheck s [span] .w (some (span.1, sizeBytes f.w)) true = .ok [cells] →
          Runs (.stl f) (effect fun t =>
            pushAcc .store (storeOf ((readS s f.d).setWidth 1024) cells) true false f.sc (strongPost s [cells] t)) s)

/-- R197, R198, R200, R203: atomics that pass the checks: the access is outstanding with its operation, operand, order and scope, and
the old value of a scalar one is awaited; a vector one does so for each element whose guard is true. -/
def Obligations.AtomicsIssue : Prop :=
  ∀ s : State, Settled s →
    (∀ (i : Instr) (f : MOrd) (op : AtomOp) (n : Nat) (y : W64) (cells : List (Nat × Nat)),
      (((i = .aadd f ∧ op = .add ∨ i = .amin f ∧ op = .min ∨ i = .amax f ∧ op = .max ∨ i = .aminn f ∧ op = .minn
          ∨ i = .amaxn f ∧ op = .maxn ∨ i = .aand f ∧ op = .and ∨ i = .aor f ∧ op = .or ∨ i = .axor f ∧ op = .xor
          ∨ i = .axchg f ∧ op = .xchg) ∧ n = sizeBytes f.w ∧ y = 0)
        ∨ (i = .acas f ∧ op = .cas ∧ n = sizeBytes f.w ∧ y = readS s (f.reg + 1))
        ∨ (i = .afadd f ∧ (f.w = 1 ∧ op = .faddB ∧ n = 2 ∨ f.w = 2 ∧ op = .faddF ∧ n = 4) ∧ y = 0)) →
      let a := memAddr s f.base n (.short f.off)
      (guardOn f.g s = false → Runs i Eff.none s)
      ∧ (guardOn f.g s = true → gcheck s [(a, List.range n)] .a (some (a, n)) true = .ok [cells] →
          Runs i (effect fun t =>
            let t1 := strongPost s [cells] t
            pushAcc (.atomic op (readS s f.reg) y (some t1.core.nextId)) (cells.map fun c => (c.2, 0)) (f.ord.getLsbD 1)
              (f.ord.getLsbD 0) f.sc
              (pushAwait { scalarAwait s f.d (mNo f.slot) with va := a, size := n, acq := f.ord.getLsbD 0 } t1)) s))
    ∧ ∀ (i : Instr) (f : MIdx) (op : AtomOp) (cells : List (List (Nat × Nat))),
      (i = .vaor f ∧ op = .or ∨ i = .vaadd f ∧ op = .add) →
      let is := guardElems f.g f.w f.e s
      (is = [] → Runs i Eff.none s)
      ∧ (is ≠ [] → gcheck s (is.map fun k => (indexAddr s f k, List.range (sizeBytes f.e))) .a
            (some (readS s f.base, sizeBytes f.e)) true = .ok cells →
          Runs i (effect fun t => (List.zip is cells).foldl (fun x p =>
            pushAcc (.atomic op (BitVec.ofNat 64 (lane (readV s f.d) p.1 (8 * sizeBytes f.e))) 0 none)
              (p.2.map fun c => (c.2, 0)) (f.ord.getLsbD 1) (f.ord.getLsbD 0) f.sc x
              (some (indexAddr s f p.1, mNo f.slot, pc s))) (strongPost s cells t)) s)

/-- R198, R200, R201, R203: an atomic performed: the value written is that of the rule's table, and the old value comes to the
scoreboard; a compare that fails writes nothing. Outside the bytes of the location memory is unchanged. -/
def Obligations.AtomicsPerform : Prop :=
  ∀ (s : State) (op : AtomOp) (x y : W64) (a n id : Nat) (rel acq : Bool) (scope : BitVec 3) (k : Nat),
    a + n ≤ 2 ^ 56 → n ∈ [1, 2, 4, 8] → a % n = 0 → Inv s →
    let g : GAcc := ⟨.atomic op x y (some id), (List.range n).map fun j => (a + j, 0), rel, acq, scope, k, none⟩
    let old := s.die.mem.readNum a n
    (∀ v, atomResult op n old x.toNat y.toNat = some v → (perform g s).die.mem.readNum a n = v % 2 ^ (8 * n))
    ∧ (atomResult op n old x.toNat y.toNat = none → (perform g s).die.mem = s.die.mem)
    ∧ (∀ p, (p < a ∨ a + n ≤ p) → (perform g s).die.mem.read p = s.die.mem.read p)
    ∧ ∀ w ∈ (perform g s).core.awaits, w.id = id → w.value = some (extendLoad w (BitVec.ofNat 1024 old))

/-- R195, R334: the checks of a global access at issue: the failed check traps before anything of it happens, the pages that are not
known are asked for while the bundle is held. -/
def Obligations.GlobalAccessChecks : Prop :=
  ∀ (s : State) (i : Instr) (spans : List Span) (need : Need) (align : Option (W64 × Nat)) (strong : Bool), Settled s →
    ((∃ f : MMem, (i = .ldg f ∨ i = .ldgn f) ∧ spans = [scalarSpan f.g f.base f.w f.off s] ∧ need = .rd ∧ align = none ∧ strong = false)
      ∨ (∃ f : MMem, i = .stg f ∧ spans = [scalarSpan f.g f.base f.w f.off s] ∧ need = .w ∧ align = none ∧ strong = false)
      ∨ (∃ f : MMem, i = .ldgv f ∧ spans = [vectorSpan f s] ∧ need = .rd ∧ align = none ∧ strong = false)
      ∨ (∃ f : MMem, i = .stgv f ∧ spans = [vectorSpan f s] ∧ need = .w ∧ align = none ∧ strong = false)
      ∨ (∃ f : MOrd, i = .lda f ∧ spans = [scalarSpan f.g f.base f.w (.short f.off) s] ∧ need = .rd
          ∧ align = some (memAddr s f.base (sizeBytes f.w) (.short f.off), sizeBytes f.w) ∧ strong = true)
      ∨ (∃ f : MOrd, i = .stl f ∧ spans = [scalarSpan f.g f.base f.w (.short f.off) s] ∧ need = .w
          ∧ align = some (memAddr s f.base (sizeBytes f.w) (.short f.off), sizeBytes f.w) ∧ strong = true)
      ∨ (∃ f : MOrd, (i = .aadd f ∨ i = .amin f ∨ i = .amax f ∨ i = .aminn f ∨ i = .amaxn f ∨ i = .aand f ∨ i = .aor f ∨ i = .axor f
            ∨ i = .axchg f ∨ i = .acas f ∨ i = .afadd f ∧ (f.w = 1 ∨ f.w = 2)) ∧ spans = [scalarSpan f.g f.base f.w (.short f.off) s] ∧ need = .a
          ∧ align = some (memAddr s f.base (sizeBytes f.w) (.short f.off), sizeBytes f.w) ∧ strong = true)
      ∨ (∃ f : MIdx, (i = .vaor f ∨ i = .vaadd f) ∧ need = .a ∧ align = some (readS s f.base, sizeBytes f.e) ∧ strong = true
          ∧ spans = (guardElems f.g f.w f.e s).map fun k => (indexAddr s f k, List.range (sizeBytes f.e)))) →
    spans.all (fun p => p.2.isEmpty) = false →
    (∀ c va, gcheck s spans need align strong = .fault c va → Traps i (raised i c va s) s)
    ∧ (∀ f, gcheck s spans need align strong = .wait f → Holds i .engine f s)
    ∧ (∀ c va, gcheck s spans need align strong = .fault c va →
        c = .range ∨ c = .page ∨ c = .protect ∨ c = .align ∨ c = .mixedSize)
    ∧ (∀ va, gcheck s spans need align strong = .fault .align va → ∃ n, align = some (va, n) ∧ va.toNat % n ≠ 0)

/-- R204 to R208, R43: DRAIN with nothing outstanding, after which engines use no bytes read uncached before it (R281), and the hints: a hint whose window check fails is counted and does nothing
else, any other asks the homes of its pages and works on the lines they grant, counted once where one is refused; ICPIN and ICUNPIN enter and take out pins in
order; PREF asks for each
granted line that finds a free request entry, and no hint of these kinds changes memory, registers or the scratchpad. -/
def Obligations.DrainAndHintResults : Prop :=
  (∀ s : State, Settled s →
    (∀ f : MDrain, Runs (.drain f) (guarded f.g s (effect (engBarrier s.core.accSeq))) s)
    ∧ (∀ (i : Instr) (f : MMem) (kind : HintKind),
      (i = .pref f ∧ kind = .pref (f.w == 0)
        ∨ i = .resid f ∧ f.w = 0 ∧ kind = .keep ∨ i = .resid f ∧ f.w = 1 ∧ kind = .evict ∨ i = .resid f ∧ f.w = 2 ∧ kind = .promote
        ∨ i = .icpin f ∧ kind = .pin (f.w == 1) ∨ i = .dcwb f ∧ kind = .clean (f.w == 1) ∨ i = .dcinv f ∧ kind = .drop (f.w == 1)) →
      (guardOn f.g s = false → Runs i Eff.none s)
      ∧ (guardOn f.g s = true → hintIa s f kind.need = none → Runs i (effect countHint) s)
      ∧ (guardOn f.g s = true → ∀ ia, hintIa s f kind.need = some ia →
          Runs i (effect (startHint kind s ia (hintLen s f.d))) s))
    ∧ ∀ f : MMem,
      (guardOn f.g s = false → Runs (.icunpin f) Eff.none s)
      ∧ (guardOn f.g s = true → hintIa s f .x = none → Runs (.icunpin f) (effect countHint) s)
      ∧ (guardOn f.g s = true → ∀ ia, hintIa s f .x = some ia → Runs (.icunpin f) (effect
          (startHint (.unpin (f.w == 1) (decide ((readS s f.d).toNat % 2 ^ 32 = 0))) s ia (hintLen s f.d))) s))
  ∧ ∀ (s : State) (h : Hint),
    let ls := rangeLines h.ia h.len
    let good := ls.filter fun l => hintLook h l == .ok
    let t := hintWork h s
    h.kind ≠ .promote →
    t.core.regs = s.core.regs ∧ t.core.spad = s.core.spad ∧ t.die.mem = s.die.mem
      ∧ t.core.sys.hintdrop = (if good = ls ∨ h.live = false then s.core.sys.hintdrop
          else BitVec.ofNat 64 (min 0xFFFFFFFF (s.core.sys.hintdrop.toNat + 1)))
      ∧ (∀ l2 all, h.kind = .unpin l2 all → good = ls ∧ t.core.pins =
          (if all then s.core.pins.filter fun p => p.l2 != l2 else s.core.pins.erase (pinOf h.ia h.len l2)))
      ∧ (∀ l2, h.kind = .pin l2 → t.core.pins =
          (if 8 ≤ s.core.pins.length then s.core.pins else s.core.pins ++ [pinOf h.ia h.len l2]))
      ∧ ∀ l1, h.kind = .pref l1 → t.core.prefs.map (·.line)
          = s.core.prefs.map (·.line) ++ good.take (1024 - (s.core.accs.length + s.core.prefs.length))

/-! ## The X and K classes -/

/-- R125, R237, R240 to R246, R248, R249: what enters the matrix queue: the operation with the operands captured at issue, where the
syllable's operands are legal and in bounds and an entry is free; an illegal operand, a span out of bounds, a full queue. -/
def Obligations.MatrixInstructionsQueue : Prop :=
  ∀ (s : State) (i : Instr) (g : Guard) (illegal : Bool) (spans : List (Nat × Nat)) (wait : Bool) (op : MxOp)
      (after : State → State), Settled s →
    let mul : XMul → Bool → MxOp := fun f scaled => .mul scaled f.conv f.int f.zero f.acc f.budget (readT s f.ta)
      (readT s (f.ta + 1)) (readT s f.tb) (readLs s (cPls (readT s f.ta)) 8)
    ((∃ f : XMul, i = .mma f ∧ g = f.g ∧ illegal = mulIllegal f false s ∧ spans = mulSpans f s ∧ wait = false ∧ op = mul f false
        ∧ after = id)
      ∨ (∃ f : XMul, i = .mmas f ∧ g = f.g ∧ illegal = mulIllegal f true s ∧ spans = mulSpans f s ∧ wait = false ∧ op = mul f true
        ∧ after = id)
      ∨ (∃ f : XMul, i = .mconv f ∧ g = f.g ∧ illegal = mulIllegal f false s ∧ spans = mulSpans f s ∧ wait = false
        ∧ op = mul f false ∧ after = fun t => writeT t f.ta (tapNext (readT s f.ta) (readT s (f.ta + 1))))
      ∨ (∃ f : XAcc, i = .mzero f ∧ g = f.g ∧ illegal = false ∧ spans = [] ∧ wait = false ∧ op = .zero f.acc ∧ after = id)
      ∨ (∃ f : XTile, i = .mstore f ∧ g = f.g ∧ op = .store (readT s f.t) ∧ after = id
        ∧ illegal = (tConv (readT s f.t) || (!tW32 (readT s f.t) && tFmt (readT s f.t) == 7))
        ∧ spans = ((List.range 128).map fun k =>
            (tAddr (readT s f.t) + k * pitchOr (readT s f.t) (storeRow (readT s f.t)), storeRow (readT s f.t)))
        ∧ wait = bankPending s (tAcc (readT s f.t)))
      ∨ (∃ f : XTile, i = .mplane f ∧ g = f.g ∧ op = .plane (readT s f.t) ∧ after = id ∧ wait = false
        ∧ (let t := readT s f.t
           let row := packedBytes (tFmt t) 128
           illegal = (tConv t || tFmt t == 7 || tAddr t % 64 != 0 || (tPitch t != 0 && decide (tPitch t < row)))
           ∧ spans = [(tSrc t, 31 * pitchOr t row + row), (tAddr t, imgBytes (tFmt t))]))) →
    let fault := lowestBad (fun _ => true) (spans.filterMap fun p => spanFault s p.1 p.2)
    (guardOn g s = false → Runs i Eff.none s)
    ∧ (guardOn g s = true →
      (illegal = true → Traps i (raised i .illegalOp 0 s) s)
      ∧ (illegal = false → ∀ a, fault = some a → Traps i (raised i .scratchBounds a s) s)
      ∧ (illegal = false → fault = none → (wait || decide (2 ≤ s.core.mxQueue.length)) = true → Holds i .structural id s)
      ∧ (illegal = false → fault = none → wait = false → s.core.mxQueue.length < 2 →
          Runs i (effect fun t => after (mxPush s (xWord i) op t)) s))

/-- R237, R247, R250, R252: rows of a bank, tile registers, MFENCE, and the scale latches. -/
def Obligations.MatrixRegisterAndLatchResults : Prop :=
  ∀ s : State, Settled s →
    (∀ f : XRow, (bankPending s f.acc = false →
        Runs (.mread f) (guarded f.g s (results ((List.range 4).map fun q =>
          pendV (rowReg f q) (((if f.acc then s.core.regs.acc1 else s.core.regs.acc0).getD f.row.toNat 0).extractLsb' (1024 * q) 1024)
            (BitVec.allOnes 128) 128 6 8 0))) s
        ∧ Runs (.mwrite f) (guarded f.g s (effect fun t => setLive f.acc true (setBank f.acc ((bankOf t f.acc).setIfInBounds
            f.row.toNat (readV s (rowReg f 3) ++ readV s (rowReg f 2) ++ readV s (rowReg f 1) ++ readV s (rowReg f 0)
              : BitVec (1024 + 1024 + 1024 + 1024))) t))) s)
      ∧ (bankPending s f.acc = true → guardOn f.g s = true →
          Holds (.mread f) .structural id s ∧ Holds (.mwrite f) .structural id s))
    ∧ (∀ f : XSett, Runs (.msett f) (guarded f.g s (effect fun t => writeT t f.t (readS s f.s))) s)
    ∧ (∀ f : XNone, ((guardOn f.g s = false ∨ mxAll s = []) → Runs (.mfence f) Eff.none s)
      ∧ (guardOn f.g s = true → mxAll s ≠ [] → Holds (.mfence f) .structural id s))
    ∧ (-- R252: the K class writes a latch, which an MMAS issued four bundles later sees
      let write : Dst → W1024 → Pend := fun d x => ⟨d, x, BitVec.allOnes 128, 3, 10, 0, 4⟩
      let every : Nat → W1024 := fun b => packLanes 8 (List.replicate 128 b)
      (∀ f : KSrc, Runs (.kseta f) (guarded f.g s (results [write .ka (readV s f.v)])) s
        ∧ Runs (.ksetb f) (guarded f.g s (results [write .kb (readV s f.v)])) s)
      ∧ (∀ f : KFill, Runs (.kfill f) (guarded f.g s
          (results [write (if f.kb then .kb else .ka) (every ((readS s f.s).toNat % 256))])) s)
      ∧ ∀ f : KNone, Runs (.kclr f) (guarded f.g s (results [write .ka (every 127), write .kb (every 127)])) s)

/-! ## The C class -/

/-- R80, R169, R174, R175: layout fields, arrival bitmaps and semaphores. -/
def Obligations.LayoutBitmapAndSemaphoreResults : Prop :=
  ∀ s : State, Settled s →
    (∀ f : CLs, Runs (.lsw f) (guarded f.g s (results
        [⟨.lsf f.l f.f, (readS s f.r &&& lsMask f.f.toNat).setWidth 1024, lowMask 8, 2, 9, 0, 1⟩])) s
      ∧ Runs (.lsr f) (guarded f.g s (effect (pushResult s f.r 9 (readLs s f.l f.f)))) s)
    ∧ (∀ f : CAb,
        Runs (.abclr f) (guarded f.g s (effect fun t => t.upCore fun c =>
          { c with ab := c.ab.set f.n.toFin (c.ab.get f.n.toFin &&& ~~~(readS s f.a)) })) s
        ∧ ((guardOn f.g s = false ∨ abOf s f.n &&& readS s f.a = readS s f.a) → Runs (.abwait f) Eff.none s)
        ∧ (guardOn f.g s = true → abOf s f.n &&& readS s f.a ≠ readS s f.a → Holds (.abwait f) .sem id s))
    ∧ (∀ f : CSem,
        Runs (.semset f) (guarded f.g s (effect (setSem f.m ((readS s f.a).toNat % 2 ^ 16)))) s
        ∧ Runs (.semadd f) (guarded f.g s (effect fun t => setSem f.m
            (min 0xFFFF (max 0 ((semOf t f.m : Int) + sextInt (readS s f.a).toNat 16)).toNat) t)) s
        ∧ Runs (.semrd f) (guarded f.g s (effect (pushResult s f.a 9 (BitVec.ofNat 64 (semOf s f.m))))) s)
    ∧ ∀ f : CSemw,
        let v := (readS s f.a).toNat % 2 ^ 16
        ((guardOn f.g s = false ∨ v ≤ semOf s f.m) →
          Runs (.semwait f) (guarded f.g s (if f.take then effect (setSem f.m (semOf s f.m - v)) else Eff.none)) s)
        ∧ (guardOn f.g s = true → semOf s f.m < v → Holds (.semwait f) .sem id s)

/-- R77, R78, R82, R90, R170 to R173: a copy command that passes its checks at issue enters the queue of its channel, with the
operands and the layout set captured; a check that fails traps; a full queue or a full capture bank holds the bundle. -/
def Obligations.CopyCommandsQueue : Prop :=
  ∀ (s : State) (i : Instr) (g : Guard) (c : Cmd) (checks : Option (Cause × W64)), Settled s →
    ((∃ f : CCopy, (i = .cpyin f ∧ c = newCmd s 0x04 f.l f.ord f.sc f.ext (readS s f.a) (readS s f.b)
          ∨ i = .cpyout f ∧ c = newCmd s 0x05 f.l f.ord f.sc f.ext (readS s f.a) (readS s f.b)
          ∨ i = .cpykv f ∧ c = newCmd s 0x07 f.l f.ord f.sc f.ext (readS s f.a) (readS s f.b)) ∧ g = f.g
        ∧ (let span := (addrSpanFault s c.e1 (tileSpan c)).map fun x => (Cause.scratchBounds, x)
           let reach : Option (W64 × W64 × Need) := if c.isKv
             then (kvBlocks c).head?.map fun b =>
               (kvEntryVa c b, kvEntryVa c ((kvBlocks c).getLastD b) + 7, if kvAppend c then .w else .rd)
             else (tileReach c).map fun r => (r.1, r.2, if c.isIn then .rd else .w)
           checks = if layoutBad c then (if addrOk c.e1 then none else some (.scratchBounds, c.e1))
             else match reach with
               | some r => if (cmdWindow c r.1 r.2.1 r.2.2).isNone then some (.range, r.1) else span
               | none => span))
      ∨ (∃ f : CChain, i = .cpych f ∧ g = f.g ∧ c = newCmd s 0x06 f.l 0 0 f.ext (readS s f.a) 0
        ∧ checks = if (cmdWindow c c.e1 (c.e1 + 63) .rd).isNone then some (.range, c.e1) else none)
      ∨ (∃ f : CState, i = .cpyst f ∧ g = f.g
        ∧ (let x := readS s (pairLo f.p)
           let y := readS s (pairHi f.p)
           c = { newCmd s 0x08 f.l 0 0 f.ext (packPair x y) (readS s f.b) with bad := statePairBad x y }
           ∧ checks = (spanBad (spadAddr s) (x.extractLsb' 0 22).toNat (x.extractLsb' 32 25).toNat).map fun v => (.scratchBounds, v)))
      ∨ (∃ f : CCopy, i = .cpymsg f ∧ g = f.g ∧ c = newCmd s 0x09 f.l f.ord f.sc f.ext (readS s f.a) (readS s f.b)
        ∧ checks = (addrSpanFault s (readS s f.a) (msgLen (readS s f.b))).map fun x => (.scratchBounds, x))) →
    let bank := if usesSet c then (pickBank s c.set).map some else some none
    (guardOn g s = false → Runs i Eff.none s)
    ∧ (guardOn g s = true →
      (∀ k v, checks = some (k, v) → Traps i (raised i k v s) s)
      ∧ (checks = none → (16 ≤ (chOf s (chanOf c.set)).queue.length ∨ bank = none) → Holds i .structural id s)
      ∧ (checks = none → (chOf s (chanOf c.set)).queue.length < 16 → ∀ b, bank = some b → Runs i (effect (pushCmd s c b)) s))

/-- R73 to R76, R177, R178: messages. -/
def Obligations.MessageResults : Prop :=
  ∀ s : State, Settled s →
    (∀ f : CTwo,
      let a := readS s f.a
      let w := readS s f.b
      (guardOn f.g s = false → Runs (.send f) Eff.none s)
      ∧ (guardOn f.g s = true →
        (∀ x, addrSpanFault s a (msgLen w) = some x → Traps (.send f) (raised (.send f) .scratchBounds x s) s)
        ∧ (addrSpanFault s a (msgLen w) = none →
          (sendBad s w = true → Runs (.send f) (effect countDropped) s)
          ∧ (sendBad s w = false → s.core.outFull = true → Holds (.send f) .structural id s)
          ∧ (sendBad s w = false → s.core.outFull = false → Runs (.send f) (effect fun t => t.upCore fun c =>
              { c with outMail := c.outMail ++
                [⟨amGang s, msgRank w, ⟨msgTag w, myDomain s, myRank s, spadList s a (msgLen w)⟩, s.core.accSeq⟩] }) s))))
    ∧ (∀ f : CPair,
      let a := readS s (pairLo f.p)
      let sel := readS s (pairHi f.p)
      (guardOn f.g s = false → Runs (.recv f) Eff.none s)
      ∧ (guardOn f.g s = true →
        (∀ x, addrSpanFault s a 128 = some x → Traps (.recv f) (raised (.recv f) .scratchBounds x s) s)
        ∧ (addrSpanFault s a 128 = none →
          ((allMail s).findIdx? (msgMatches sel) = none →
            Holds (.recv f) .recv (fun t => t.upCore fun c => { c with waitArg := sel }) s)
          ∧ ∀ k, (allMail s).findIdx? (msgMatches sel) = some k → ∃ m, (allMail s)[k]? = some m
              ∧ Runs (.recv f) (effect fun t =>
                let u := takeMail k t
                pushResult s f.d 9 (mailHeader m) (u.setSpad (spadPut u.core.spad (spadAddr s) a m.payload))) s)))
    ∧ (∀ f : CRecvp,
      let w := readS s f.a
      let sel := readS s f.b
      let a := (w.extractLsb' 0 22).toNat
      (guardOn f.g s = false → Runs (.recvp f) Eff.none s)
      ∧ (guardOn f.g s = true →
        (bufBad w = true → Traps (.recvp f) (raised (.recvp f) .scratchBounds (BitVec.ofNat 64 a) s) s)
        ∧ (bufBad w = false →
          (∀ x, spanBad (spadAddr s) a (msgLen w) = some x → Traps (.recvp f) (raised (.recvp f) .scratchBounds x s) s)
          ∧ (spanBad (spadAddr s) a (msgLen w) = none →
            (8 ≤ s.core.posted.length → Holds (.recvp f) .structural id s)
            ∧ (s.core.posted.length < 8 → Runs (.recvp f) (effect fun t => t.upCore fun c => { c with posted := c.posted ++
                [⟨w.extractLsb' 0 22, w.extractLsb' 32 25, sel.getLsbD 16, sel.extractLsb' 0 16, sel.extractLsb' 32 16, f.sem,
                  f.inc⟩] }) s)))))
    ∧ ∀ f : COne, Runs (.mbstat f) (guarded f.g s (effect (pushResult s f.a 9 (mbstatWord s)))) s

/-- R179 to R182: posts of collectives, and BWSET. -/
def Obligations.CollectivePostsAndWeights : Prop :=
  ∀ s : State, Settled s →
    (∀ (i : Instr) (g : Guard) (p : CollPost) (spans : List (Span × List Need × Need)),
      ((∃ f : CColl, i = .coll f ∧ g = f.g ∧ p = ⟨false, lineVa (readS s f.a), 0, f.ext, f.ord, f.sc, s.core.sys.win, s.core.mon,
          s.core.agent, s.core.accSeq, true, 0, 0⟩ ∧ spans = [((lineVa (readS s f.a), List.range 64), [.rd, .w], .w)])
        ∨ (∃ f : CArm, i = .collarm f ∧ g = f.g ∧ p = ⟨true, lineVa (readS s f.a), readS s f.b &&& ~~~7, f.ext, f.ord, f.sc,
            s.core.sys.win, s.core.mon, s.core.agent, s.core.accSeq, true, 0, 0⟩
          ∧ spans = [((lineVa (readS s f.a), List.range 64), [.rd, .w], .w),
              ((readS s f.b &&& ~~~7, List.range 8), [.rd], .rd)])) →
      (guardOn g s = false → Runs i Eff.none s)
      ∧ (guardOn g s = true →
        (∀ c va, multiCheck s spans = .fault c va → Traps i (raised i c va s) s)
        ∧ (∀ f, multiCheck s spans = .wait f → Holds i .engine f s)
        ∧ ∀ cs, multiCheck s spans = .ok cs →
          (8 ≤ s.core.posts.length → Holds i .structural id s)
          ∧ (s.core.posts.length < 8 → Runs i (effect fun t => t.upCore fun c => { c with posts := c.posts ++ [p] }) s)))
    ∧ ∀ f : COne,
      let x := readS s f.a
      let v : BitVec 16 := x.extractLsb' 0 16
      Runs (.bwset f) (guarded f.g s (effect (bwset v (x.getLsbD 16) (x.getLsbD 17)))) s
      ∧ (s.core.mon = true →
          let w := (bwset v (x.getLsbD 16) (x.getLsbD 17) s).core.weights
          let d := (bwset v (x.getLsbD 16) (x.getLsbD 17) s).die.migr
          (x.getLsbD 16 = true → w.hbm = v ∧ w.hbmCeil = v ∧ d.hbm = v) ∧ (x.getLsbD 17 = true → w.links = v ∧ w.linksCeil = v ∧ d.links = v)
          ∧ (x.getLsbD 16 = false → w.hbm = s.core.weights.hbm ∧ w.hbmCeil = s.core.weights.hbmCeil ∧ d.hbm = s.die.migr.hbm)
          ∧ (x.getLsbD 17 = false → w.links = s.core.weights.links ∧ w.linksCeil = s.core.weights.linksCeil ∧ d.links = s.die.migr.links))
      ∧ (s.core.mon = false →
          let t := bwset v (x.getLsbD 16) (x.getLsbD 17) s
          t.die = s.die ∧ t.core.weights.hbmCeil = s.core.weights.hbmCeil ∧ t.core.weights.linksCeil = s.core.weights.linksCeil
          ∧ t.core.weights.hbm = (if x.getLsbD 16 then capWeights v s.core.weights.hbmCeil s.core.weights.hbm else s.core.weights.hbm)
          ∧ t.core.weights.links = (if x.getLsbD 17 then capWeights v s.core.weights.linksCeil s.core.weights.links
              else s.core.weights.links))

/-- R98, R183: a Grotto command leaves the core with its operand, and its status word is awaited. R99, R101: while the controller
of this die is enabled, SOPEN with a good size and room opens a sequence of fresh generation, and a command on a sequence that is not
open is refused with code 1 and changes nothing. -/
def Obligations.GrottoCommandsAndAnswers : Prop :=
  (∀ s : State, Settled s →
    let sent : BitVec 6 → BitVec 7 → BitVec 6 → W32 → Eff := fun d op b ext =>
      effect fun t =>
        let u := pushAwait { scalarAwait s d 9 with grot := some (op, readS s b, ext) } t
        if op != 0x28 && handleAgent (readS s b) == otherDie s
          then u.send (.grotto (otherDie s) t.core.nextId op (readS s b) ext) else u
    (∀ f : CTwo, Runs (.sopen f) (guarded f.g s (sent f.a 0x28 f.b 0)) s
      ∧ Runs (.sclose f) (guarded f.g s (sent f.a 0x29 f.b 0)) s ∧ Runs (.ssnap f) (guarded f.g s (sent f.a 0x2A f.b 0)) s
      ∧ Runs (.sroll f) (guarded f.g s (sent f.a 0x2B f.b 0)) s ∧ Runs (.sfork f) (guarded f.g s (sent f.a 0x2C f.b 0)) s
      ∧ Runs (.sdrop f) (guarded f.g s (sent f.a 0x2D f.b 0)) s)
    ∧ (∀ f : CSpin, Runs (.spin f) (guarded f.g s (sent f.d 0x2E f.b (if f.pin then 1 else 0))) s)
    ∧ ∀ f : CSqry, Runs (.sqry f) (guarded f.g s (sent f.d 0x2F f.b (f.k.setWidth 32))) s)
  ∧ ∀ (s : State) (w : W64) (ext : W32),
    (s.die.grotto.en = false → ∀ op, grRun s op w ext = (s.die.grotto, grRefused 5))
    ∧ (s.die.grotto.en = true →
      ((w.toNat = 0 ∨ 2 ^ 26 < w.toNat ∨ w.toNat % 512 ≠ 0) → grRun s 0x28 w ext = (s.die.grotto, grRefused 6))
      ∧ (¬(w.toNat = 0 ∨ 2 ^ 26 < w.toNat ∨ w.toNat % 512 ≠ 0) → s.die.grotto.seqs.length < 65536 →
          w.toNat / 512 ≤ arenaFree s.die.grotto →
          (grRun s 0x28 w ext).2.extractLsb' 0 8 = 0
          ∧ ∃ h k, (grRun s 0x28 w ext).1.seqs = s.die.grotto.seqs ++ [⟨h, k, w.toNat / 512, [], [], []⟩]
            ∧ k = nextGen s.die.grotto h.toNat)
      ∧ ∀ op, op ∈ [(0x29 : BitVec 7), 0x2A, 0x2B, 0x2C, 0x2D, 0x2E, 0x2F] → seqFind s w = none →
          grRun s op w ext = (s.die.grotto, grRefused 1))

/-- R184 to R187: the task commands. -/
def Obligations.TaskCommandResults : Prop :=
  ∀ s : State, Settled s →
    let me := s.core.cid.toNat
    (∀ f : COne,
      let a := lineVa (readS s f.a)
      (guardOn f.g s = false → Runs (.spawn f) Eff.none s)
      ∧ (guardOn f.g s = true →
        (∀ x, addrSpanFault s a 64 = some x → Traps (.spawn f) (raised (.spawn f) .scratchBounds x s) s)
        ∧ (addrSpanFault s a 64 = none →
          (spawnRoom s = false → Holds (.spawn f) .structural id s)
          ∧ (spawnRoom s = true → Runs (.spawn f) (effect (pushDeque ⟨spawnRec s (recOfWords fun k =>
              BitVec.ofNat 64 (ofBytes (((spadList s a 64).drop (8 * k)).take 8))), false, s.core.accSeq⟩)) s))))
    ∧ (∀ f : CTwo,
      let a := readS s f.b
      (guardOn f.g s = false → Runs (.take f) Eff.none s)
      ∧ (guardOn f.g s = true →
        (∀ x, addrSpanFault s a 64 = some x → Traps (.take f) (raised (.take f) .scratchBounds x s) s)
        ∧ (addrSpanFault s a 64 = none →
          (∀ d, s.core.deque.getLast? = some d → Runs (.take f) (effect fun t =>
            takeRec s f.a me d a (t.upCore fun c => { c with deque := c.deque.dropLast })) s)
          ∧ (∀ o, s.core.deque = [] → s.core.dequeOvf.getLast? = some o → Runs (.take f) (effect fun t =>
            takeRec s f.a me (ovfRec s o) a (t.upCore fun c => { c with dequeOvf := c.dequeOvf.dropLast })) s)
          ∧ (s.core.deque = [] → s.core.dequeOvf = [] → Runs (.take f) (effect (pushResult s f.a 9 (takeWord 1 noVictim))) s))))
    ∧ (∀ f : CPair,
      let a := lineVa (readS s (pairLo f.p))
      let sel := readS s (pairHi f.p)
      let found : List Nat → Option (Nat × DequeRec) :=
        fun cs => cs.findSome? fun c =>
          if offlineAt s c then none else (dequeOf s c).head?.map fun d => (c, d)
      (guardOn f.g s = false → Runs (.steal f) Eff.none s)
      ∧ (guardOn f.g s = true →
        (∀ x, addrSpanFault s a 64 = some x → Traps (.steal f) (raised (.steal f) .scratchBounds x s) s)
        ∧ (addrSpanFault s a 64 = none →
          (stealFrom s sel = none → Runs (.steal f) (effect (pushResult s f.d 9 (takeWord 2 noVictim))) s)
          ∧ ∀ cs, stealFrom s sel = some cs →
            (found cs = none → Runs (.steal f) (effect (pushResult s f.d 9 (takeWord 1 noVictim))) s)
            ∧ ∀ c d, found cs = some (c, d) → Runs (.steal f) (effect fun t =>
                takeRec s f.d c d a (removeSource me (.peer c) t)) s)))
    ∧ (∀ f : COne,
      let a := readS s f.a
      let check := multiCheck s [((a, List.range 8), [.rd, .w, .a], .a)]
      ((guardOn f.g s = false ∨ noEndPending s = false) → Runs (.join f) Eff.none s)
      ∧ (guardOn f.g s = true → noEndPending s = true →
        (∀ c va, check = .fault c va → Traps (.join f) (raised (.join f) c va s) s)
        ∧ (∀ w, check = .wait w → Holds (.join f) .engine w s)
        ∧ ∀ cs, check = .ok cs →
          (a.toNat % 8 ≠ 0 → Traps (.join f) (raised (.join f) .align a s) s)
          ∧ (a.toNat % 8 = 0 → Runs (.join f) (effect fun t =>
              if s.core.task.isSome then t.upCore fun c => { c with joinReq := some a } else t) s)))
    ∧ ∀ f : CTwo, Runs (.domset f) (guarded f.g s (effect fun t =>
        pushResult s f.a 9 (BitVec.ofNat 64 (domsetCode s (readS s f.b)))
          (if domsetCode s (readS s f.b) = 0 then domset (readS s f.b) t else t))) s

/-! ## The B class -/

/-- R156, R157, R261, R262: what each transfer does to the stream, and the link register of BL and JRL: the address that follows in sequence, formed
as soon as the header word before it can be fetched (formLink). -/
def Obligations.BranchResults : Prop :=
  ∀ s : State, Settled s →
    let direct : BitVec 19 → W64 := fun off => pc s + (sext64 off.toNat 19 <<< 2)
    let linked : W64 → Eff := fun dest => ⟨[pendS 62 (linkValue s) 1 11 0],
      (fun t => if isNext (sequential (formed s)) then t.upCore fun c => { c with linkDue := some ⟨c.mon, 1, linkValue s⟩ } else t),
      ⟨some dest, false⟩⟩
    (∀ f : BOff,
      Runs (.br f) (if guardOn f.g s then transfer (some (direct f.off)) false else transfer none false) s
      ∧ Runs (.bra f) (if guardOn f.g s then transfer (some (direct f.off)) false else transfer none true) s
      ∧ Runs (.brf f) (if guardOn f.g s then transfer (some (direct f.off)) true else transfer none false) s
      ∧ Runs (.bl f) (if guardOn f.g s then linked (direct f.off) else transfer none false) s)
    ∧ (∀ f : BReg,
      Runs (.jr f) (if guardOn f.g s then transfer (some (readS s f.r)) false else transfer none false) s
      ∧ Runs (.jrl f) (if guardOn f.g s then linked (readS s f.r) else transfer none false) s)
    ∧ ∀ f : BNone, Runs (.ret f) (if guardOn f.g s then transfer (some (readS s 62)) false else transfer none false) s

/-- R156, R157: the stream after a committed bundle: the second and third addresses move up with their annul bits, and the third is
the target of a taken transfer, else the address that follows in sequence; the next two bundles are annulled where the transfer says
so. -/
def Obligations.StreamAfterBundle : Prop :=
  ∀ (s : State) (c : Ctl),
    let q := stream s
    let r := formStream s q
    let t := stream (advance c s)
    t.q0 = r.q1 ∧ t.q1 = r.q2
    ∧ (isNext q.q1 = false → r.q1 = q.q1) ∧ (isNext q.q2 = false → r.q2 = q.q2)
    ∧ (∀ a, c.target = some a → t.q2 = a &&& ~~~3)
    ∧ (c.target = none → isNext r.q2 = false → r.f2 = none →
        (∀ h, fetchWord s r.q2 = .got h → t.q2 = r.q2 + BitVec.ofNat 64 (4 * (h.toNat / 2 ^ 24 % 32)))
        ∧ ((∀ h, fetchWord s r.q2 ≠ .got h) → isNext t.q2 = true))
    ∧ (t.annul.getLsbD 0 = (q.annul.getLsbD 1 || c.annul)) ∧ (t.annul.getLsbD 1 = (q.annul.getLsbD 2 || c.annul))
    ∧ t.annul.getLsbD 2 = false

/-- R139, R263, R151: the loop-closing branches, with the fields of LPW and LPE taken apart. -/
def Obligations.LoopBranchResults : Prop :=
  ∀ (f : BLoop) (s : State), Settled s → ∀ (i : Instr) (w : W64) (dst : Dst) (base : Nat),
    (i = .bloopw f ∧ w = s.core.sys.lpw ∧ dst = .lpw ∧ base = 8 ∨ i = .bloope f ∧ w = s.core.sys.lpe ∧ dst = .lpe ∧ base = 24) →
    let start := w.toNat / 2 ^ 32
    let depth := w.toNat / 2 ^ 8 % 16
    let live := w.toNat % 256
    let d := if depth = 0 then 1 else min depth 8
    let live' := (2 * live + (if start = 0 then 0 else 1)) % 2 ^ d
    let start' := start - 1
    let ahead := (2 * live' + (if start' = 0 then 0 else 1)) % 2 ^ d
    ∃ w' : W64, w'.toNat / 2 ^ 32 = start' ∧ w'.toNat % 2 ^ 32 / 256 = w.toNat % 2 ^ 32 / 256 ∧ w'.toNat % 256 = live' ∧
      Runs i ⟨⟨dst, w'.setWidth 1024, lowMask 8, 0, 11, 0, 1⟩ :: (List.range 8).map fun k =>
          pendP (BitVec.ofNat 5 (base + k)) (if live'.testBit k then BitVec.allOnes 128 else 0) (BitVec.allOnes 128) 1 11 0, id,
        ⟨if ahead = 0 then none else some (pc s + (sext64 f.off.toNat 19 <<< 2)), false⟩⟩ s

/-- R264, R265: barriers at issue: a level the task may not name, a phase that is over, and an arrival; BARA never waits. -/
def Obligations.BarrierInstructions : Prop :=
  ∀ (f : BLev) (s : State), Settled s →
    let b := barOf s f.l
    let wait : State → State := fun t => (barAsk f.l t).upCore fun c => { c with waitArg := f.l.setWidth 64 }
    (guardOn f.g s = false → Runs (.bar f) Eff.none s ∧ Runs (.barw f) Eff.none s ∧ Runs (.bara f) Eff.none s)
    ∧ (guardOn f.g s = true → barIllegal s f.l = true →
        Traps (.bar f) (raised (.bar f) .illegalOp 0 s) s ∧ Traps (.barw f) (raised (.barw f) .illegalOp 0 s) s
        ∧ Traps (.bara f) (raised (.bara f) .illegalOp 0 s) s)
    ∧ (guardOn f.g s = true → barIllegal s f.l = false →
        ((b.arrived && b.complete) = true → Runs (.bar f) (effect (barAdvance f.l)) s ∧ Runs (.barw f) (effect (barAdvance f.l)) s)
        ∧ ((b.arrived && b.complete) = false → Holds (.bar f) .bar wait s ∧ Holds (.barw f) .bar wait s)
        ∧ Runs (.bara f) (effect fun t => if b.arrived && b.complete then barAsk f.l (barAdvance f.l t) else barAsk f.l t) s)

/-- R148, R267 to R274: NOP; the ends, which begin at their bundle's commit where none is pending; HALT and ERET at task level raise PRIV; TRAP
and BKPT trap; WFE ends on the event latch or after 65,536 cycles; PRIO. -/
def Obligations.NopEndsTrapsAndEvents : Prop :=
  ∀ s : State, Settled s →
    (∀ slot : BitVec 4, Runs (.nop slot) Eff.none s) ∧
    (∀ f : BReg, Runs (.yield f) (guarded f.g s (effect fun t => if noEndPending s then
        (beginEnd .yield 1 t).upSys fun y => { y with tstate := setField y.tstate 8 8 (readS s f.r).toNat } else t)) s)
    ∧ (∀ f : BNone,
      Runs (.endt f) (guarded f.g s (effect fun t => if noEndPending s then beginEnd .endt 2 t else t)) s
      ∧ (s.core.mon = true →
        Runs (.halt f) (guarded f.g s (effect fun t => if s.core.mEnd = .none then beginEnd .halt 0 t else t)) s
        ∧ Runs (.eret f) (guarded f.g s (effect fun t => if s.core.mEnd = .none then beginEnd .eret 0 t else t)) s)
      ∧ (s.core.mon = false → Traps (.halt f) (raised (.halt f) .priv 0 s) s ∧ Traps (.eret f) (raised (.eret f) .priv 0 s) s))
    ∧ (∀ f : BCode, (guardOn f.g s = true →
        Traps (.trap f) (raised (.trap f) .trap 0 s) s ∧ Traps (.bkpt f) (raised (.bkpt f) .breakpoint 0 s) s)
      ∧ (guardOn f.g s = false → Runs (.trap f) Eff.none s ∧ Runs (.bkpt f) Eff.none s))
    ∧ (∀ f : BNone,
      (guardOn f.g s = false → Runs (.wfe f) Eff.none s)
      ∧ (guardOn f.g s = true → (s.core.latch = true ∨ 65536 ≤ s.core.wfeCycles) →
          Runs (.wfe f) (effect fun t => t.upCore fun c => { c with latch := false }) s)
      ∧ (guardOn f.g s = true → s.core.latch = false → s.core.wfeCycles < 65536 → Holds (.wfe f) .wfe id s))
    ∧ ∀ f : BReg,
      let p := (readS s f.r).toNat % 128
      let lower : TaskInfo → TaskInfo := fun k => if p < recPrio k.record then { k with record := setPrio k.record p } else k
      Runs (.prio f) (guarded f.g s (effect fun t => t.upCore fun c => { c with task := c.task.map lower })) s

/-- Key-slot commands and their end, and the lines that the memory controller reads, writes and clears (R15 to R21). What clears
ERR, and what the load of random keys leaves of MKDAT, are the model's choices, log entry 50. -/
def Obligations.KeyAndControllerSteps : Prop :=
  let line : State → BitVec 50 := fun s => s.arg.line
  -- what a read of the line answers once the bits lost since its last write are taken off
  let decayed : State → DramLine → DramLine := fun s d0 =>
    ⟨s.arg.line, d0.cipher ^^^ s.arg.data, d0.tag ^^^ s.arg.x.setWidth 16, d0.check ^^^ s.arg.y.setWidth 48⟩
  -- a line of an HBM page in the buffer of its home that DRAM alone holds, with a free way and nothing that waits for it
  let stored : State → Nat → BitVec 9 → DramLine → Prop := fun s pa key d0 =>
    Quiet s ∧ s.die.xlate.hpEn = false ∧ isLocal s (lineIa (line s)) = true
      ∧ (bufferFind s.die.xlate (iaOffset (lineIa (line s)))).isSome = true ∧ homeFind s (line s) = none
      ∧ lineHeld s (line s) = false ∧ lineBad s (line s) = false ∧ setFull s (line s) = false
      ∧ (s.die.coh.waiting.any fun w => w.line == line s) = false
      ∧ physOf s (lineIa (line s)) = some (pa, false, key) ∧ dramFind s (line s) = some d0 ∧ s.arg.k < 2
  -- R18: a command starts; ERR clears where a one is written to it; one written while BUSY is ignored; what the registers read
  (∀ s : State, s.die.keys.busy = false →
    let starts := fun (c : BitVec 2) => upKeys (fun k => { k with
      err := k.err && !decide (s.arg.k = 1), busy := true, all := s.arg.b, slot := BitVec.ofNat 9 s.arg.n, cmd := c }) s
    exec .mkLoad s = .next (starts 1) ∧ exec .mkLoadRandom s = .next (starts 2) ∧ exec .mkZeroise s = .next (starts 3))
  ∧ (∀ s : State, s.die.keys.busy = true →
      exec .mkLoad s = .next s ∧ exec .mkLoadRandom s = .next s ∧ exec .mkZeroise s = .next s)
  ∧ (∀ s : State, (readMkctl s).getLsbD 63 = s.die.keys.busy ∧ (readMkctl s).getLsbD 62 = s.die.keys.err
      ∧ (readMkctl s).getLsbD 12 = s.die.keys.all ∧ (readMkctl s).extractLsb' 0 9 = s.die.keys.slot
      ∧ (readMkctl s).extractLsb' 9 3 = 0 ∧ ∀ i, readMkdat s i = 0)
  -- R18, R19: MKZEROISE of one slot leaves zero keys in it and the other slots as they were
  ∧ (∀ s : State, s.die.keys.busy = true → s.die.keys.cmd = 3 → s.die.keys.all = false →
      ∃ t, exec .mkCommandComplete s = .next t ∧ t.die.keys.busy = false ∧ t.die.keys.dat = s.die.keys.dat
        ∧ slotKeys t s.die.keys.slot.toNat = 0
        ∧ ∀ n, n ≠ s.die.keys.slot.toNat → slotKeys t n = slotKeys s n)
  -- R18: MKLOAD puts the words of MKDAT into the slot and clears them, and refuses a pair of equal halves
  ∧ (∀ s : State, s.die.keys.busy = true → s.die.keys.cmd = 1 → s.die.keys.all = false → s.die.keys.slot ≠ 511 →
      let pair : BitVec 512 := BitVec.ofNat 512 (ofBytes (s.die.keys.dat.toList.flatMap fun w => toBytes 8 w.toNat))
      if pair.extractLsb' 0 256 = pair.extractLsb' 256 256 then
        exec .mkCommandComplete s = .next (upKeys (fun k => { k with busy := false, err := true }) s)
      else ∃ t, exec .mkCommandComplete s = .next t ∧ t.die.keys.busy = false ∧ t.die.keys.err = s.die.keys.err
        ∧ t.die.keys.dat = Vector.replicate 8 0 ∧ slotKeys t s.die.keys.slot.toNat = pair
        ∧ ∀ n, n ≠ s.die.keys.slot.toNat → slotKeys t n = slotKeys s n)
  -- R15, R17, R48: a line read from HBM whose code has no error: its tag is known, its data deciphered, its home line clean
  ∧ (∀ (s : State) (d0 d : DramLine) (pa : Nat) (key : BitVec 9), s.die.mem.wf = true → stored s pa key d0 →
      readCode false (decayed s d0) = some (d, false) →
      ∃ t, exec .mcLineRead s = .next t ∧ homeFind t (line s) = some ⟨line s, d.tag, false, false, none⟩
        ∧ lineData t (line s) = xtsLine true (slotDataKey s key.toNat) (slotTweakKey s key.toNat) (line s).toNat d.cipher
        ∧ ∀ a, a < (lineIa (line s)).toNat ∨ (lineIa (line s)).toNat + 64 ≤ a → t.die.mem.read a = s.die.mem.read a)
  -- R20: an uncorrectable line: an error record, an integrity event, SHARED ALL, and no byte of memory changes
  ∧ (∀ (s : State) (d0 : DramLine) (pa : Nat) (key : BitVec 9), stored s pa key d0 → readCode false (decayed s d0) = none →
      ∃ t, exec .mcLineRead s = .next t ∧ lineBad t (line s) = true ∧ tagState (homeTag t (line s)) = 3
        ∧ t.die.mem = s.die.mem ∧ t.die.coh.cohint = satInc s.die.coh.cohint
        ∧ ⟨.uncorrectable, pa / 64 * 64, lineIa (line s), s.arg.agent, if s.arg.k = 0 then .cache else .engine⟩ ∈ t.die.errors)
  -- R21: a whole line written at the controller becomes the line, and repairs one that was uncorrectable
  ∧ (∀ (s : State) (pa : Nat) (key : BitVec 9), s.die.mem.wf = true → isLocal s (lineIa (line s)) = true →
      (bufferFind s.die.xlate (iaOffset (lineIa (line s)))).isSome = true →
      s.die.xlate.hpEn = false → lineHeld s (line s) = false → physOf s (lineIa (line s)) = some (pa, false, key) →
      s.arg.mask = BitVec.allOnes 64 →
      ∃ t, exec .mcLineWrite s = .next t ∧ lineData t (line s) = s.arg.data
        ∧ (homeFind s (line s) = none → lineBad t (line s) = false ∧ (dramFind t (line s)).isSome = true)
        ∧ ∀ a, a < (lineIa (line s)).toNat ∨ (lineIa (line s)).toNat + 64 ≤ a → t.die.mem.read a = s.die.mem.read a)
  -- R21: a part of an uncorrectable line is discarded and recorded
  ∧ (∀ (s : State) (pa : Nat) (key : BitVec 9) (d0 : DramLine), isLocal s (lineIa (line s)) = true → s.die.xlate.hpEn = false →
      lineHeld s (line s) = false → physOf s (lineIa (line s)) = some (pa, false, key) → homeFind s (line s) = none →
      dramFind s (line s) = some d0 → readCode false d0 = none → s.arg.mask ≠ BitVec.allOnes 64 →
      exec .mcLineWrite s = .next (logError .writeDiscarded (pa / 64 * 64) (lineIa (line s)) s.arg.agent .none s))
  -- R21: FAST_FILL leaves no stored line in its range, wherever the row stands, and those that no L2 holds read as zero
  ∧ (∀ s : State, s.die.mem.wf = true →
      ∃ t, exec .fastFill s = .next t
        ∧ (∀ a ∈ storedIn s s.arg.b s.arg.n s.arg.m, dramGet t a s.arg.b = none)
        ∧ ∀ a ∈ storedIn s s.arg.b s.arg.n s.arg.m, ∀ d, dramGet s a s.arg.b = some d → homeFind s d.line = none →
            ∀ i, i < 64 → t.die.mem.read ((lineIa d.line).toNat + i) = 0)

/-- The base-die test of a bank: selection, the three commands and the steps they go through (R25 to R27). A row reads the same at
every moment of it. What a second park does to rows that an entry holds, and what clears REJ, are the model's choices, log entries
49 and 87. -/
def Obligations.ParkingSteps : Prop :=
  (∀ s : State, exec .bpctlSelect s = .next (s.upDie fun d => { d with bpSel := BitVec.ofNat 2 s.arg.n }))
  -- R25, R26: a test of an idle entry parks the bank; while BUSY a command is ignored; a clash is rejected
  ∧ (∀ s : State,
      let e := BitVec.ofNat 2 s.arg.n
      let pc : BitVec 9 := BitVec.ofNat 9 s.arg.k
      let bank : BitVec 4 := s.arg.x.setWidth 4
      let v := s.upDie fun d => { d with bpSel := e }
      let u := if s.arg.b then setPark e { parkOf v e with rej := false } v else v
      let p := parkOf u e
      let q := { p with pattern := BitVec.ofNat 3 s.arg.m, pc := pc, bank := bank }
      let starts := fun (c : BitVec 2) =>
        setPark e { q with cmd := c, busy := true, phase := 1, fail := false, failing := [], rows := 0 } u
      let again := fun (c : BitVec 2) => setPark e { q with cmd := c, busy := true, fail := false, failing := [] } u
      (p.busy = true → exec .parkTestUnpark s = .next u ∧ exec .parkTest s = .next u ∧ exec .unpark s = .next u)
      ∧ (p.busy = false → parkClash u e pc bank = true →
          exec .parkTestUnpark s = .next (setPark e { p with rej := true } u)
          ∧ exec .parkTest s = .next (setPark e { p with rej := true } u) ∧ exec .unpark s = .next (setPark e { p with rej := true } u))
      ∧ (p.busy = false → parkClash u e pc bank = false →
          ((p.phase ≠ 2 ∨ p.pc ≠ pc ∨ p.bank ≠ bank) →
            exec .parkTestUnpark s = .next (starts 1) ∧ exec .parkTest s = .next (starts 2))
          ∧ (p.phase = 2 → p.pc = pc → p.bank = bank →
            exec .parkTestUnpark s = .next (again 1) ∧ exec .parkTest s = .next (again 2))
          ∧ (p.phase ≠ 0 → (∀ r ∈ p.failing, r ∈ s.arg.nats) →
              exec .unpark s = .next (setPark e { q with cmd := 3, busy := true, phase := 3, failing := [], rows := 0 }
                (if p.phase = 2 then repairRows pc bank s.arg.nats u else u)))
          ∧ (p.phase ≠ 0 → (∃ r ∈ p.failing, r ∉ s.arg.nats) →
              ∃ t, exec .unpark s = .next t ∧ (parkOf t e).busy = false ∧ (parkOf t e).phase = p.phase
                ∧ ∀ r, r ∈ (parkOf t e).failing ↔ r ∈ p.failing ∧ r ∉ s.arg.nats)))
  -- R26: the phases follow one another; every row of the bank reads as before, in the entry or back in the bank
  ∧ (∀ s : State,
      let e := BitVec.ofNat 2 s.arg.n
      let p := parkOf s e
      let alone := fun (pa : Nat) => ∀ i : Fin 4, i ≠ e.toFin → (s.die.park.get i).takes pa = false
      (p.busy = true → p.phase = 1 → s.arg.m = 0 →
          ∃ t, exec .parkingComplete s = .next t ∧ (parkOf t e).phase = 2 ∧ (parkOf t e).busy = !lastingBank (repairRows p.pc p.bank s.arg.nats s) p.pc p.bank
            ∧ t.die.mem = s.die.mem
            ∧ ((∀ x ∈ p.lines, hbmRow x.1 < p.rows) → ∀ pa, alone pa → dramGet t pa false = dramGet s pa false))
      ∧ (p.busy = true → p.phase = 3 → s.arg.m = 0 →
          ∃ t, exec .unparkingComplete s = .next t ∧ (parkOf t e).phase = 0 ∧ (parkOf t e).busy = false ∧ t.die.mem = s.die.mem
            ∧ ∀ pa, alone pa → dramGet t pa false = dramGet s pa false)
      ∧ (p.busy = true → p.phase = 2 → s.arg.nats = [] →
          exec .marchComplete s = .next (setPark e
            (if p.cmd = 1 then { p with fail := false, failing := [], phase := 3, rows := 0 }
             else { p with fail := false, failing := [], busy := false }) s))
      ∧ (p.busy = true → p.phase = 2 → s.arg.nats ≠ [] →
          ∃ t, exec .marchComplete s = .next t ∧ (parkOf t e).fail = true ∧ (parkOf t e).busy = false
            ∧ (parkOf t e).failing = s.arg.nats ∧ t.die.errors.length = s.die.errors.length + s.arg.nats.length))

/-- The home translation: the walk, probes and their answers, changes of entries and the invalidations they wait for, migration
and the tracker's epochs (R35, R37, R38, R40 to R42). HTBASE's layout, the entry that gives way, the order of frames and the count
of acknowledgements are the model's choices, log entries 78, 79, 86 and 89. -/
def Obligations.TranslationSteps : Prop :=
  -- R35, R34: a page in the buffer is not walked; a leaf found enters the buffer, with RP set for another agent; a bad leaf is counted
  -- no entry that the walk reads needs a correction
  let clean : State → BitVec 46 → Prop := fun s off => ∀ pa ∈ walkReads s off 4 1 (tableRoot s), tableFix pa s = s
  (∀ s : State, (bufferFind s.die.xlate (iaOffset s.arg.ia)).isSome = true → exec .pageTableWalk s = .next s)
  ∧ (∀ s : State, bufferFind s.die.xlate (iaOffset s.arg.ia) = none → s.die.xlate.change = none → clean s (iaOffset s.arg.ia) →
      (∀ e pa, tableWalk s (iaOffset s.arg.ia) = .leaf e pa →
        (s.arg.b = false → ∃ t, exec .pageTableWalk s = .next t ∧ bufferFind t.die.xlate (iaOffset s.arg.ia) = some e
          ∧ t.die.mem = s.die.mem ∧ t.die.dram = s.die.dram)
        ∧ (s.arg.b = true → ∃ t e', exec .pageTableWalk s = .next t ∧ bufferFind t.die.xlate (iaOffset s.arg.ia) = some e'
          ∧ e'.getLsbD 44 = true ∧ ∀ i, i ≠ 44 → e'.getLsbD i = e.getLsbD i))
      ∧ (tableWalk s (iaOffset s.arg.ia) = .bad →
        exec .pageTableWalk s = .next (upXlate (fun x => { x with integrity := x.integrity + 1 }) s))
      ∧ (tableWalk s (iaOffset s.arg.ia) = .unmapped → exec .pageTableWalk s = .next s))
  -- R38: a probe of another agent of a page in the buffer with RP set is answered with the page's size and permissions
  ∧ (∀ (s : State) (e : W64), isLocal s s.arg.ia = true → changing s s.arg.ia = false → s.arg.agent ≠ s.core.agent →
      bufferFind s.die.xlate (iaOffset s.arg.ia) = some e → entOk e = true → e.getLsbD 44 = true →
      exec .homeProbe s = .next (s.send (.probeReply s.arg.agent s.arg.ia
        (.mapped (entSize e) (entRd e) (entWr e) (entEx e)) (inTier2 s s.arg.ia))))
  -- R38: an answer that a bundle of the core waits for is noted with the probe; where it grants what a data access needs of the page, it enters
  -- the presence filter
  ∧ (∀ (s : State) (size : BitVec 2) (rd wr ex : Bool), s.arg.b = false → s.arg.reply = .mapped size rd wr ex →
      (s.arg.ia, none) ∈ s.core.probes → s.core.awaits = [] → s.core.hints = [] →
      ∃ t, exec .probeAnswer s = .next t ∧ (s.arg.ia, some (.mapped size rd wr ex)) ∈ t.core.probes
        ∧ (s.core.needs = [] → t.core.filter = s.core.filter)
        ∧ ∀ need, s.core.needs = [(s.arg.ia, need)] →
            (permits need rd wr ex = true → filterFind t s.arg.ia = some ⟨pageBase s.arg.ia size, size, rd, wr, ex⟩)
            ∧ (permits need rd wr ex = false → t.core.filter = s.core.filter))
  -- R286: the answer to the check of a strong access
  ∧ (∀ s : State, s.arg.b = true →
      exec .probeAnswer s = .next (s.upCore fun c => { c with strong := c.strong.map fun q =>
        if q.1 == s.arg.ia && q.2.1 == s.arg.n && q.2.2.isNone then (q.1, q.2.1, some (s.arg.k == 1)) else q }))
  -- R37: a change starts: every core that may hold the page is told, and this one drops it at once where nothing uses it; one at a time
  ∧ (∀ s : State, s.die.xlate.change = none → s.core.hints = [] →
      let page : BitVec 30 := BitVec.ofNat 30 s.arg.m
      let size := BitVec.ofNat 2 s.arg.n
      let off : BitVec 46 := (page ++ 0#16 : BitVec (30 + 16))
      let d : DeferInv := ⟨(s.core.agent ++ off : BitVec (10 + 46)), size, false⟩
      let acks := changeAcks s (pageRp s off)
      (∃ t, exec .htChangePage s = .next t ∧ t.outbox = s.outbox ++ [.filterInv (pageRp s off) page size false]
        ∧ t.die.xlate.cmdSize = size ∧ t.die.xlate.cmdPage = page
        ∧ (pageInUse s d = true → t.core.deferInv = s.core.deferInv ++ [d] ∧ t.die.xlate.change = some ⟨false, size, page, acks⟩)
        ∧ (pageInUse s d = false → filterFind t d.ia = none
            ∧ (1 < acks → t.die.xlate.change = some ⟨false, size, page, acks - 1⟩)))
      ∧ ∃ t, exec .htChangeAll s = .next t ∧ t.outbox = s.outbox ++ [.filterInv true page size true]
        ∧ t.die.xlate.cmdSize = size ∧ t.die.xlate.cmdPage = page)
  ∧ (∀ s : State, s.die.xlate.change.isSome = true →
      exec .htChangePage s = .next s ∧ exec .htChangeAll s = .next s)
  ∧ (∀ s : State, (readHtcmd s).getLsbD 63 = s.die.xlate.change.isSome ∧ (readHtcmd s).extractLsb' 58 2 = s.die.xlate.cmdSize
      ∧ (readHtcmd s).extractLsb' 16 30 = s.die.xlate.cmdPage)
  -- R37: an acknowledgement is counted, and with the last one the old entries go, the new one is read, and the change is over
  ∧ (∀ (s : State) (c : HtChange), s.die.xlate.change = some c →
      (1 < c.waitAcks →
        exec .filterInvAck s = .next (upXlate (fun x => { x with change := some { c with waitAcks := c.waitAcks - 1 } }) s))
      ∧ (c.waitAcks = 1 → c.all = true → exec .filterInvAck s = .next (upXlate (fun x => { x with change := none, buffer := [] }) s))
      ∧ (c.waitAcks = 1 → c.all = false → clean s (c.page ++ 0#16 : BitVec (30 + 16)) → ∃ t, exec .filterInvAck s = .next t ∧ t.die.xlate.change = none
          ∧ ∀ e, (c.page, e) ∈ t.die.xlate.buffer → entSize e = c.size →
              ∃ pa, tableWalk s (c.page ++ 0#16 : BitVec (30 + 16)) = .leaf e pa))
  -- R40: an invalidation is answered where no access or copy uses the page, and waits otherwise
  ∧ (∀ s : State,
      let d : DeferInv := ⟨s.arg.ia, BitVec.ofNat 2 s.arg.n, s.arg.b⟩
      (pageInUse s d = true →
        exec .filterInvalidate s = .next (s.upCore fun c => { c with deferInv := c.deferInv ++ [d] }))
      ∧ (pageInUse s d = false → isLocal s s.arg.ia = false → s.core.hints = [] → ∃ t, exec .filterInvalidate s = .next t
          ∧ filterFind t s.arg.ia = none ∧ t.outbox = s.outbox ++ [.filterAck s.arg.ia]))
  ∧ (∀ (s : State) (d : DeferInv), s.core.deferInv = [d] →
      (pageInUse s d = true → exec .filterAckWhenFree s = .next s)
      ∧ (pageInUse s d = false → isLocal s d.ia = false → s.core.hints = [] → ∃ t, exec .filterAckWhenFree s = .next t
          ∧ t.core.deferInv = [] ∧ filterFind t d.ia = none ∧ t.outbox = s.outbox ++ [.filterAck d.ia]))
  -- R41, R22: a page that may move is found in its new frame once all its lines are copied; a pinned or locked one stays
  ∧ (∀ (s : State) (e : W64), isLocal s s.arg.ia = true → bufferFind s.die.xlate (iaOffset s.arg.ia) = some e → entOk e = true →
      s.die.xlate.migration = none → s.arg.k ≠ 1 →
      (entPinw e = false → entMlock e = false → s.arg.b = false → s.arg.m = 0 →
        entOk (withFrame e false (BitVec.ofNat 24 s.arg.n)) = true →
        ∃ t, exec .migration s = .next t ∧ t.die.xlate.migration = none
          ∧ physOf t s.arg.ia = some ((BitVec.ofNat 24 s.arg.n).toNat * 2 ^ 16 + (iaOffset s.arg.ia).toNat % pageBytes (entSize e),
              false, entKey e))
      ∧ ((entPinw e || entMlock e) = true → exec .migration s = .next s))
  -- R42: at the end of an epoch every count halves
  ∧ (∀ s : State, s.die.xlate.hpSince + 2 ^ s.die.xlate.hpEpoch.toNat ≤ s.cycle →
      exec .hotPageEpoch s = .next (upXlate (fun x => { x with hpSince := s.cycle, hpTable := x.hpTable.map fun p => (p.1, p.2 / 2) }) s))

/-- Requests of other agents and of this die's own caches at the home of a line (R52 to R58, R62, R406). How a read of a line held
exclusively is forwarded is log entry 85. -/
def Obligations.HomeRequestSteps : Prop :=
  -- R54 to R56: requests admitted for a line that no agent holds: the Data, and the tag that the line ends with
  (∀ s : State, s.die.mem.wf = true → Admitted s s.arg.coh → homeTag s s.arg.coh.line = 0 →
    let m := s.arg.coh
    let line := lineData s m.line
    (∃ t, exec .readShared s = .next t ∧ homeTag t m.line = mkTag m.req.toNat 1 ∧ t.die.mem = s.die.mem
      ∧ t.outbox = s.outbox ++ [doneMsg s m false (some line)])
    ∧ (∃ t, exec .readOwn s = .next t ∧ homeTag t m.line = mkTag m.req.toNat 4 ∧ t.die.mem = s.die.mem
      ∧ t.outbox = s.outbox ++ [doneMsg s m false (some line)])
    ∧ (∃ t, exec .readSharedUnc s = .next t ∧ homeTag t m.line = 0 ∧ t.die.mem = s.die.mem
      ∧ t.outbox = s.outbox ++ [doneMsg s m true (some line)])
    ∧ (∃ t, exec .readOwnUnc s = .next t ∧ homeTag t m.line = 0
      ∧ lineData t m.line = mergeLine line (m.data.getD 0) s.arg.mask
      ∧ t.outbox = s.outbox ++ [doneMsg s m true none])
    ∧ (s.arg.b = false → s.arg.n = 0 → s.arg.m = 8 → s.arg.k = 0 →
        ∃ t, exec .readOwnAtom s = .next t ∧ homeTag t m.line = 0
          ∧ t.die.mem.readNum (lineIa m.line).toNat 8 = (s.die.mem.readNum (lineIa m.line).toNat 8 + s.arg.x.toNat) % 2 ^ 64
          ∧ t.outbox = s.outbox ++ [doneMsg s m false (some (BitVec.ofNat 512 (s.die.mem.readNum (lineIa m.line).toNat 8)))]))
  -- R55: an Upgrade of the one agent that shares the line carries no data
  ∧ (∀ s : State, Admitted s s.arg.coh → homeTag s s.arg.coh.line = mkTag s.arg.coh.req.toNat 1 →
      ∃ t, exec .upgrade s = .next t ∧ homeTag t s.arg.coh.line = mkTag s.arg.coh.req.toNat 4 ∧ t.die.mem = s.die.mem
        ∧ t.outbox = s.outbox ++ [doneMsg s s.arg.coh false none])
  -- R54: a read of a line held EXCLUSIVE by another agent is forwarded to its holder, and stays in progress
  ∧ (∀ (s : State) (who : BitVec 10), Admitted s s.arg.coh → homeTag s s.arg.coh.line = mkTag who.toNat 4 → who ≠ s.arg.coh.req →
      ∃ t, exec .readShared s = .next t ∧ lineBusy t s.arg.coh.line = true ∧ t.die.mem = s.die.mem
        ∧ t.outbox = s.outbox ++ [.coh .forward who { cohMsg s s.arg.coh.line with
            req := s.arg.coh.req, txn := s.arg.coh.txn, share := true } 0 0 none])
  -- R52: with tickets outstanding a new request is refused with the next ticket
  ∧ (∀ s : State, isLocal s (lineIa s.arg.coh.line) = true → s.arg.coh.src ≠ s.core.agent → s.arg.coh.ticket = none →
      (bufferFind s.die.xlate (iaOffset (lineIa s.arg.coh.line))).isSome = true →
      let k := slice48 (homeSlice (lineIa s.arg.coh.line))
      s.die.coh.next.get k ≠ s.die.coh.serve.get k →
      exec .readShared s = .next
        ((upCoh (fun c => { c with next := c.next.set k (s.die.coh.next.get k + 1) }) s).send
          (.coh .error s.arg.coh.req { cohMsg s s.arg.coh.line with
            req := s.arg.coh.req, txn := s.arg.coh.txn, ticket := some (s.die.coh.next.get k) } 2 0 none)))
  -- R286: the check of a strong access: one that passes is recorded at the home, one that clashes is not, and the asker is told
  ∧ (∀ s : State, s.arg.b = true →
      let ia := (lineIa s.arg.coh.line).toNat + s.arg.k
      let l := lineOf (BitVec.ofNat 56 ia)
      let who := coreKey s.arg.coh.src (BitVec.ofNat 8 s.arg.n)
      let told := fun (ok : Bool) => OutMsg.strongReply s.arg.coh.src (BitVec.ofNat 56 ia) s.arg.m (BitVec.ofNat 8 s.arg.n) ok
      isLocal s (BitVec.ofNat 56 ia) = true →
      (mixedWith s who ia s.arg.m = false → (homeFind s l).isSome = true → exec .readOwnAtom s = .next
        ((upHome l (fun h => { h with mixed := some (ia % 64, s.arg.m, who) }) s).send (told true)))
      ∧ (mixedWith s who ia s.arg.m = true → exec .readOwnAtom s = .next (s.send (told false))))
  -- R56: a WriteBack of the holder returns the line
  ∧ (∀ (s : State) (d : LineData), s.die.mem.wf = true → Quiet s → isLocal s (lineIa s.arg.coh.line) = true → lineBusy s s.arg.coh.line = false →
      homeTag s s.arg.coh.line = mkTag s.arg.coh.src.toNat 4 → s.arg.coh.dirty = true → s.arg.coh.data = some d →
      ∃ t, exec .writeBack s = .next t ∧ homeTag t s.arg.coh.line = 0 ∧ lineData t s.arg.coh.line = d
        ∧ t.outbox = s.outbox ++ [.coh .data s.arg.coh.src { cohMsg s s.arg.coh.line with
            req := s.arg.coh.src, txn := s.arg.coh.txn, done := true } 0 0 none])
  -- R52, R53: an InvAck that is not the last is counted; one that nothing waits for is an integrity event
  ∧ (∀ (s : State) (x : Txn), Quiet s → isLocal s (lineIa s.arg.coh.line) = true → s.die.coh.txns = [x] →
      x.line = s.arg.coh.line → x.fwdTo ≠ some s.arg.coh.src →
      (s.arg.coh.src ∈ x.ackFrom → 1 < x.acks → exec .invAck s = .next (upCoh (fun c => { c with
        txns := [{ x with acks := x.acks - 1, ackFrom := x.ackFrom.erase s.arg.coh.src }] }) s))
      ∧ (s.arg.coh.src ∉ x.ackFrom → exec .invAck s = .next (countInt s)))
  -- R56: this die's own caches get a line that no agent holds, and one that is shared once every copy is gone
  ∧ (∀ s : State, Quiet s → CleanHome s s.arg.line → s.die.coh.txns = [] → s.die.coh.waiting = [] →
      homeTag s s.arg.line = mkTag 3 1 → s.core.agent ≠ 3 →
      (s.arg.k = 0 → exec .homeDieRead s = .next s)
      ∧ (chanFull s s.arg.n 1 = false → ∃ t, exec .homeDieExclusive s = .next t ∧ lineBusy t s.arg.line = true
        ∧ t.outbox = s.outbox ++ [.coh .invalidate 3 { cohMsg s s.arg.line with req := s.core.agent } 0 0 none]))
  ∧ (∀ s : State, Quiet s → CleanHome s s.arg.line → s.die.coh.txns = [] → s.die.coh.waiting = [] →
      homeTag s s.arg.line = mkTag 3 4 → s.core.agent ≠ 3 → s.arg.b = false → chanFull s s.arg.m 1 = false →
      ∃ t, exec .homeDieRead s = .next t ∧ lineBusy t s.arg.line = true
        ∧ t.outbox = s.outbox ++ [.coh .forward 3 { cohMsg s s.arg.line with req := s.core.agent, share := true } 0 0 none])
  -- R52: a waiting request whose line is free starts
  ∧ (∀ (s : State) (x : Txn), Quiet s → isLocal s (lineIa x.line) = true → lineBusy s x.line = false → dramOnly s x.line = false →
      wayBarred s x.line = false → s.die.coh.waiting = [x] → s.arg.line = x.line → x.src ≠ s.core.agent → s.arg.b = false →
      homeEntry s (iaOffset (lineIa x.line)) = none →
      let started := (upCoh (fun c => { c with waiting := [] }) s).send
        (.coh .error x.req { cohMsg s x.line with req := x.req, txn := x.txn, ticket := x.ticket } 3 0 none)
      exec .waitingRequestServe s = .next started
      ∧ (setFull s x.line = false → exec .wayFreeWait s = .next started))
  -- R52 to R54: a read of another agent that has waited for a line which no agent holds starts and ends: it is in its entry no longer, its
  -- agent gets the line, and the tag names it; one whose line another transaction holds waits on
  ∧ (∀ (s : State) (x : Txn), Quiet s → isLocal s (lineIa x.line) = true → dramOnly s x.line = false → lineBad s x.line = false →
      wayBarred s x.line = false → s.die.xlate.migration = none →
      (∃ e, bufferFind s.die.xlate (iaOffset (lineIa x.line)) = some e ∧ entOk e = true ∧ entTier e = false) →
      s.die.coh.waiting = [x] → s.arg.line = x.line → x.src ≠ s.core.agent → x.kind = .readShared →
      (lineBusy s x.line = true → exec .waitingRequestServe s = .next s)
      ∧ (lineBusy s x.line = false → homeTag s x.line = 0 →
          ∃ t, exec .waitingRequestServe s = .next t ∧ t.die.coh.waiting = [] ∧ t.die.coh.txns = s.die.coh.txns
            ∧ homeTag t x.line = mkTag x.req.toNat 1 ∧ t.die.mem = s.die.mem
            ∧ t.outbox = s.outbox ++ [doneMsg s { cohMsg s x.line with req := x.req, txn := x.txn } false (some (lineData s x.line))]))
  -- R62: where every line of a full set is barred nothing happens; else the line that the set's tree points at makes way
  ∧ (∀ s : State, Quiet s → s.arg.b = false → wayBarred s s.arg.line = true → exec .wayFreeWait s = .next s)
  ∧ (∀ (s : State) (v : BitVec 50), Quiet s → s.arg.b = false → s.die.coh.waiting = [] → setFull s s.arg.line = true → victim s s.arg.line = some v →
      isLocal s (lineIa v) = true → (homeFind s v).isSome = true → (physOf s (lineIa v)).isSome = true →
      barred s v = false ∧ ∃ t, exec .wayFreeWait s = .next t ∧ homeFind t v = none ∧ t.die.mem = s.die.mem)
  -- R48: the home slice evicts a line to HBM, where it is found again with its data and tag under the key of its page
  ∧ (∀ (s : State) (h : HomeLine) (pa : Nat) (key : BitVec 9), isLocal s (lineIa s.arg.line) = true →
      physOf s (lineIa s.arg.line) = some (pa, false, key) → lineHeld s s.arg.line = false → barred s s.arg.line = false →
      homeFind s s.arg.line = some h → (bufferFind s.die.xlate (iaOffset (lineIa s.arg.line))).isSome = true →
      s.die.xlate.hpEn = false →
      ∃ t, exec .homeSliceEviction s = .next t ∧ homeFind t s.arg.line = none ∧ t.die.mem = s.die.mem
        ∧ dramFind t s.arg.line = some { codeLineOf false
            (xtsLine false (slotDataKey s key.toNat) (slotTweakKey s key.toNat) s.arg.line.toNat (lineData s s.arg.line)) h.tag with
            line := s.arg.line })
  -- R52: the ticket that is not presented within 65,536 cycles is passed over and counted
  ∧ (∀ s : State,
      let k := slice48 s.arg.n
      (s.die.coh.next.get k ≠ s.die.coh.serve.get k → s.die.coh.serveSince.get k + 65536 ≤ s.cycle →
        exec .ticketSkip s = .next (upCoh (fun c => { c with
          serve := c.serve.set k (s.die.coh.serve.get k + 1), serveSince := c.serveSince.set k s.cycle
          cohtkt := satInc c.cohtkt }) s))
      ∧ (s.die.coh.next.get k = s.die.coh.serve.get k → exec .ticketSkip s = .next s))

/-- The local slice: messages from homes, requests to them, lines given up, and the fills of code lines (R20, R47, R52, R53, R57,
R58, R64, R65). That an engine's masked write without room waits in a list is the model's choice, log entry 90. -/
def Obligations.HolderSteps : Prop :=
  -- R57: a Forward to the holder of a modified line: the data to the requester, an InvAck to the home
  (∀ s : State,
    let m := s.arg.coh
    let give : OutMsg := .coh .data m.req { cohMsg s m.line with
      req := m.req, txn := m.txn, fwd := true, data := some (lineData s m.line) } 0 0 none
    let ack := fun (dirty nocopy : Bool) => OutMsg.coh .invAck m.src { cohMsg s m.line with
      req := m.req, txn := m.txn, dirty := dirty, nocopy := nocopy } 0 0 none
    isLocal s (lineIa m.line) = false → requestOf s m.line = none → m.unc = false →
    (localState s m.line = some .modified → m.share = true →
      ∃ t, exec .forward s = .next t ∧ localState t m.line = some .owned ∧ t.outbox = s.outbox ++ [give, ack true false])
    ∧ (localState s m.line = some .modified → m.share = false →
      ∃ t, exec .forward s = .next t ∧ localState t m.line = none ∧ t.outbox = s.outbox ++ [give, ack false false])
    ∧ (localState s m.line = some .exclusive → m.share = true →
      ∃ t, exec .forward s = .next t ∧ localState t m.line = some .shared ∧ t.outbox = s.outbox ++ [give, ack false false])
    ∧ (localState s m.line = none → exec .forward s = .next (s.send (ack false true))))
  -- R57, R273: an Invalidate takes a shared line away, with the copy in the L1
  ∧ (∀ s : State,
      let m := s.arg.coh
      isLocal s (lineIa m.line) = false → localState s m.line = some .shared →
      ∃ t, exec .invalidate s = .next t ∧ localState t m.line = none ∧ (∀ x ∈ t.core.l1, x.1 ≠ m.line)
        ∧ ((∃ x ∈ s.core.l1, x.1 = m.line) → t.core.latch = true)
        ∧ t.outbox = s.outbox ++ [.coh .invAck m.src { cohMsg s m.line with req := m.req, txn := m.txn } 0 0 none])
  -- R53, R57: the Data with DONE that ends a read or a read to own
  ∧ (∀ (s : State) (x : Txn) (d : LineData), s.die.mem.wf = true → Quiet s → isLocal s (lineIa s.arg.coh.line) = false → s.die.coh.requests = [x] →
      s.die.coh.heldFwds = [] → x.line = s.arg.coh.line → x.txn = s.arg.coh.txn → x.inval = false → s.arg.coh.unc = false → s.arg.b = false →
      s.arg.coh.done = true → s.arg.coh.data = some d →
      (x.kind = .readShared → ∃ t, exec .data s = .next t ∧ t.die.coh.requests = []
        ∧ localState t s.arg.coh.line = some .shared ∧ lineData t s.arg.coh.line = d)
      ∧ (x.kind = .readOwn → ∃ t, exec .data s = .next t ∧ t.die.coh.requests = []
        ∧ localState t s.arg.coh.line = some .modified ∧ lineData t s.arg.coh.line = d))
  -- R53, R61: Data that no transaction awaits is an integrity event
  ∧ (∀ s : State, Quiet s → isLocal s (lineIa s.arg.coh.line) = false → s.die.coh.requests = [] → s.die.coh.lateFwds = [] →
      s.arg.b = false → exec .data s = .next (countInt s))
  -- R52: an Error with a ticket: the request is to be sent again after 128 cycles, and is
  ∧ (∀ (s : State) (x : Txn) (tk : BitVec 16), Quiet s → s.arg.b = false → s.arg.n = 2 → s.die.coh.requests = [x] →
      x.line = s.arg.coh.line → x.txn = s.arg.coh.txn → s.arg.coh.ticket = some tk →
      exec .error s = .next (upCoh (fun c => { c with
        requests := [{ x with ticket := some tk }], resends := c.resends ++ [⟨s.arg.coh.line, tk, s.cycle + 128⟩] }) s))
  ∧ (∀ (s : State) (x : Txn) (r : Resend), s.arg.b = false → s.die.coh.requests = [x] → s.die.coh.resends = [r] →
      r.line = s.arg.line → x.line = s.arg.line →
      (r.due ≤ s.cycle → exec .requestResend s = .next (sendRequest x (upCoh (fun c => { c with resends := [] }) s)))
      ∧ (s.cycle < r.due → exec .requestResend s = .next s))
  -- R49: a masked write of an engine that waited for room goes to its home
  ∧ (∀ (s : State) (x : Txn), s.arg.b = true → s.die.coh.requests = [] → s.die.coh.later = [x] → isLocal s (lineIa x.line) = false →
      x.eng = true → x.acc.isSome = true → configured s (iaAgent (lineIa x.line)) = true → chanFull s x.chan 1 = false →
      ∃ t y, exec .requestResend s = .next t ∧ t.die.coh.later = [] ∧ t.die.coh.requests = [y] ∧ y.line = x.line ∧ y.kind = x.kind
        ∧ y.data = x.data ∧ y.mask = x.mask)
  -- R20, R198: the load that an Error of an uncorrectable line answers: MEM_ERROR pends, and it waits no longer
  ∧ (∀ (s : State) (x : Txn) (g : GAcc) (a : Await), s.arg.b = false → s.arg.n = 1 → s.die.coh.requests = [x] → x.line = s.arg.coh.line →
      x.txn = s.arg.coh.txn → x.kind = .readShared → x.eng = false → s.core.prefs = [] → s.core.hints = [] → s.core.accs = [g] →
      g.op = .load a.id → g.rel = false → s.core.awaits = [a] → g.line = s.arg.coh.line → s.core.asyncs.memErr = [] →
      ∃ t, exec .error s = .next t ∧ t.core.accs = [] ∧ t.core.awaits = [] ∧ t.core.regs = s.core.regs
        ∧ t.core.asyncs.memErr = [⟨a.va, BitVec.ofNat 12 (2 ^ a.slot), a.iaddr, 1⟩] ∧ t.core.latch = true)
  -- R57: requests for lines of other homes
  ∧ (∀ s : State, isLocal s (lineIa s.arg.line) = false → localState s s.arg.line = none → s.die.coh.requests = [] →
      s.die.coh.later = [] → farTier2 s (lineIa s.arg.line) = false → setFull s s.arg.line = false →
      configured s (iaAgent (lineIa s.arg.line)) = true → s.die.coh.lateFwds = [] → chanFull s s.arg.n 1 = false →
      let asks := fun (k : ReqKind) (eng : Bool) (chan : Nat) => { txnOf k (cohMsg s s.arg.line) with
        txn := 0, eng := eng, chan := chan, acc := if eng then some s.core.accSeq else none }
      let after := fun (t : Txn) => (upCoh (fun c => { c with requests := [t] }) s).send
        (.coh t.kind.op (iaAgent (lineIa s.arg.line)) { cohMsg s s.arg.line with unc := t.kind == .readUnc } 0 0 none)
      (s.arg.b = false → exec .localSliceRead s = .next (after (asks .readShared false 0)))
      ∧ (s.arg.b = true → exec .localSliceRead s = .next (after (asks .readUnc (s.arg.k != 1) s.arg.n)))
      ∧ (Quiet s → exec .localSliceWrite s = .next (after (asks .readOwn false 0)))
      ∧ exec .localSliceEviction s = .next s)
  ∧ (∀ s : State, Quiet s → localState s s.arg.line = some .exclusive → farTier2 s (lineIa s.arg.line) = false →
      ∃ t, exec .localSliceWrite s = .next t ∧ localState t s.arg.line = some .modified ∧ t.outbox = s.outbox)
  -- R57: a modified line is given up with a WriteBack of its data; a line of an armed flag stays
  ∧ (∀ s : State, isLocal s (lineIa s.arg.line) = false → localState s s.arg.line = some .modified → s.die.coh.requests = [] →
      s.die.coh.later = [] → s.die.coh.lateFwds = [] → configured s (iaAgent (lineIa s.arg.line)) = true →
      (armedLine s s.arg.line = true → exec .localSliceEviction s = .next s)
      ∧ (armedLine s s.arg.line = false → ∃ t, exec .localSliceEviction s = .next t ∧ localState t s.arg.line = none
          ∧ t.outbox = s.outbox ++ [.coh .writeBack (iaAgent (lineIa s.arg.line)) { cohMsg s s.arg.line with
              dirty := true, data := some (lineData s s.arg.line) } 0 0 none]))
  -- R65, R66: a code line of the L2 that its checks pass is verified, after its tag's page has been asked for; R64: a verified line of the L2
  -- enters the instruction cache
  ∧ (∀ s : State,
      let c := BitVec.ofNat 49 s.arg.n
      let checked := codeLine s (BitVec.ofNat 56 (c.toNat * 128))
      (checked = .got () → codeHeld s c = true → ∃ t, exec .codeLineFill s = .next t ∧ c ∈ t.die.coh.verified)
      ∧ (checked = .got () → codeHeld s c = false → exec .codeLineFill s = .next s)
      ∧ (∀ ia, checked = .probe ia → exec .codeLineFill s = .next (askTagPage ia s))
      ∧ (checked ≠ .got () → (∀ ia, checked ≠ .probe ia) → exec .codeLineFill s = .next s))
  ∧ (∀ s : State,
      let c := BitVec.ofNat 49 s.arg.n
      (c ∈ s.die.coh.verified → codeHeld s c = true → ∃ t, exec .icacheFill s = .next t ∧ c ∈ t.core.icache
        ∧ ∀ x ∈ t.core.icache, x ≠ c → x ∈ s.core.icache)
      ∧ ((c ∉ s.die.coh.verified ∨ codeHeld s c = false) → exec .icacheFill s = .next s))

/-- Granules, messages, released records, and the matrix unit (R72, R75, R76, R93, R184, R245, R382). Which place of an area a
spilled message takes is log entry 91. -/
def Obligations.CoreEngineSteps : Prop :=
  -- R72: the regions that no work uses any more are cleared as wholes; a cleared granule reads as zero and is free
  (∀ s : State, s.arg.b = false → ∃ t, exec .regionRelease s = .next t ∧ t.core.spad = s.core.spad
    ∧ (∀ r ∈ releasable s, ∀ g ∈ r, granuleUsed s g = false)
    ∧ (∀ r, r ∈ t.core.freeing ↔ r ∈ s.core.freeing ∧ r ∉ releasable s)
    ∧ ∀ g, g < 64 → t.core.granules.getD g .held =
        if g ∈ (releasable s).flatten then .clearing else s.core.granules.getD g .held)
  ∧ (∀ s : State, s.arg.n < 60 → s.core.granules.getD s.arg.n .held = .clearing → s.core.spad.wf = true →
      ∃ t, exec .granuleClearDone s = .next t ∧ t.core.granules.getD s.arg.n .held = .free
        ∧ ∀ a, t.core.spad.read a = if s.arg.n * 2 ^ 16 ≤ a ∧ a < (s.arg.n + 1) * 2 ^ 16 then 0 else s.core.spad.read a)
  ∧ (∀ s : State, s.core.granules.getD s.arg.n .held ≠ .clearing → exec .granuleClearDone s = .next s)
  -- R73, R75, R308: a message for the running gang member enters the mailbox while it has room there and nothing is spilled
  ∧ (∀ (s : State) (x : TaskInfo), s.core.task = some x → x.gang = true → x.rank = BitVec.ofNat 16 s.arg.n →
      x.domain = s.arg.msg.gang → overflowHas s s.arg.msg.gang (BitVec.ofNat 16 s.arg.n) = false →
      (s.core.spill = [] → s.core.mbox.length < 16 → s.core.spillMove = none →
        exec .mailboxDelivery s = .next (s.upCore fun c => { c with mbox := c.mbox ++ [s.arg.msg], latch := true }))
      ∧ (80 ≤ s.core.mbox.length + s.core.spill.length →
        exec .mailboxDelivery s = .next (raiseAsync (fun a => { a with mailbox := true }) s)))
  -- R74, R75: the oldest message of a gang member goes once the accesses before it are performed, if its receiver has a place
  ∧ (∀ (s : State) (o : OutMail) (rest : List OutMail), s.core.outMail = o :: rest →
      ((∃ g ∈ s.core.accs, g.seq ≤ o.seq) → exec .messageAccept s = .next s)
      ∧ (o.gang = true → o.dst ≠ myRank s → s.arg.k = 0 → (∀ g ∈ s.core.accs, o.seq < g.seq) → engWritesOut s (o.seq + 1) = false →
        exec .messageAccept s = .next (if s.arg.b then s.upCore fun c => { c with outFull := true }
          else (s.upCore fun c => { c with outMail := rest, outFull := false }).send (.message o.dst o.msg))))
  -- R76: data of the gang for a posted buffer: the oldest with its tag and source takes it, signals and retires; longer data is refused
  ∧ (∀ (s : State) (b : PostedBuf), bufFor s (BitVec.ofNat 16 s.arg.n) (BitVec.ofNat 16 s.arg.m) = some b → amGang s = true →
      myDomain s = s.arg.x.setWidth 16 →
      (s.arg.bytes.length ≤ b.len.toNat → ∃ t, exec .postedBufferFill s = .next t ∧ t.core.posted = s.core.posted.erase b
        ∧ t.core.latch = true
        ∧ (t.core.sem.get b.sem.toFin).toNat = min 0xFFFF ((s.core.sem.get b.sem.toFin).toNat + b.inc.toNat)
        ∧ (∀ k : BitVec 8, k ≠ b.sem → t.core.sem.get k.toFin = s.core.sem.get k.toFin)
        ∧ t.core.spad = spadPut s.core.spad (fun a => if a.toNat < 2 ^ 22 then spadMap s.core.sys.spw a.toNat else none)
            (b.addr.setWidth 64) s.arg.bytes)
      ∧ (b.len.toNat < s.arg.bytes.length → exec .postedBufferFill s = .next s))
  -- R184: a record can be taken once its spawner's earlier accesses are performed; so it is with the records of the overflow area
  ∧ (∀ s : State, s.arg.b = false → ∃ t, exec .spawnRelease s = .next t
      ∧ t.core.deque = s.core.deque.map (fun d => { d with released := releasedNow s d })
      ∧ t.core.dequeOvf = s.core.dequeOvf.map (fun o => { o with released := releasedNow s (ovfRec s o) })
      ∧ t.core.regs = s.core.regs ∧ t.core.spad = s.core.spad)
  -- R185, R380: another core steals the oldest record of this core's deque that is released, of a core that is not offline
  ∧ (∀ (s : State) (d : DequeRec) (rest : List DequeRec), s.arg.b = true → s.arg.m = 3 → s.core.deque = d :: rest →
      exec .spawnRelease s = .next (if s.core.offline = false ∧ releasedNow s d = true
        then (s.upCore fun c => { c with deque := rest }).send (.spawnOut (BitVec.ofNat 8 s.arg.n) d.record) else s))
  -- R244, R245, R382: the head of the queue starts in an idle unit whose array is awake, and occupies it for its cycles
  ∧ (∀ (s : State) (e : MxEntry) (es : List MxEntry), s.core.mxRun = none → s.core.mxQueue = e :: es →
      (BitVec.ofNat 9 (packageCore s) ∉ s.die.boot.gated →
        exec .matrixStart s = .next (s.upCore fun c => { c with mxRun := some e, mxQueue := es, mxLeft := mxCycles e.op }))
      ∧ (BitVec.ofNat 9 (packageCore s) ∈ s.die.boot.gated → exec .matrixStart s = .next s))
  ∧ (∀ s : State, s.core.mxLeft ≠ 0 → exec .matrixComplete s = .next s)
  -- R245: an MMA.Z that completes leaves every element of its bank zero and the bank not live; another bank stays
  ∧ (∀ (s : State) (e : MxEntry), s.core.mxRun = some e → s.core.mxLeft = 0 → e.op = .zero false → e.live = true →
      ∃ t, exec .matrixComplete s = .next t ∧ t.core.mxRun = none ∧ t.core.regs.acc0 = Vector.replicate 128 0
        ∧ t.core.regs.acc1 = s.core.regs.acc1 ∧ t.core.sys.mxlive.getLsbD 0 = false
        ∧ t.core.spad = s.core.spad ∧ t.die.boot.arraySince = s.cycle)
  -- R93: what is left of an ended task changes no accumulator
  ∧ (∀ (s : State) (e : MxEntry), s.core.mxRun = some e → s.core.mxLeft = 0 → e.live = false →
      ∃ t, exec .matrixComplete s = .next t
        ∧ t.core.mxRun = none ∧ t.core.regs = s.core.regs ∧ t.core.sys = s.core.sys)

/-- The commands of a copy channel between issue and completion (R78, R82, R86 to R92, R97, R100). -/
def Obligations.CopySteps : Prop :=
  ∀ (s : State) (c : Cmd) (rest : List Cmd),
    let k := BitVec.ofNat 2 s.arg.n
    s.arg.n < 4 → (chOf s k).queue = c :: rest → (chOf s k).stop = none →
    -- R87: a command waits for its semaphore
    (c.checked = false → c.started = false → c.record = none → extMet s c.ext = false → layoutBad c = false →
      exec .copyCommandStart s = .next (startWaits s) ∧ (chOf (startWaits s) k).queue = c :: rest)
    -- R90: a malformed layout stops its channel with subcause 4 at the head, its wait met or not, and so does a malformed operand
    -- once the command has started; COPY_FAULT pends
    ∧ (c.checked = false → c.isChain = false → c.live = true →
        (layoutBad c = true ∨ (c.started = true ∧ operandBad c = true)) →
      ∃ t, exec .copyCommandStart s = .next t ∧ (chOf t k).stop = some 4
        ∧ (chOf t k).queue = startQueue (extMet s) (c :: rest)
        ∧ t.core.asyncs.copyFault = true ∧ t.core.latch = true ∧ t.die.mem = s.die.mem ∧ t.core.spad = s.core.spad)
    -- R78, R88: a message whose wait is met starts, one that acquires once what was issued before it is performed
    ∧ (c.checked = false → c.record = none → extMet s c.ext = true → c.isMsg = true → (layoutBad c || operandBad c) = false →
      (!c.ord.getLsbD 0 || copyOrdered s c c.ord) = true →
      ∃ t, exec .copyCommandStart s = .next t
        ∧ (chOf t k).queue = { c with started := true, checked := true, asked := false } :: startQueue (extMet s) rest
        ∧ t.die.mem = s.die.mem ∧ t.core.spad = s.core.spad)
    -- R82, R86: a piece of a CPYIN lands in the scratchpad, of a CPYOUT in global memory; one that is not ready does not
    ∧ (s.arg.m = 0 → s.arg.b = false → engBad s (pieceReads c s.arg.k) = false → pieceReady s [] c s.arg.k = true →
        (c.isIn = true → ∃ t, exec .copyChunkLanded s = .next t
          ∧ (chOf t k).queue = { keepUnits s s.arg.k c with landed := s.arg.k :: c.landed } :: rest ∧ t.die.mem = s.die.mem
          ∧ t.core.spad = (cmdSpadWrite c (inBytes s c s.arg.k) s).core.spad)
        ∧ (c.isOut = true → ∃ t, exec .copyChunkLanded s = .next t
          ∧ (chOf t k).queue = { keepUnits s s.arg.k c with landed := s.arg.k :: c.landed } :: rest ∧ t.core.spad = s.core.spad
          ∧ t.die.mem = (engWrite (chanNo c) (outBytes s c s.arg.k) s).die.mem))
    ∧ (s.arg.m = 0 → c.isMsg = false → pieceReady s [] c s.arg.k = false → exec .copyChunkLanded s = .next s)
    -- R20, R90: an uncorrectable read stops the channel with subcause 7; one of a page that is not mapped with subcause 1
    ∧ (s.arg.m = 0 → c.isMsg = false → c.isState = false → c.live = true → engBad s (pieceReads c s.arg.k) = true →
        pieceReady s [] c s.arg.k = true →
        ∃ t, exec .copyChunkLanded s = .next t ∧ (chOf t k).queue = c :: rest
          ∧ ((chOf t k).stop = if ∃ l ∈ linesOf (pieceReads c s.arg.k), lineBad s l = true ∧ badInfo s l = 2 then some 1 else some 7)
          ∧ t.core.asyncs.copyFault = true ∧ t.core.spad = s.core.spad)
    -- R87, R93: the head completes once every piece has landed: it leaves the queue and signals, and what waited for that starts
    ∧ (c.isChain = false → c.checked = true → allLanded c = true → copyReleased s c c.ord = true →
      ∃ t, exec .copyCommandComplete s = .next t ∧ t.core.spad = s.core.spad ∧ t.die = s.die
        ∧ (chOf t k).queue = (if c.live && extInc c.ext != 0 then startQueue (extMet t) rest else rest)
        ∧ (t.core.sem.get (extSig c.ext).toFin).toNat
            = (if c.live then min 0xFFFF ((s.core.sem.get (extSig c.ext).toFin).toNat + extInc c.ext)
               else (s.core.sem.get (extSig c.ext).toFin).toNat)
        ∧ ∀ m : BitVec 8, m ≠ extSig c.ext → t.core.sem.get m.toFin = s.core.sem.get m.toFin)
    ∧ (c.isChain = false → allLanded c = false → exec .copyCommandComplete s = .next s)
    -- R91, R92: a record not aligned to 64 stops the channel; one that is not owned ends the chain; an owned record is taken
    ∧ (c.isChain = true → c.started = true → c.checked = false → c.record = none →
        (c.e1.toNat % 64 ≠ 0 → c.live = true → ∃ t, exec .chainRecordRead s = .next t ∧ (chOf t k).stop = some 4)
        ∧ (∀ ia : BitVec 56, c.phys = true → c.e1.toNat % 64 = 0 → cmdWindow c c.e1 (c.e1 + 63) .rd = some ia →
            (isLocal s ia || configured s (iaAgent ia)) = true →
            let ias := (List.range 64).map fun i => (ia.toNat + i) % 2 ^ 56
            let w := fun i => BitVec.ofNat 64 (s.die.mem.readNum (ia.toNat + 8 * i) 8)
            let r : Rec := ⟨w 0, w 1, w 2, w 3, w 4, w 5, w 6, w 7⟩
            engBad s ias = false → engMissing s (chanNo c) c.seq ias = [] → copyOrdered s c 0 = true →
            ((w 0).getLsbD 63 = false → ∃ t, exec .chainRecordRead s = .next t ∧ t.die.mem = s.die.mem
              ∧ (chOf t k).queue = { c with checked := true, probes := [] } :: rest)
            ∧ ((w 0).getLsbD 63 = true → (cmdWindow c c.e1 (c.e1 + 63) .w).isSome = true →
              ∃ t, exec .chainRecordRead s = .next t ∧ t.die.mem = s.die.mem
                ∧ (chOf t k).queue =
                  { c with record := some r, recGo := extMet s (recSync r), landed := [], probes := [], pages := [ia] } :: rest)))
    -- R92: a record that has moved signals, gives its OWN bit back and leads to the next; NEXT 0 ends the chain
    ∧ (∀ (r : Rec) (ia : Nat), c.isChain = true → c.checked = true → c.record = some r → allLanded c = true →
        copyReleased s c (moveOrd c) = true → cmdIa c .w (c.e1, c.e1 + 63) c.e1 = some ia →
        engWritable s (lineOf (BitVec.ofNat 56 ia)) = true → engRoom s (chanNo c) [ia] = true →
        ∃ t c', exec .copyCommandComplete s = .next t ∧ (chOf t k).queue = c' :: rest
          ∧ c'.e1 = r.w1 ∧ c'.record = none ∧ c'.landed = [] ∧ c'.checked = decide (r.w1 = 0) ∧ t.core.spad = s.core.spad
          ∧ t.die.mem = (engWrite (chanNo c)
              ((List.range 8).map fun i => (ia + i, (toBytes 8 (r.w0 &&& 0x7FFFFFFFFFFFFFFF).toNat).getD i 0)) s).die.mem)
    -- R97, R100: a chunk of a CPYST for the other die's controller goes there, and has landed when that controller has answered
    ∧ (s.arg.m = 0 → c.isState = true → stIn c = true → pieceReady s [] c s.arg.k = true → handleAgent c.e2 = otherDie s →
        (s.arg.b = false → c.refused = none → c.sent.contains s.arg.k = false → ∃ t, exec .stateChunkWrite s = .next t
          ∧ (chOf t k).queue = { c with sent := s.arg.k :: c.sent } :: rest
          ∧ t.outbox = s.outbox ++ [.chunkPut (otherDie s) k s.arg.k c.e2 (stChunk c s.arg.k) (stBytes s c s.arg.k)])
        ∧ (s.arg.b = true → s.arg.x = 0 → c.sent.contains s.arg.k = true → ∃ t, exec .stateChunkWrite s = .next t
          ∧ (chOf t k).queue = { c with landed := s.arg.k :: c.landed } :: rest))

/-- Posts, armed flags and collectives (R180, R181, R369, R370). -/
def Obligations.CollectiveSteps : Prop :=
  -- R180, R181: the first post whose wait is met goes to the engine
  (∀ (s : State) (p : CollPost) (rest : List CollPost), s.core.posts = p :: rest → p.arm = false → extMet s p.ext = true →
    exec .collPostForward s = .next (upColls (fun e => { e with colls := e.colls ++ [newColl p] })
      (s.upCore fun c => { c with posts := rest })))
  -- R181: an armed post enters the table of 64, and fires at once where its flag is not zero
  ∧ (∀ (s : State) (p : CollPost) (rest : List CollPost) (ia : BitVec 56), s.core.posts = p :: rest → p.arm = true →
      extMet s p.ext = true → s.die.coll.arms = [] → postIa p p.flag (p.flag + 7) .rd = some ia →
      lineBad s (lineOf ia) = false → lineReadable s (lineOf ia) = true →
      (s.die.mem.readNum ia.toNat 8 = 0 → ∃ t, exec .armEntry s = .next t ∧ t.core.posts = rest
        ∧ t.die.coll.arms = [⟨p, ia, false⟩] ∧ t.die.coll.colls = s.die.coll.colls)
      ∧ (s.die.mem.readNum ia.toNat 8 ≠ 0 → postOrdered s p true = true → ∃ t, exec .armEntry s = .next t ∧ t.core.posts = rest
        ∧ t.die.coll.arms = [] ∧ t.die.coll.colls = s.die.coll.colls ++ [newColl p]))
  -- R181: a flag is read again only after its line has changed; one that cannot be read makes the collective fail with 1
  ∧ (∀ (s : State) (a : Arm), s.die.coll.arms = [a] → s.arg.n = 0 →
      (a.changed = false → exec .flagReread s = .next s)
      ∧ (a.changed = true → lineBad s (lineOf a.flagIa) = false → lineReadable s (lineOf a.flagIa) = true →
          s.die.mem.readNum a.flagIa.toNat 8 ≠ 0 → postOrdered s a.post true = true →
          ∃ t, exec .flagReread s = .next t ∧ t.die.coll.arms = [] ∧ t.die.coll.colls = s.die.coll.colls ++ [newColl a.post]
            ∧ t.die.mem = s.die.mem ∧ t.core = s.core)
      ∧ (a.changed = true → lineBad s (lineOf a.flagIa) = true →
          ∃ t, exec .flagReread s = .next t ∧ t.die.coll.arms = []
            ∧ t.die.coll.colls = s.die.coll.colls ++ [{ newColl a.post with fail := some 1 }]))
  -- R180: a descriptor that is outside its window gives status 4; a checked collective runs once every member has posted alike
  ∧ (∀ (s : State) (c : Coll) (p : CollPost) (rest : List Coll), s.arg.b = false → s.arg.n = 0 → s.die.coll.colls = c :: rest →
      c.post = some p → c.checked = false → c.desc = none → c.fail = none → postAcquired s p = true →
      postSpan p p.desc 64 .rd = none →
      exec .collectiveStart s
        = .next (upColls (fun e => { e with colls := { c with checked := true, fail := some 4 } :: rest }) s))
  ∧ (∀ (s : State) (c : Coll) (p : CollPost) (d : Rec) (g : Group) (rest : List Coll), s.arg.b = false → s.arg.n = 0 →
      s.die.coll.colls = c :: rest → c.post = some p → c.checked = true → c.desc = some d → c.entry.bind (groupOf s) = some g →
      c.fail = none → c.running = false → allPosted g s.core.agent c = true →
      (postsAgree g d c = false →
        exec .collectiveStart s = .next (upColls (fun e => { e with colls := { c with fail := some 6 } :: rest }) s))
      ∧ (postsAgree g d c = true → (s.die.coll.colls.filter (·.running)).length < 8 →
        exec .collectiveStart s = .next (upColls (fun e => { e with colls := { c with running := true, members := g.members } :: rest }) s)))
  -- R180, R369: a post of another member is kept with its collective; one that has failed there fails here with PEER
  ∧ (∀ s : State, s.arg.b = true → s.die.coll.colls = [] →
      exec .collectiveStart s = .next (upColls (fun e => { e with colls := [
        { entry := some (BitVec.ofNat 8 s.arg.n), post := none, desc := none, checked := false, probes := []
          fail := if s.arg.k = 0 then none else some 8
          peers := [⟨s.arg.agent, s.arg.record, s.arg.bytes, s.arg.x.setWidth 32⟩], running := false, mine := none, moved := 0
          members := [], done := false, wrote := false, told := false, others := [] }] }) s))
  -- R180: a collective that has failed at this member ends with its STATUS in w7 and its signal
  ∧ (∀ (s : State) (c : Coll) (p : CollPost) (k : BitVec 8) (ia : BitVec 56), s.die.mem.wf = true → s.arg.b = false → s.arg.n = 0 →
      s.die.coll.colls = [c] → c.post = some p → c.fail = some k → c.checked = true → postOrdered s p (p.ord.getLsbD 1) = true →
      engAllWritable s (w7Ias p) = true → p.live = true → p.slotVa = 0 → c.done = false →
      postIa p p.desc (p.desc + 63) .w = some ia → ia.toNat % 64 = 0 → isLocal s ia = true → lineBad s (lineOf ia) = false →
      ∃ t, exec .collectiveComplete s = .next t ∧ t.die.mem.readNum (ia.toNat + 56) 8 = 2 ^ 63 + k.toNat
        ∧ (t.core.sem.get (extSig p.ext).toFin).toNat = min 0xFFFF ((s.core.sem.get (extSig p.ext).toFin).toNat + extInc p.ext)
        ∧ ∀ x ∈ t.die.coll.colls, x.post = none ∧ x.done = true)
  -- R180, R362: an uncorrectable source read at another member fails the collective here; its source array is kept as its pieces come
  ∧ (∀ (s : State) (c : Coll), s.arg.b = true → s.die.coll.colls = [c] → c.entry = some (BitVec.ofNat 8 s.arg.n) →
      (s.arg.k = 0 → c.fail = none → c.done = false → c.wrote = false →
        exec .collectiveComplete s = .next (upColls (fun e => { e with colls := [{ c with fail := some 1 }] }) s))
      ∧ (∀ p : PeerPost, s.arg.k = 2 → c.peers = [p] → p.agent = s.arg.agent → p.bytes.length < dSrcLen p.desc (membersOf s c).length →
        exec .collectiveComplete s
          = .next (upColls (fun e => { e with colls := [{ c with peers := [{ p with bytes := p.bytes ++ s.arg.bytes }] }] }) s)))
  -- R180, R362: a running collective reads its source array and sends it to the other members in pieces of 240 bytes
  ∧ (∀ (s : State) (c : Coll) (p : CollPost) (d : Rec) (g : Group) (src : List Nat), s.arg.b = false → s.arg.n = 0 →
      s.die.coll.colls = [c] → c.post = some p → c.fail = none → c.desc = some d → c.entry.bind (groupOf s) = some g →
      c.running = true → c.wrote = false → c.mine = none → postSpan p d.w1 (dSrcLen d (membersOf s c).length) .rd = some src →
      engBad s src = false → engMissing s 0 p.seq src = [] →
      ∃ t, exec .collectiveComplete s = .next t
        ∧ t.die.coll.colls = [{ c with mine := some (src.map fun a => s.die.mem.read a) }] ∧ t.die.mem = s.die.mem
        ∧ t.outbox = s.outbox ++ (dataPieces src.length (src.map fun a => s.die.mem.read a)).flatMap fun bs =>
            (without s.core.agent (membersOf s c)).map fun m => .collData m (c.entry.getD 0) bs)

/-- The scoreboard, the ends of tasks, the timer and the barriers (R152, R264 to R273, R340). -/
def Obligations.TaskSteps : Prop :=
  -- R152, R273: a known value reaches its register, which waits no longer
  (∀ (s : State) (a : Await) (v : W1024), s.arg.b = false → s.core.awaits = [a] → a.id = s.arg.k → a.value = some v →
    a.mon = s.core.mon →
    ∃ t, exec .scoreboardArrival s = .next t ∧ t.core.awaits = [] ∧ t.core.latch = true ∧ t.die = s.die ∧ t.core.spad = s.core.spad
      ∧ (a.vec = false → readS t a.reg = (if a.reg = 0 then 0 else v.setWidth 64)
          ∧ (∀ r, r ≠ a.reg → readS t r = readS s r) ∧ t.core.regs.v = s.core.regs.v)
      ∧ (a.vec = true → readV t a.reg = blend (readV s a.reg) v a.mask
          ∧ (∀ r, r ≠ a.reg → readV t r = readV s r) ∧ t.core.regs.s = s.core.regs.s ∧ t.core.regs.ms = s.core.regs.ms))
  ∧ (∀ s : State, s.arg.b = false → (∀ a ∈ s.core.awaits, a.id ≠ s.arg.k) → exec .scoreboardArrival s = .next s)
  -- R270: HALT at monitor level stops the core
  ∧ (∀ s : State, s.arg.b = false → s.core.run = .running → s.core.mon = true → s.core.mEnd = .halt → s.core.mDue = 0 →
      exec .pendingEndEffect s = .next (s.upCore fun c => { c with run := .stopped, mEnd := .none, mDue := 0 }))
  -- R272, R346: ERET returns to the task's stream, and the results of the snapshot are in flight again
  ∧ (∀ (s : State) (x : TaskInfo), s.arg.b = false → s.core.run = .running → s.core.mon = true → s.core.mEnd = .eret →
      s.core.mDue = 0 → s.core.task = some x → s.core.pipe = [] →
      ∃ t, exec .pendingEndEffect s = .next t ∧ t.core.mon = false ∧ t.core.run = .running ∧ stream t = s.core.pcq
        ∧ t.core.pipe = s.core.snap ∧ t.core.snap = [] ∧ t.core.regs = s.core.regs ∧ t.core.sys = s.core.sys ∧ t.die = s.die)
  -- R269: a task that has ended leaves its core free and owes its join counter
  ∧ (∀ (s : State) (x : TaskInfo), s.arg.b = false → s.core.run = .running → s.core.mEnd = .none → s.core.mon = false →
      pendEnd s = 2 → pendDue s = 0 → s.core.task = some x → s.core.leaving = [] →
      ∃ t, exec .pendingEndEffect s = .next t ∧ t.core.run = .idle ∧ t.core.task = none ∧ t.core.mbox = [] ∧ t.core.posts = []
        ∧ ∃ l, t.core.leaving = [l] ∧ l.task = x ∧ l.va = x.record.w6 ∧ l.counter = (x.record.w6 != 0) ∧ l.win = s.core.sys.win)
  -- R273: a WFE ends after 65,536 cycles at the latest
  ∧ (∀ s : State, s.core.waiting = .wfe →
      (65536 ≤ s.core.wfeCycles → exec .wfeTimeout s = .next (s.upCore fun c => { c with latch := true }))
      ∧ (s.core.wfeCycles < 65536 → exec .wfeTimeout s = .next s))
  -- R340: TMR reaches zero at task level
  ∧ (∀ s : State, s.core.run = .running → s.core.mon = false → s.core.sys.tstate.extractLsb' 32 32 = 1 →
      ∃ t, exec .timerExpiry s = .next t ∧ t.core.asyncs.timer = true ∧ t.core.latch = true
        ∧ t.core.sys.tstate = s.core.sys.tstate &&& 0x00000000FFFFFFFF ∧ t.core.regs = s.core.regs)
  -- R264: an arrival whose earlier accesses are performed: alone it completes the phase, in a gang it joins the others
  ∧ (∀ (s : State) (x : TaskInfo), s.arg.b = false → s.core.task = some x →
      let l := BitVec.ofNat 3 s.arg.k
      (arrivalReady s l = false → exec .barrierArrival s = .next s)
      ∧ (arrivalReady s l = true → aloneAt x l = true → exec .barrierArrival s
          = .next (setBar l { barOf s l with arrived := true, asked := false, complete := true } s))
      ∧ (arrivalReady s l = true → aloneAt x l = false → s.die.disp.arrivals = [] → ∃ t, exec .barrierArrival s = .next t
          ∧ (barOf t l).arrived = true ∧ (barOf t l).complete = false
          ∧ t.die.disp.arrivals = [⟨x.domain, l, sidAt x l, countAt x l, [x.rank]⟩]))
  -- R264: the phase is complete once COUNT members have arrived or ended, and not before
  ∧ (∀ (s : State) (a : Arrivals), s.die.disp.arrivals = [a] → s.arg.n = 0 → s.core.saveArea = none → s.die.disp.slots = [] →
      gangOf s a.domain = none →
      (a.members.length < a.count → exec .barrierPhaseComplete s = .next s)
      ∧ (∀ x, a.count ≤ a.members.length → s.core.task = some x → inPhase a x = true →
          ∃ t, exec .barrierPhaseComplete s = .next t ∧ t.die.disp.arrivals = []
            ∧ (barOf t a.level).complete = ((barOf s a.level).complete || (barOf s a.level).arrived)
            ∧ ∀ l, l ≠ a.level → barOf t l = barOf s l))
  -- R266: the bound on a barrier's wait
  ∧ (∀ (s : State) (x : TaskInfo), s.core.task = some x → x.gang = false → s.core.waiting = .bar → s.core.sys.bartimeout ≠ 0 →
      s.core.sys.bartimeout.toNat < s.core.barCycles →
      ∃ t, exec .barrierTimeout s = .next t ∧ t.core.asyncs.barTimeout = some (s.core.waitArg.setWidth 3)
        ∧ t.core.barCycles = 0 ∧ t.core.latch = true)
  ∧ (∀ s : State, s.core.waiting ≠ .bar → s.die.disp.parked = [] → exec .barrierTimeout s = .next s)

/-- Contexts saved, written out, moved and restored, and restarts from a position (R105, R308, R336, R352 to R357). That the other die's
controller is asked first is log entry 101, what PREEMPT's entry into the monitor leaves to it log entry 41, and that a restore of an
image this core wrote takes the context from State log entry 58. -/
def Obligations.ContextSteps : Prop :=
  -- R353, R336: a pre-empted task leaves its core; its registers, stream and system registers stand in the save area, and the core enters
  -- its monitor with PREEMPT; R339: without a usable MENTRY the core stops
  (∀ (s : State) (x : TaskInfo) (k : BitVec 3) (toHead : Bool), boundary s = some .contextSave → s.core.task = some x →
    s.core.joinReq = none → s.core.asyncs.preempt = some (k, toHead) →
    (mentryOk s.core.sys.mentry = false → ∃ t, exec .contextSave s = .next t ∧ t.core.run = .stopped ∧ t.core.task = some x)
    ∧ (mentryOk s.core.sys.mentry = true → s.core.pipe = [] → s.core.awaits = [] → s.core.mxRun = none →
    (∀ j : BitVec 2, (chOf s j).queue = []) → s.core.saveArea = none →
    ∃ t va c, exec .contextSave s = .next t ∧ t.core.run = .running ∧ t.core.mon = true ∧ t.core.task = none
      ∧ stream t = ⟨s.core.sys.mentry &&& ~~~3, 1, 1, 0, none, none, none⟩
      ∧ t.core.sys.cause = BitVec.ofNat 64 (k.toNat * 2 ^ 32 + 256 + Cause.preempt.code) ∧ t.core.sys.fmask = 0
      ∧ t.core.sys.faddr = s.core.pcq.q0 ∧ t.core.saveArea = some (va, c)
      ∧ c.task = x ∧ c.regsS = s.core.regs.s ∧ c.regsP = s.core.regs.p ∧ c.regsV = s.core.regs.v ∧ c.regsT = s.core.regs.t
      ∧ c.acc0 = s.core.regs.acc0 ∧ c.acc1 = s.core.regs.acc1 ∧ c.ka = s.core.regs.ka ∧ c.kb = s.core.regs.kb
      ∧ c.sys = { s.core.sys with tstate := tstateWord s }
      ∧ c.stream.q0 = s.core.pcq.q0 ∧ c.stream.q1 = s.core.pcq.q1 ∧ c.stream.q2 = s.core.pcq.q2
      ∧ c.stream.annul = s.core.pcq.annul ∧ c.granules = s.core.taskGranules
      ∧ (k = 3 → t.die.disp.parked = s.die.disp.parked ++ [parkedOf s x { x.record with w7 := va }])))
  ∧ (∀ s : State, boundary s ≠ some .contextSave → exec .contextSave s = .next s)
  -- R105: a task with a position of this die's controller is stopped and restarts from it; of the other die's that one is asked first
  ∧ (∀ (s : State) (x : TaskInfo) (k : BitVec 3) (toHead : Bool), s.arg.b = false → boundary s = some .positionPreempt →
      s.core.task = some x → s.core.asyncs.preempt = some (k, toHead) →
      (posFar s x.record = false ∨ s.core.posr = some (some true) → mentryOk s.core.sys.mentry = true →
        ∃ t, exec .positionPreempt s = .next t ∧ t.core.run = .running ∧ t.core.mon = true ∧ t.core.task = none
        ∧ (stream t).q0 = s.core.sys.mentry &&& ~~~3
        ∧ t.core.sys.cause = BitVec.ofNat 64 (k.toNat * 2 ^ 32 + 256 + Cause.preempt.code)
        ∧ t.die.disp.restarts = s.die.disp.restarts ++ [⟨x.record, toHead || k == 3, false, x.carried,
            if k = 3 then some (parkedOf s x x.record) else none⟩])
      ∧ (posFar s x.record = true → s.core.posr = none → exec .positionPreempt s
          = .next ((s.upCore fun c => { c with posr := some none }).send (.posAsk (otherDie s) x.record.w5))))
  -- R105, R303: where the sequence is gone or holds no snapshot, the task is given up; else it is rolled to the newest one and queued, or,
  -- if it was parked, waits to be woken
  ∧ (∀ (s : State) (q : Restart) (rest : List Restart), s.arg.b = false →
      s.die.disp.restarts = q :: rest → posFar s q.record = false →
      let r := q.record
      (statesDue s = true → exec .positionRollDone s = .next s)
      ∧ (statesDue s = false → newestWord s r.w5 = none → ∃ t, exec .positionRollDone s = .next t ∧ t.die.disp.restarts = rest
          ∧ t.die.seq.raised = s.die.seq.raised ++ [(⟨0, 0, 11, 0, r.w3, 0x20⟩, r.w6)])
      ∧ (∀ (w st : W64) (s1 : State), statesDue s = false → newestWord s r.w5 = some w → grPerform 0x2B w 0 s = (some st, s1) →
          let r' : Rec := { r with w5 := BitVec.ofNat 64 (r.w5.toNat % 2 ^ 32 + (w.extractLsb' 32 32).toNat * 2 ^ 32), w7 := 0 }
          (∀ k, q.park = some k → ∃ t, exec .positionRollDone s = .next t ∧ t.die.disp.restarts = s1.die.disp.restarts.tail
            ∧ t.die.disp.parked = s1.die.disp.parked ++ [{ k with record := r' }])
          ∧ (q.park = none → neverRun s1 r' = none → s1.die.disp.returns = [] → fifoFull s1 (recPrio r) = false →
            ∃ t, exec .positionRollDone s = .next t ∧ t.die.disp.restarts = s1.die.disp.restarts.tail
              ∧ ∃ f ∈ t.die.disp.fifo, f.record = r' ∧ f.win = q.win)))
  -- R352: a context in the save area goes to its slot once what its task has sent is performed, and its granules are cleared
  ∧ (∀ (s : State) (x : Ctx), s.core.saveArea = some (s.arg.x, x) → x.inCore = true → (∀ z ∈ s.die.disp.slots, z.1 ≠ s.arg.x) →
      (ctxPerformed s x = false → exec .imageWriteout s = .next s)
      ∧ (ctxPerformed s x = true → (∀ l : BitVec 3, (x.bars.get l.toFin).asked = true → (x.bars.get l.toFin).arrived = true) →
      (∀ l ∈ linesOf ((slotCells s s.arg.x x).map (·.1)), lineBad s l = false) →
      engAllWritable s ((slotCells s s.arg.x x).map (·.1)) = true →
      ∃ t, exec .imageWriteout s = .next t ∧ t.core.saveArea = none
        ∧ ctxFind t s.arg.x = some { x with inCore := false, region := regionOf s x, granules := [] }
        ∧ t.die.mem = (engWrite 0 (slotCells s s.arg.x x) s).die.mem ∧ t.core.spad = s.core.spad
        ∧ ∀ g ∈ x.granules, g < 64 → t.core.granules.getD g .held = .clearing))
  ∧ (∀ s : State, ctxFind s s.arg.x = none → exec .imageWriteout s = .next s)
  -- R354, R308: spilled messages go to the slot of a task, or are discarded where its gang is gone
  ∧ (∀ (s : State) (x : TaskInfo) (va : W64) (c : Ctx), s.core.spillMove = some (x, va) →
      (x.gang = false → s.core.saveArea = some (va, c) → ∃ t, exec .spilledMessageMove s = .next t ∧ t.core.spill = []
        ∧ t.core.spillMove = none ∧ t.core.saveArea = some (va, { c with spill := spilled s ++ c.spill }))
      ∧ (x.gang = true → gangOf s x.domain = none →
        exec .spilledMessageMove s = .next (s.upCore fun c => { c with spill := [], spillMove := none }))
      ∧ (∀ g, x.gang = true → gangOf s x.domain = some g → g.overflow.length + s.core.spill.length ≤ (g.w0.extractLsb' 0 16).toNat →
        ∃ t, exec .spilledMessageMove s = .next t ∧ t.core.spill = [] ∧ t.core.spillMove = none
          ∧ ∃ g', gangOf t x.domain = some g' ∧ g'.overflow.map (fun m => (m.rank, m.msg))
              = g.overflow.map (fun m => (m.rank, m.msg)) ++ (spilled s).map fun m => (x.rank, { m with gang := x.domain })))
  -- R356, R405: the restore begins once nothing is outstanding, and when its fixed cycles have passed the task runs again with the registers
  -- and the stream it was saved with; a bank that was not live is zero
  ∧ (∀ (s : State) (r : Rec) (asked : Bool), s.core.restoring = some (r, asked) →
      (s.core.accs ≠ [] → exec .contextRestore s = .next s)
      ∧ (s.core.accs = [] → engWriting s = false → s.core.spillMove = none → s.core.mxQueue = [] → s.core.mxRun = none →
        (s.core.restoreLeft = none → exec .contextRestore s
          = .next (s.upCore fun c => { c with restoreLeft := some (restoreCycles (ctxFind s r.w7)) }))
        ∧ (∀ n, s.core.restoreLeft = some (n + 1) → exec .contextRestore s = .next s)
        ∧ (∀ x : Ctx, s.core.restoreLeft = some 0 → s.core.saveArea = some (r.w7, x) →
          imgSame s.core.spad 0x3C0000 (imgBytesOf r.w7 x) = true →
          x.step = stepId.setWidth 16 → x.granules ≠ [] → x.awaits = [] → x.spill = [] → gangOf s x.task.domain = none →
          ∃ t, exec .contextRestore s = .next t ∧ t.core.run = .running ∧ t.core.mon = false ∧ t.core.restoring = none
            ∧ t.core.task = some { x.task with record := r, startTick := s.tick } ∧ t.core.regs.s = x.regsS ∧ t.core.regs.p = x.regsP
            ∧ t.core.regs.v = x.regsV ∧ t.core.regs.t = x.regsT
            ∧ t.core.regs.acc0 = (if x.sys.mxlive.getLsbD 0 then x.acc0 else Vector.replicate 128 0)
            ∧ t.core.regs.acc1 = (if x.sys.mxlive.getLsbD 1 then x.acc1 else Vector.replicate 128 0)
            ∧ t.core.regs.ka = x.ka ∧ t.core.regs.kb = x.kb ∧ t.core.pcq = x.stream ∧ t.core.pipe = x.snap ∧ t.core.sem = x.sem
            ∧ t.core.latch = x.latch ∧ t.core.ab = x.ab ∧ t.core.ls = x.ls
            ∧ t.core.sys.tstate = setField x.sys.tstate 6 1 0 ∧ t.core.sys.spw = x.sys.spw
            ∧ t.core.sys.mentry = s.core.sys.mentry ∧ t.core.regs.ms = s.core.regs.ms ∧ t.core.spad = s.core.spad
            ∧ t.core.taskGranules = x.granules)))

/-- The entry of a trap, and the steps of the monitor's registers (R333 to R348, R358). -/
def Obligations.TrapAndMonitorSteps : Prop :=
  -- R336, R337: a trap of a bundle: the registers it writes, the trap record, and monitor level at MENTRY
  (∀ (q : TrapReq) (s : State), Settled s → s.core.mon = false → mentryOk s.core.sys.mentry = true →
    let t := Trapped q s
    t.core.mon = true ∧ t.core.run = .running ∧ stream t = ⟨s.core.sys.mentry &&& ~~~3, 1, 1, 0, none, none, none⟩
      ∧ t.core.sys.cause = BitVec.ofNat 64 (q.info.toNat * 2 ^ 32 + (if q.async then 256 else 0) + q.cause.code)
      ∧ t.core.sys.fmask = q.fmask.setWidth 64 ∧ t.core.sys.faddr = q.faddr ∧ t.core.pcq = s.core.pcq
      ∧ t.core.regs = s.core.regs ∧ t.die.mem = s.die.mem ∧ t.die.coh = s.die.coh ∧ t.die.seq = s.die.seq
      ∧ t.core.spad = s.core.spad.writeBytes 0x3F3FC0
          ([t.core.sys.cause, q.fmask.setWidth 64, q.faddr, s.core.pcq.q0, s.core.pcq.q1, s.core.pcq.q2, s.core.pcq.annul.setWidth 64,
            q.iaddr].flatMap fun w => toBytes 8 w.toNat))
  -- R341: a trap at monitor level stops the core with an error record; R339: so does one without a usable MENTRY
  ∧ (∀ (q : TrapReq) (s : State), Settled s → s.core.mon = true →
      let t := Trapped q s
      t.core.run = .stopped ∧ t.core.regs = s.core.regs ∧ t.core.sys.cause = s.core.sys.cause
        ∧ t.die.errors = s.die.errors ++ [⟨.coreStop, q.faddr.toNat, q.faddr.setWidth 56, s.core.agent, .none⟩])
  ∧ (∀ (q : TrapReq) (s : State), Settled s → s.core.mon = false → mentryOk s.core.sys.mentry = false →
      (Trapped q s).core.run = .stopped ∧ (Trapped q s).core.mon = false)
  -- R335: an asynchronous cause is taken at the boundary: an uncorrectable load first of all, a message after the others
  ∧ (∀ (s : State) (e : MemErr) (rest : List MemErr), boundary s = some .trapEntry →
      s.core.asyncs.memErr = e :: rest → mentryOk s.core.sys.mentry = true →
      ∃ t, exec .trapEntry s = .next t ∧ t.core.mon = true ∧ t.core.sys.cause = BitVec.ofNat 64 (e.info.toNat * 2 ^ 32 + 0x109)
        ∧ t.core.sys.fmask = e.fmask.setWidth 64 ∧ t.core.sys.faddr = e.va ∧ t.core.asyncs = { s.core.asyncs with memErr := rest }
        ∧ (stream t).q0 = s.core.sys.mentry &&& ~~~3)
  ∧ (∀ s : State, boundary s = some .trapEntry → s.core.asyncs = { resetAsyncs with mailbox := true, timer := true } →
      mentryOk s.core.sys.mentry = true →
      ∃ t, exec .trapEntry s = .next t ∧ t.core.mon = true ∧ t.core.sys.cause = 0x122 ∧ t.core.sys.faddr = s.core.pcq.q0
        ∧ t.core.asyncs = { resetAsyncs with timer := true })
  ∧ (∀ s : State, boundary s ≠ some .trapEntry → exec .trapEntry s = .next s)
  -- R348: the words of a stopped channel's queue are removed one by one, three to a command
  ∧ (∀ (s : State) (c : Cmd) (rest : List Cmd) (sub : BitVec 4),
      let k := BitVec.ofNat 2 s.arg.n
      (chOf s k).queue = c :: rest →
      ((chOf s k).stop = some sub → (chOf s k).popped ≠ 2 →
        exec .chqPop s = .next (setCh k (fun h => { h with popped := h.popped + 1 }) s))
      ∧ ((chOf s k).stop = some sub → (chOf s k).popped = 2 →
        exec .chqPop s = .next (setCh k (fun h => { h with queue := rest, popped := 0 }) s))
      ∧ ((chOf s k).stop = none → exec .chqPop s = .next s))
  -- R348: three words append a command; a word without V lets the channel go on
  ∧ (∀ s : State,
      let k := BitVec.ofNat 2 s.arg.n
      let w := s.arg.record
      (chOf s k).partialWords = [] →
      (w.w0.getLsbD 56 = true → ∃ t c, exec .chqAppend s = .next t ∧ (chOf t k).queue = (chOf s k).queue ++ [c]
        ∧ (chOf t k).partialWords = [] ∧ c.op = w.w0.extractLsb' 57 7 ∧ c.started = w.w0.getLsbD 55 ∧ c.bank = w.w0.getLsbD 54
        ∧ c.set = w.w0.extractLsb' 51 3 ∧ c.ord = w.w0.extractLsb' 49 2 ∧ c.sc = w.w0.extractLsb' 47 2
        ∧ c.ext = w.w0.extractLsb' 0 32 ∧ c.e1 = w.w1 ∧ c.e2 = w.w2 ∧ c.checked = false ∧ c.win = s.core.sys.win)
      ∧ exec .chqResume s = .next (setCh k (fun h => { h with stop := none, popped := 0 }) s))
  -- R345: writing 0 to SNAPN discards the snapshot
  ∧ (∀ s : State, (∀ r ∈ s.core.snap, 0 < r.pcs) →
      exec .snapnDiscard s = .next (s.upCore fun c => { c with snap := [] }))
  -- R339: MENTRY is written while the core is held in reset
  ∧ (∀ s : State,
      (s.core.run = .reset → exec .mentryWrite s = .next (s.upSys fun y => { y with mentry := s.arg.x &&& ~~~3 }))
      ∧ (s.core.run ≠ .reset → exec .mentryWrite s = .next s))
  -- R333, R358: a request to halt for debugging, of this core or of another member of its gang
  ∧ (∀ (s : State) (x : TaskInfo), s.core.task = some x → s.core.asyncs.debugHalt = none →
      ∃ t, exec .debugHaltRequest s = .next t ∧ t.core.asyncs.debugHalt = some (if s.arg.b then 3 else 1) ∧ t.core.latch = true
        ∧ (x.gang = true → ∀ g, gangOf s x.domain = some g → gangHeld t = true))
  ∧ (∀ (s : State) (g : Gang), gangOf s (BitVec.ofNat 16 s.arg.n) = some g → ∃ t g', exec .gangHeldClear s = .next t
      ∧ gangOf t (BitVec.ofNat 16 s.arg.n) = some g' ∧ heldGang t (BitVec.ofNat 16 s.arg.n) = false ∧ g'.w1 = g.w1 ∧ g'.queued = g.queued
      ∧ t.core = s.core)

/-- The queues of the dispatcher, the choice of a free core, rotation, parking and gangs (R292 to R309). -/
def Obligations.DispatcherSteps : Prop :=
  -- R292, R295: where a record goes that is queued; R331: one of a stopped program is dropped with its context
  (∀ s : State, s.arg.b = false → s.arg.k = 0 → s.arg.nats = [] → s.die.disp.returns = [] →
    let r := s.arg.record
    let f : FifoRec := ⟨r, s.cycle, false, recPrio r, false, none⟩
    (r.w0 = 0 → exec .fifoArrival s = .next (s.upDie fun d => { d with seq := { d.seq with notices := d.seq.notices ++ [r.w1] } }))
    ∧ (r.w0 ≠ 0 → haltedRec s r = true → exec .fifoArrival s = .next (releaseCtx r s))
    ∧ (r.w0 ≠ 0 → haltedRec s r = false →
      (recMalformed s r = true → exec .fifoArrival s = .next (seqRaise 3 r.w6 r.w3 0 s))
      ∧ (recMalformed s r = false → 60 < recGran r → exec .fifoArrival s = .next (seqRaise 1 r.w6 r.w3 0 s))
      ∧ (recMalformed s r = false → recGran r ≤ 60 → fifoFull s (recPrio r) = true →
        exec .fifoArrival s = .next (upDisp (fun d => { d with returns := d.returns ++ [f] }) s))
      ∧ (recMalformed s r = false → recGran r ≤ 60 → fifoFull s (recPrio r) = false →
        ∃ t, exec .fifoArrival s = .next t ∧ t.die.disp.fifo = s.die.disp.fifo ++ [f] ∧ t.core.regs = s.core.regs)))
  -- R295: the return store gives its records back, ahead of other arrivals
  ∧ (∀ (s : State) (f : FifoRec), s.die.disp.returns = [f] →
      (fifoSpace s (recPrio f.record) = false → exec .returnStoreDrain s = .next s)
      ∧ (fifoSpace s (recPrio f.record) = true → ∃ t, exec .returnStoreDrain s = .next t ∧ t.die.disp.returns = []
          ∧ t.die.disp.fifo = (if f.toHead then putFirst ⟨f.record, s.cycle, false, recPrio f.record, true, f.win⟩ s.die.disp.fifo
              else s.die.disp.fifo ++ [⟨f.record, s.cycle, false, recPrio f.record, false, f.win⟩])))
  -- R293, R296: a free core starts the fresh task it has chosen, with the operands of its record and all else zero
  ∧ (∀ (s : State) (src : Source) (r : DequeRec) (w : Vector W64 24) (rs : List (Nat × Nat)), s.arg.b = false → coreFree s = true →
      choose (ageAll (expireAffinity s)) s.core.cid.toNat = some (src, r) → s.core.reserved = none → neverRun s r.record = none →
      gangOf s (recDomain r.record) = none → let r := r.record
      r.w7 = 0 → windowSet s src.win r = some w → allocRuns s (recGran r) = some rs →
      ∃ t, exec .coreTakesRecord s = .next t ∧ t.core.run = .running ∧ t.core.mon = false ∧ (stream t).q0 = r.w0 &&& ~~~3
        ∧ readS t 1 = r.w1 ∧ readS t 2 = r.w2 ∧ readS t 3 = r.w3 ∧ readS t 5 = r.w5
        ∧ (∀ n : BitVec 6, n ≠ 1 → n ≠ 2 → n ≠ 3 → n ≠ 5 → readS t n = 0) ∧ (∀ n, readV t n = 0) ∧ t.core.sys.win = w
        ∧ t.core.sys.fpsr = 0 ∧ t.core.sys.vrm = 0 ∧ t.core.latch = true ∧ t.core.sem = Vector.replicate 256 0
        ∧ t.core.sys.taskid = r.w0 ^^^ r.w3.rotateLeft 32 ^^^ BitVec.ofNat 64 ((recRank r).toNat * 2 ^ 48)
        ∧ t.core.taskGranules = runGranules rs)
  -- R296: a record with a context waits for its restore; one that never runs leaves the core free; a core that is not free takes nothing
  ∧ (∀ (s : State) (src : Source) (r : DequeRec), s.arg.b = false → coreFree s = true →
      choose (ageAll (expireAffinity s)) s.core.cid.toNat = some (src, r) → s.core.reserved = none →
      gangOf s (recDomain r.record) = none →
      (neverRun s r.record = none → r.record.w7 ≠ 0 → ∃ t, exec .coreTakesRecord s = .next t
        ∧ t.core.restoring = some (r.record, false) ∧ t.core.run = .idle ∧ t.core.regs = s.core.regs)
      ∧ (r.record.w0 = 0 → ∃ t, exec .coreTakesRecord s = .next t ∧ t.core.restoring = none ∧ t.core.run = .idle
          ∧ t.core.task = none ∧ t.die.seq.notices = s.die.seq.notices ++ [r.record.w1]))
  ∧ (∀ s : State, s.arg.b = false → coreFree s = false → exec .coreTakesRecord s = .next s)
  -- R297, R300, R274: affinity ends after 4,096 cycles; priorities age; another core's task lowers its own
  ∧ (∀ s : State, s.arg.b = true → exec .agingStep s
      = .next (upPeer s.arg.n (fun p => { p with prio := BitVec.ofNat 7 (min p.prio.toNat s.arg.m) }) s))
  ∧ (∀ s : State, exec .affinityExpiry s = .next (upDisp (fun d => { d with fifo := d.fifo.map fun f =>
      { f with anyCore := f.anyCore || decide (f.since + 4096 ≤ s.cycle) } }) s))
  ∧ (∀ s : State, s.arg.b = false → ∃ t, exec .agingStep s = .next t ∧ t.core = s.core
      ∧ t.die.disp.fifo = s.die.disp.fifo.map fun f =>
          let p := recPrio f.record
          let iv := (s.core.sys.age.extractLsb' 0 32).toNat
          { f with eff := if iv = 0 then p else max p (min (s.core.sys.age.extractLsb' 32 7).toNat (p + (s.cycle - f.since) / iv)) })
  -- R301: a quantum that ends without a rival starts again; with one the task is rotated
  ∧ (∀ s : State, s.arg.b = false → quantumDue s = [] → exec .quantumExpiry s = .next s)
  ∧ (∀ (s : State) (v : Running) (rest : List Running), s.arg.b = false → quantumDue s = v :: rest → s.die.disp.fifo = [] →
      exec .quantumExpiry s = .next (restartQuantum v.cid s))
  ∧ (∀ (s : State) (v : Running) (rest : List Running), s.arg.b = false → quantumDue s = v :: rest → v.cid = s.core.cid.toNat →
      v.gang = false → s.core.asyncs.preempt = none →
      let s' := ageAll (expireAffinity s)
      (∃ f ∈ s'.die.disp.fifo, affine s' f v.cid = true ∧ servesOn s' v.cid f.record = true ∧ v.prio ≤ f.eff
        ∧ spent s' f.record = false) →
      ∃ t, exec .quantumExpiry s = .next t ∧ t.core.asyncs.preempt = some (2, false) ∧ t.core.quantumUsed = 0)
  -- R303: a task that waits long enough while another could run is parked, and woken where what it waits for has come
  ∧ (∀ s : State, (parkDue s = true → ∃ t, exec .parking s = .next t ∧ t.core.asyncs.preempt = some (3, true) ∧ t.core.latch = true)
      ∧ (parkDue s = false → exec .parking s = .next s))
  ∧ (∀ (s : State) (p : Parked), s.die.disp.parked = [p] → s.die.disp.returns = [] →
      (wakeable s p = false → exec .parkWake s = .next s)
      ∧ (wakeable s p = true → p.record.w0 ≠ 0 → haltedRec s p.record = false → recMalformed s p.record = false → recGran p.record ≤ 60 →
          fifoFull s (recPrio p.record) = false →
          ∃ t, exec .parkWake s = .next t ∧ t.die.disp.parked = []
            ∧ t.die.disp.fifo = putFirst ⟨p.record, s.cycle, false, recPrio p.record, true, p.win⟩ s.die.disp.fifo))
  -- R305, R306: a free core is reserved for a queued member, of a gang of LEVEL 1 in its cluster; a gang starts when every queued member holds a core
  ∧ (∀ (s : State) (g : Gang) (f : FifoRec),
      let d := BitVec.ofNat 16 s.arg.n
      gangOf s d = some g → g.placed = false → gangQueued s g = true → gangFirst s g = true → s.arg.nats = [] → s.die.disp.fifo = [f] →
      recGang f.record = true → recDomain f.record = d → recRank f.record ∉ g.reservedRanks → aclCluster s f.record = none →
      coreFree s = true → s.core.reserved = none → canServe s f.record = true →
      gangLevel g ≠ 1 ∨ gangCluster (releaseOthers d s) d = some (ownCluster s) →
      ∃ t, exec .gangPlacement s = .next t ∧ t.core.reserved = some (d, recRank f.record)
        ∧ ∃ g', gangOf t d = some g' ∧ recRank f.record ∈ g'.reservedRanks ∧ g'.placing.isSome = true)
  ∧ (∀ (s : State) (g : Gang),
      let d := BitVec.ofNat 16 s.arg.n
      gangOf s d = some g →
      (gangReady g = false → exec .gangStart s = .next s)
      ∧ (gangReady g = true → s.core.reserved = none →
          let s' := ageAll (expireAffinity s)
          (∀ c ∈ reservedCores s' d, outranked s' d c.1 = false
            ∧ ∀ f ∈ gangRecs s' d, recRank f.record = c.2 → leftCore s' f.record = true) → ∃ t, exec .gangStart s = .next t ∧ t.core = s.core
          ∧ (∀ f, f ∈ t.die.disp.fifo ↔ f ∈ s'.die.disp.fifo ∧ ¬(recGang f.record = true ∧ recDomain f.record = d))
          ∧ gangOf t d = some { g with
              placed := true, placing := none, queued := [], reservedRanks := [], remotePrio := 0
              cluster := if gangLevel g = 1 then (reservedCores s' d).head?.map (·.1 / 8) else none })
      ∧ (∀ f, gangReady g = true → s.die.disp.peers = [] → s.core.reserved = some (d, recRank f.record) → s.die.disp.fifo = [f] → recGang f.record = true →
          recDomain f.record = d → f.record.w7 ≠ 0 →
          ∃ t, exec .gangStart s = .next t ∧ t.core.restoring = some (f.record, false) ∧ t.core.reserved = none))

/-- The structural operators of the bytecode, where no operator is outstanding (R317, R318, R327). The base of a branch is log entry 65;
the causes of an ENDLOOP without LOOP and of an ALLOC of a tensor with a buffer are log entry 104. -/
def Obligations.StructuralOperatorSteps : Prop :=
  -- R317: an undefined opcode or a wrong length is a DECODE cause
  (∀ (s : State) (l : Launch), nextBc s = some (l, none) →
    exec .bytecodeNop s = .next (operRaise 10 l.pc (leAt l.prog.code l.pc 1) 0 0 0 s))
  -- a step whose instruction is not the one at the pc changes nothing
  ∧ (∀ s : State, nextBc s = none → exec .bytecodeNop s = .next s ∧ exec .loop s = .next s ∧ exec .call s = .next s)
  ∧ ∀ (s : State) (l : Launch) (i : BcIns), nextBc s = some (l, some i) → l.opers = [] →
    let past := l.pc + 8 * i.words
    let raise := fun (cause : Nat) (h : BitVec 16) => operRaise cause l.pc i.op h.toNat 0 0 s
    let sym := (i.bc.dst.extractLsb' 0 8).toFin
    let target := ((l.pc : Int) + sextInt (attrBits i.bc 1 0 32) 32 * 8).toNat
    (i.op = 0x00 → exec .bytecodeNop s = .next (upRun (fun r => { r with pc := past }) s))
    ∧ (i.op = 0x01 → exec .endOp s = .next (upSeq (fun q => { q with busy := false, run := none }) s))
    ∧ (i.op = 0x0C → exec .fuse s = .next (upRun (fun r => { r with pc := past }) s))
    ∧ (i.op = 0x0E → exec .sync s = .next (upRun (fun r => { r with pc := past }) s))
    -- DIM: the element of an INT32 tensor becomes the symbol; a negative one is a SHAPE cause
    ∧ (i.op = 0x02 → storedAt l i.bc.sa = none → exec .dim s = .next (raise 8 i.bc.sa))
    ∧ (∀ t v, i.op = 0x02 → storedAt l i.bc.sa = some t → viewOf l (seqRank s) t = some v → t.fmt = 2 →
        (holdOf l t.entry).isReady = true →
        let c := unlinear v.dims (attrBits i.bc 1 0 32)
        seqReadable s (seqIas l.prog.off (v.va + BitVec.ofNat 64 (4 * v.index c)) 4) = true →
        exec .dim s = .next (if (elemBits s l.prog.off v c).testBit 31 then raise 4 i.bc.sa
          else upRun (fun r => { r with pc := past, symbols := r.symbols.set sym (BitVec.ofNat 64 (elemBits s l.prog.off v c)) }) s))
    -- VIEW: DST is a window into SA's storage and shares its entry of the scoreboard
    ∧ (∀ a d va n v, i.op = 0x03 → storedAt l i.bc.sa = some a → tensorAt l i.bc.dst = some d → a.storage = some (va, n) →
        let offs := (attrN i.bc 1).toNat
        let d' := { d with
          storage := some (va + BitVec.ofNat 64 offs, n - offs), entry := a.entry, mode := a.mode, axis := a.axis, blkAxis := 0
          blocks := 1, whole := a.whole, pageRows := a.pageRows }
        viewOf l (seqRank s) d' = some v →
        exec .view s = .next (if n < offs + v.span then raise 4 i.bc.dst
          else upRun (fun r => { r with pc := past, tensors := r.tensors.set i.bc.dst.toNat d' }) s))
    -- ALLOC: only a dynamic tensor takes storage, from the workspace
    ∧ (∀ d, i.op = 0x04 → tensorAt l i.bc.dst = some d → d.buf ≠ 0xFFFF → exec .alloc s = .next (raise 8 i.bc.dst))
    ∧ (∀ d l' va n, i.op = 0x04 → tensorAt l i.bc.dst = some d → d.buf = 0xFFFF →
        n = ((viewOf l (seqRank s) { d with storage := some (0, 0), blocks := 1, whole := false }).map View.span).getD 0 →
        wsAlloc n 64 l = some (va, l') →
        exec .alloc s = .next (upRun (fun _ => { l' with
          pc := past
          tensors := l'.tensors.set i.bc.dst.toNat { d with
            storage := some (va, n), entry := i.bc.dst.toNat, blocks := 1, whole := false }
          scoreboard := l'.scoreboard.set i.bc.dst.toNat .empty }) s))
    -- FREE: waits until nothing reads or writes the handle, then its storage is gone
    ∧ (∀ d, i.op = 0x05 → storedAt l i.bc.dst = some d → (holdOf l d.entry).quiet = false → exec .free s = .next s)
    ∧ (∀ d, i.op = 0x05 → storedAt l i.bc.dst = some d → (holdOf l d.entry).quiet = true →
        ∃ t l', exec .free s = .next t ∧ t.die.seq.run = some l' ∧ l'.pc = past ∧ storedAt l' i.bc.dst = none)
    -- LOOP and ENDLOOP: eight deep; a count of zero skips the body
    ∧ (i.op = 0x06 → (attrN i.bc 1).getLsbD 63 = false → ((attrN i.bc 1).extractLsb' 0 32).toNat ≠ 0 →
        exec .loop s = .next (if 8 ≤ l.loopStack.length then raise 9 0
          else upRun (fun r => { r with pc := past, loopStack := (past, ((attrN i.bc 1).extractLsb' 0 32).toNat) :: r.loopStack }) s))
    ∧ (∀ body n rest, i.op = 0x07 → l.loopStack = (body, n) :: rest →
        exec .endloop s = .next (upRun (fun r => if 1 < n then { r with pc := body, loopStack := (body, n - 1) :: rest }
          else { r with pc := past, loopStack := rest }) s))
    ∧ (i.op = 0x07 → l.loopStack = [] → exec .endloop s = .next (raise 9 0))
    -- BRZ and BRNZ on a symbol, CALL and RET sixteen deep; targets count from the instruction's own address
    ∧ (i.op = 0x08 → exec .brz s = .next (upRun (fun r => { r with pc := if l.symbols.get sym = 0 then target else past }) s))
    ∧ (i.op = 0x09 → exec .brnz s = .next (upRun (fun r => { r with pc := if l.symbols.get sym = 0 then past else target }) s))
    ∧ (i.op = 0x0A → exec .call s = .next (if 16 ≤ l.callStack.length then raise 9 0
        else upRun (fun r => { r with pc := target, callStack := past :: r.callStack }) s))
    ∧ (i.op = 0x0B → l.callStack = [] → exec .bytecodeRet s = .next (raise 9 0))
    ∧ (∀ a rest, i.op = 0x0B → l.callStack = a :: rest →
        exec .bytecodeRet s = .next (upRun (fun r => { r with pc := a, callStack := rest }) s))
    -- SHARD: replicated data that becomes split stays where it is
    ∧ (∀ t, i.op = 0x0D → storedAt l i.bc.dst = some t → t.mode = 0 → (attrN i.bc 1).extractLsb' 0 2 = 1 →
        exec .shard s = .next (upRun (fun r => { r with
          pc := past
          tensors := r.tensors.set i.bc.dst.toNat { t with mode := 1, axis := attrBits i.bc 1 2 3, whole := true } }) s))

/-- The tensor operators: each enters the issue window in program order, and once it has issued its tile work writes its result
and counts down its completion block (R319, R320, R322, R323). The tile work where no recipe is given is log entry 62; elements
without a stated formula are free, log entry 21. -/
def Obligations.TensorOperatorSteps : Prop :=
  ∀ (s : State) (mk : Instr) (op : Nat) (f : State → W64 → Oper → OpOut),
    (mk, op, f) ∈ [(.matmul, 0x20, matmulOut), (.bmatmul, 0x21, matmulOut), (.conv, 0x22, byElem convElem),
      (.ewise, 0x23, byElem ewiseElem), (.reduce, 0x24, byElem reduceElem), (.softmax, 0x25, byElem softmaxElem),
      (.norm, 0x26, byElem normElem), (.gather, 0x27, gatherOut), (.scatter, 0x28, scatterOut), (.permute, 0x29, byElem permuteElem),
      (.concat, 0x2A, byElem concatElem), (.convert, 0x2B, byElem convertElem), (.quant, 0x2C, quantOut), (.attend, 0x2D, attendOut),
      (.kvappend, 0x2E, kvappendOut), (.scan, 0x2F, scanOut), (.stateop, 0x30, stateopOut), (.route, 0x31, routeOut),
      (.dispatch, 0x32, dispatchOut), (.combine, 0x33, combineOut), (.copy, 0x35, copyOut),
      (Instr.collective, 0x34, fun _ _ _ => .of []), (.kcall, 0x36, fun _ _ _ => .of [])] →
    -- R322: it enters the window behind the operators there, or waits while the window is full
    (∀ l i, (s.arg.b = false ∨ mk = .kcall) → nextBc s = some (l, some i) → i.op = op → 64 ≤ (l.opers.filter fun o => !o.issued).length →
      exec mk s = .next (seqAfter s))
    ∧ (∀ l i, (s.arg.b = false ∨ mk = .kcall) → nextBc s = some (l, some i) → i.op = op → l.prog.agents ≤ 1 →
        (l.opers.filter fun o => !o.issued).length < 64 →
        (∀ h k, (handlesOf l.prog.recipes i)[k]? = some h → if h.1 = 0 then needsRole op k = false else (storedAt l h.1).isSome) →
        ∃ o, o.op = op ∧ o.addr = l.pc ∧ o.id = l.nextOp ∧ o.issued = false ∧ o.views.length = (handlesOf l.prog.recipes i).length
          ∧ exec mk s = .next (seqAfter (upRun (fun _ => { notePool i l with
              pc := l.pc + 8 * i.words, opers := l.opers ++ [o], nextOp := l.nextOp + 1 }) s)))
    -- R319: a handle without storage is a cause of its own
    ∧ (∀ l i, (s.arg.b = false ∨ mk = .kcall) → nextBc s = some (l, some i) → i.op = op → l.opers = [] → i.bc.dst ≠ 0 →
        storedAt l i.bc.dst = none → exec mk s = .next (operRaise 8 l.pc i.op i.bc.dst.toNat 0 0 s))
    -- R320, R323: the tile work of an issued operator; R97: SCAN and STATEOP first ask the other die's controller for what it holds
    ∧ (∀ l o, s.arg.b = true → (op = 0x2F ∨ op = 0x30 → s.arg.x ≠ 1) → op ≠ 0x34 → op ≠ 0x36 → liveOper s = some (l, o) → o.op = op →
        let off := l.prog.off
        let ias := operIas off o
        let r := f s off o
        seqReadable s ias = true → seqWritable s off o.block 128 = true →
        (engBad s ias = true → exec mk s = .next (operRaise 11 o.addr o.op 0 0 9 s))
        ∧ (engBad s ias = false → o.asked = [] → farAsks s off o ≠ [] → exec mk s = .next (sendAsks l o s))
        ∧ (engBad s ias = false → (o.asked = [] → farAsks s off o = []) → (∀ x ∈ o.asked, x.2.2 ≠ none) →
          (∀ k, r.cause = some k → exec mk s = .next (operRaise k o.addr o.op o.bc.dst.toNat 0 0 s))
          ∧ (r.cause = none → engAllWritable s (r.cells.map (·.1)) = true →
            exec mk s = .next (addCounter off o (-1) (upRun (setOper { o with ran := true, badIndex := r.badIndex })
              (engWrite 0 r.cells (useUnc 0 ias (r.post s))))))))
    -- R97: the answer of the other die's controller to one of those questions is kept
    ∧ (∀ l o w k, s.arg.b = true → s.arg.x = 1 → (op = 0x2F ∨ op = 0x30) → liveOper s = some (l, o) → o.asked[s.arg.k]? = some (w, k, none) →
        ∃ t l' o', exec mk s = .next t ∧ t.die.seq.run = some l' ∧ operById l' s.arg.n = some o'
          ∧ o'.asked[s.arg.k]? = some (w, k, some (s.arg.m, s.arg.bytes)) ∧ t.die.mem = s.die.mem ∧ t.core = s.core)
    -- R319, R327: the work of an issued COLLECTIVE whose source need not be arranged: its descriptor is written and posted, and the
    -- sequencer's own count gives way to it
    ∧ (∀ l o desc l', s.arg.b = true → mk = .collective → liveOper s = some (l, o) → o.op = 0x34 → (planFor s o).arrange = none →
        wsAlloc 64 64 l = some (desc, l') → seqWritable s l.prog.off desc 64 = true → seqWritable s l.prog.off o.block 128 = true →
        ∃ t, exec mk s = .next t ∧ ∃ c p, t.die.coll.colls = s.die.coll.colls ++ [c] ∧ c.post = some p ∧ p.desc = desc ∧ p.live = false)

/-- The words of a recipe, one step each, on the operator they belong to (R324 to R326). -/
def Obligations.RecipeSteps : Prop :=
  ∀ (s : State) (l : Launch) (o : Oper) (w : W64), liveOper s = some (l, o) → l.opers = [o] → o.recipe[o.pos]? = some w → l.ended = false →
    let set := fun (x : Oper) => upRun (fun r => { r with opers := [x] }) s
    let next := { o with pos := o.pos + 1 }
    let q := (w.extractLsb' 56 4).toNat
    let code := w.extractLsb' 60 4
    let attr := (w.extractLsb' 48 4).toNat
    -- LOOPR with an immediate count: four deep
    (code = 0 → w.extractLsb' 54 2 = 0 → w.extractLsb' 0 32 ≠ 0 → exec .loopr s = .next (if 4 ≤ o.loops.length then
      operRaise 5 o.addr o.op 0 0 0 s
      else set { next with q := o.q.setIfInBounds (q % 8) 0, loops := (o.pos, q % 8, (w.extractLsb' 0 32).toNat) :: o.loops }))
    -- TILE: up to four loop counters of 16 bits
    ∧ (code = 1 →
        let part := fun (k : Nat) =>
          let c := (w.extractLsb' (4 * k) 4).toNat
          if c < 8 then (o.q.getD c 0).toNat % 2 ^ 16 * 2 ^ (16 * k) else 0
        exec .tile s = .next (set { next with q := o.q.setIfInBounds q (BitVec.ofNat 64 (part 0 + part 1 + part 2 + part 3)) }))
    -- BIND: an attribute word, or a constant
    ∧ (code = 2 → w.extractLsb' 54 2 = 1 → exec .bind s = .next (set { next with q := o.q.setIfInBounds q (attrN o.bc attr) }))
    ∧ (code = 2 → w.extractLsb' 54 2 = 2 → exec .bind s = .next (set { next with
        q := o.q.setIfInBounds q (sext64 (w.extractLsb' 0 32).toNat 32) }))
    -- EMIT: the record is queued once the counter covers it; a kernel that is not there is a cause
    ∧ (code = 3 → l.prog.kernels[(w.extractLsb' 0 16).toNat]? = none → exec .emit s = .next (operRaise 5 o.addr o.op 0 0 0 s))
    ∧ (∀ k, code = 3 → l.prog.kernels[(w.extractLsb' 0 16).toNat]? = some k → fifoFull s (recPrio (emitRec s l o w k)) = true →
        exec .emit s = .next s)
    ∧ (∀ k, code = 3 → o.op ≠ 0x36 → l.prog.kernels[(w.extractLsb' 0 16).toNat]? = some k →
        fifoFull s (recPrio (emitRec s l o w k)) = false → seqWritable s l.prog.off o.block 128 = true →
        exec .emit s = .next (seqAfter (fifoEnter false (emitRec s l o w k) (addCounter l.prog.off o 1 (set next)))))
    -- WAITH: a handle that is READY, or every task so far ended
    ∧ (code = 4 → w.extractLsb' 54 2 ≠ 0 → exec .waith s = .next (if tasksEnded s l.prog.off o then set next else s))
    -- SIGH: the writer of an extra destination is complete
    ∧ (∀ t, code = 5 → tensorAt l ((attrN o.bc attr).extractLsb' 0 16) = some t → tasksEnded s l.prog.off o = false →
        exec .sigh s = .next s)
    ∧ (∀ t, code = 5 → tensorAt l ((attrN o.bc attr).extractLsb' 0 16) = some t → tasksEnded s l.prog.off o = true →
        t.entry ∈ o.writes → l.scoreboard[t.entry]? = some (.filling 1 false) →
        exec .sigh s = .next (upRun (fun r => { r with
          opers := [{ next with writes := o.writes.erase t.entry }], scoreboard := r.scoreboard.set t.entry (.ready 0) }) s))
    -- ALLOCR and FREER: workspace of the recipe
    ∧ (∀ va l', code = 6 → wsAlloc (roundUp (w.extractLsb' 0 40).toNat (2 ^ 16)) 64 l = some (va, l') →
        exec .allocr s = .next (upRun (fun _ => { l' with opers := [{ next with
          q := o.q.setIfInBounds q va, temps := o.temps ++ [(va, roundUp (w.extractLsb' 0 40).toNat (2 ^ 16))] }] }) s))
    ∧ (code = 7 → tasksEnded s l.prog.off o = false → exec .freer s = .next s)
    ∧ (code = 7 → tasksEnded s l.prog.off o = true → (∃ x ∈ o.temps, x.1 = o.q.getD q 0) →
        exec .freer s = .next (upRun (fun r => { r with
          opers := [{ next with temps := o.temps.filter fun x => x.1 != o.q.getD q 0 }]
          wsUsed := r.wsUsed.filter fun u => u.1 != o.q.getD q 0 }) s))
    -- COLLR: a descriptor is written and posted, and the counter covers it
    ∧ (∀ desc l', code = 8 → wsAlloc 64 64 l = some (desc, l') → seqWritable s l.prog.off desc 64 = true →
        seqWritable s l.prog.off o.block 128 = true →
        ∃ t, exec .collr s = .next t ∧ ∃ c p, t.die.coll.colls = s.die.coll.colls ++ [c] ∧ c.post = some p ∧ p.desc = desc ∧ p.live = false)
    -- ENDR: the innermost loop goes on or closes
    ∧ (∀ p i n rest, code = 9 → o.loops = (p, i, n) :: rest → exec .endr s = .next (set
        (if (o.q.getD i 0).toNat + 1 < n then { o with q := o.q.setIfInBounds i (o.q.getD i 0 + 1), pos := p + 1 }
         else { next with loops := rest })))

/-- The load, the start and the stop of a program, the completion of operators, and reports (R311, R321, R323, R330 to R332). -/
def Obligations.SequencerSteps : Prop :=
  -- R332: a loaded program starts while none runs
  (∀ (s : State) (p : Program), s.die.seq.busy = false → (s.die.seq.programs.find? fun p => p.image == s.die.seq.sqimg) = some p →
    ∃ t l, exec .sqStart s = .next t ∧ t.die.seq.busy = true ∧ t.die.seq.run = some l ∧ l.prog = p ∧ l.pc = p.entry
      ∧ l.symbols = Vector.replicate 256 0 ∧ l.opers = [] ∧ l.loopStack = [] ∧ l.callStack = [] ∧ t.core = s.core)
  ∧ (∀ s : State, s.die.seq.busy = true → exec .sqStart s = .next s)
  -- R331: the program stops; its records that have not started are discarded
  ∧ (∀ (s : State) (l : Launch), s.die.seq.run = some l → ∃ t, exec .sqStop s = .next t ∧ t.die.seq.busy = false
      ∧ t.die.seq.fault = true ∧ t.die.seq.run = none ∧ t.die.seq.reports = s.die.seq.reports
      ∧ ∀ f, f ∈ t.die.disp.fifo ↔ f ∈ s.die.disp.fifo ∧ ofProgram l.prog f.record = false)
  ∧ (∀ s : State, s.die.seq.run = none → exec .sqStop s = .next s)
  -- R330, R332: reports are read in order
  ∧ (∀ (s : State) (r : Report) (rest : List Report), s.die.seq.reports = r :: rest →
      ∃ t, exec .sqPopReport s = .next t ∧ t.die.seq.reports = rest ∧ t.die.seq.sqrep.get 0 = r.addr ∧ t.die.seq.sqrep.get 2 = r.tile
        ∧ t.die.seq.sqrep.get 1 = BitVec.ofNat 64 (r.handle.toNat * 2 ^ 16 + r.cause.toNat * 2 ^ 8 + r.opcode.toNat)
        ∧ t.die.seq.sqrep.get 3 = r.detail)
  -- R330, R331: a cause is reported, and stops the program; INDEX does not
  ∧ (∀ (s : State) (r : Report) (rest : List (Report × W64)) (l : Launch), s.die.seq.raised = (r, 0) :: rest →
      s.die.seq.run = some l → s.die.seq.reports.length < 16 →
      (r.cause ≠ 7 → ∃ t, exec .programFaultStop s = .next t ∧ t.die.seq.reports = s.die.seq.reports ++ [r] ∧ t.die.seq.run = none
        ∧ t.die.seq.fault = true ∧ t.die.seq.raised = rest)
      ∧ (r.cause = 7 → l.opers = [] → l.ended = false → exec .programFaultStop s
          = .next (upSeq (fun q => { q with raised := rest, reports := q.reports ++ [r] }) s)))
  ∧ (∀ (s : State) (r : Report) (l : Launch), s.die.seq.raised = [(r, 0)] → s.die.seq.run = some l → s.die.seq.reports.length = 16 →
      r.cause ≠ 7 → ∃ t, exec .programFaultStop s = .next t ∧ t.die.seq.reports = s.die.seq.reports
        ∧ t.die.seq.lost = min 1023 (s.die.seq.lost + 1))
  -- R321, R323: a notice completes its operator: its destination is READY, its blocks are free
  ∧ (∀ (s : State) (l : Launch) (o : Oper) (e : Nat), s.die.seq.run = some l → l.opers = [o] → o.issued = true → l.ended = false →
      s.die.seq.notices = [o.block] → o.reads = [] → o.writes = [e] → l.scoreboard[e]? = some (.filling 1 false) → o.badIndex = false →
      ∃ t l', exec .operatorComplete s = .next t ∧ t.die.seq.notices = [] ∧ t.die.seq.run = some l' ∧ l'.opers = []
        ∧ l'.scoreboard[e]? = some (.ready 0) ∧ (∀ u ∈ l'.wsUsed, u.1 ≠ o.block ∧ u.1 ≠ o.operands))
  -- R311, R316, R324: an image that passes every check is kept in place of one at the same address, its recipes in the recipe store; the
  -- first check that fails is answered with its code and the offset of what it refuses, with the cause RECIPE where it is a recipe's (R326)
  ∧ (∀ s : State,
      let p := imgProgram s.arg.bytes s.arg
      (match refusal s s.arg.bytes p with
       | none => ∃ t at0, exec .visynLoad s = .next t ∧ t.core.regs = s.core.regs ∧ t.die.seq.run = s.die.seq.run
          ∧ p.image = s.arg.record.w0 ∧ p.off = s.arg.record.w1 ∧ p.workspace = s.arg.record.w2
          ∧ t.die.seq.programs = (s.die.seq.programs.filter fun x => x.image != p.image) ++ [{ p with recipeBase := at0 }]
          ∧ ∀ i w, (p.recipes.flatMap (·.2))[i]? = some w → (t.die.seq.recipeStore.find? fun x => x.1 == at0 + i) = some (at0 + i, w)
       | some (c, o) => exec .visynLoad s
          = .next (s.send (.loadRefused c o (if recipeRefused s.arg.bytes c o then 5 else 0))))
      ∧ (s.arg.bytes.take 4 ≠ [0x56, 0x53, 0x59, 0x4E] → refusal s s.arg.bytes p = some (1, 0)))

/-- The Toesque links, the group table and the host's window (R362 to R369, R372). The byte order of the CRC and of rates is log
entry 31, the rates a port asks for log entry 97, an unreadable member list log entry 98. -/
def Obligations.LinkSteps : Prop :=
  -- R364 to R366: a data flit leaves on the port its route names, numbered, with its CRC, and is kept for replay
  (∀ (s : State) (n : Nat) (p : Port), s.arg.b = false → s.arg.flit.kind = 0 → s.arg.flit.vc.toNat < 5 → s.arg.flit.dst ≠ s.core.agent →
    s.arg.flit.ttl ≠ 0 → portTo s s.arg.flit.dst s.arg.flit.vc = some n → portAt s n = some p →
    let g0 := { s.arg.flit with seq := p.nextSeq, ack := p.expSeq - 1, payload := fullPayload s.arg.flit.payload }
    let g := { g0 with crc := flitCrc g0 }
    (p.up = true → p.training = false → p.resend = 0 → p.replay.length < 2048 → paced p s.arg.flit.vc s.cycle = true →
      (∀ h ∈ p.held, h.vc ≠ s.arg.flit.vc) →
      ∃ t p', exec .flitSend s = .next t ∧ t.outbox = s.outbox ++ [.flit (BitVec.ofNat 6 n) g] ∧ portAt t n = some p'
        ∧ p'.replay = p.replay ++ [g] ∧ p'.nextSeq = p.nextSeq + 1 ∧ p'.expSeq = p.expSeq ∧ t.core = s.core
        ∧ ∀ m, m ≠ n → portAt t m = portAt s m)
    -- R364, R365: where the replay buffer is full or the rate is used up the port holds it, and sends it when it can
    ∧ (p.up = true → (p.replay.length = 2048 ∨ paced p s.arg.flit.vc s.cycle = false) →
      exec .flitSend s = .next (setPort n { p with held := p.held ++ [s.arg.flit] } s)))
  ∧ (∀ (s : State) (p : Port) (f : Flit), s.arg.b = true → s.arg.m = 1 → portAt s s.arg.n = some p →
      (p.held.find? fun f => f.vc == BitVec.ofNat 3 s.arg.k) = some f → p.up = true → p.training = false → p.resend = 0 →
      p.replay.length < 2048 → paced p (BitVec.ofNat 3 s.arg.k) s.cycle = true →
      ∃ t p' g, exec .flitSend s = .next t ∧ t.outbox = s.outbox ++ [.flit (BitVec.ofNat 6 s.arg.n) g] ∧ portAt t s.arg.n = some p'
        ∧ p'.held = p.held.erase f ∧ p'.replay = p.replay ++ [g] ∧ g.seq = p.nextSeq ∧ g.dst = f.dst ∧ flitWhole g = true)
  -- R364: a damaged flit is answered with a nak, and a duplicate is dropped
  ∧ (∀ (s : State) (p : Port), portAt s s.arg.n = some p → p.up = true →
      (flitWhole s.arg.flit = false → exec .flitReceive s = .next (s.send (.nak (BitVec.ofNat 6 s.arg.n) p.expSeq)))
      ∧ (flitWhole s.arg.flit = true → s.arg.flit.kind = 0 → s.arg.flit.vc.toNat < 5 → s.arg.flit.seq ≠ p.expSeq →
          (p.expSeq - 1 - s.arg.flit.seq).toNat < 2048 →
          exec .flitReceive s = .next (setPort s.arg.n (takeAck s.arg.flit.ack p) s))
      -- R363: a reserved VC or KIND is counted and discarded
      ∧ (flitWhole s.arg.flit = true → (5 ≤ s.arg.flit.vc.toNat ∨ s.arg.flit.kind = 3) → ∃ t, exec .flitReceive s = .next t
          ∧ t.die.links.ports = s.die.links.ports ∧ t.outbox = s.outbox
          ∧ t.die.links.tqint.getD s.arg.n 0 = satInc (s.die.links.tqint.getD s.arg.n 0))
      -- R364, R365: the expected flit is held and acknowledged, and the next number is expected; one that finds 512 flits of its
      -- virtual channel held is dropped, and its number is expected still
      ∧ (flitWhole s.arg.flit = true → s.arg.flit.kind = 0 → s.arg.flit.vc.toNat < 5 → s.arg.flit.seq = p.expSeq →
          (chipOf s.arg.flit.dst = chipOf s.core.agent ∨ 1 < s.arg.flit.ttl.toNat) →
          (occupancy p s.arg.flit.vc < 512 → ∃ t p' g more, exec .flitReceive s = .next t
            ∧ t.outbox = s.outbox ++ .flit (BitVec.ofNat 6 s.arg.n) g :: more ∧ g.kind = 1 ∧ g.ack = s.arg.flit.seq ∧ flitWhole g = true
            ∧ portAt t s.arg.n = some p' ∧ p'.queue = p.queue ++ [s.arg.flit] ∧ p'.expSeq = p.expSeq + 1 ∧ p'.nextSeq = p.nextSeq)
          ∧ (512 ≤ occupancy p s.arg.flit.vc → exec .flitReceive s = .next (setPort s.arg.n (takeAck s.arg.flit.ack p) s)))
      -- R367: a flit for another chip whose TTL has run out is dropped and counted
      ∧ (flitWhole s.arg.flit = true → s.arg.flit.kind = 0 → s.arg.flit.vc.toNat < 5 → s.arg.flit.seq = p.expSeq →
          chipOf s.arg.flit.dst ≠ chipOf s.core.agent → s.arg.flit.ttl.toNat ≤ 1 →
          ∃ t, exec .flitReceive s = .next t ∧ t.outbox = s.outbox
            ∧ t.die.links.tqint.getD s.arg.n 0 = satInc (s.die.links.tqint.getD s.arg.n 0)))
  -- R366, R367: the oldest flit of a virtual channel that a port holds is delivered here, or goes out on the port of its own entry with
  -- one hop less
  ∧ (∀ (s : State) (p : Port) (f : Flit), s.arg.b = true → s.arg.m = 0 → portAt s s.arg.n = some p →
      (p.queue.find? fun f => f.vc == BitVec.ofNat 3 s.arg.k) = some f →
      (f.dst = s.core.agent → ∃ t more, exec .flitSend s = .next t ∧ t.outbox = s.outbox ++ .deliver f :: more
        ∧ portAt t s.arg.n = some { p with queue := p.queue.erase f })
      ∧ (∀ (q : Port) (k : Nat), chipOf f.dst ≠ chipOf s.core.agent → routePort s (chipOf f.dst) f.vc = some k → k ≠ s.arg.n →
          portAt s k = some q → q.up = true → q.training = false → q.resend = 0 → q.replay.length < 2048 → paced q f.vc s.cycle = true →
          (∀ h ∈ q.held, h.vc ≠ f.vc) →
          ∃ t g more, exec .flitSend s = .next t ∧ t.outbox = s.outbox ++ .flit (BitVec.ofNat 6 k) g :: more ∧ g.ttl = f.ttl - 1
            ∧ g.dst = f.dst ∧ g.src = f.src ∧ g.vc = f.vc ∧ g.payload = fullPayload f.payload ∧ g.seq = q.nextSeq ∧ flitWhole g = true
            ∧ portAt t s.arg.n = some { p with queue := p.queue.erase f }))
  -- R364, R365: a nak makes the sender replay what it keeps, in order and with the ACK of now, as far as its rates let it; the sixteenth
  -- without progress retrains the port
  ∧ (∀ (s : State) (p : Port), portAt s s.arg.n = some p → p.up = true → p.training = false →
      let p1 := takeAck (BitVec.ofNat 12 s.arg.m - 1) p
      (p1.naks < 15 → ∃ t p' k, exec .nak s = .next t ∧ portAt t s.arg.n = some p' ∧ k + p'.resend = p1.replay.length
        ∧ p'.replay = p1.replay ∧ p'.naks = p1.naks + 1 ∧ p'.nextSeq = p.nextSeq ∧ ((∀ v : Fin 8, p.rates[v] = none) → p'.resend = 0)
        ∧ t.outbox = s.outbox ++ (p1.replay.take k).map fun f =>
            .flit (BitVec.ofNat 6 s.arg.n) { f with ack := p.expSeq - 1, crc := flitCrc { f with ack := p.expSeq - 1 } })
      ∧ (15 ≤ p1.naks → ∃ t, exec .nak s = .next t ∧ t.outbox = s.outbox
        ∧ portAt t s.arg.n = some { p1 with naks := p1.naks + 1, training := true }))
  -- R364, R368: retraining ends with a replay, or the port goes down
  ∧ (∀ (s : State) (p : Port), portAt s s.arg.n = some p → p.up = true → p.training = true →
      let p1 := takeAck (BitVec.ofNat 12 s.arg.m - 1) p
      (s.arg.b = false → ∃ t p' k, exec .retrainComplete s = .next t ∧ portAt t s.arg.n = some p' ∧ k + p'.resend = p1.replay.length
        ∧ p'.training = false ∧ p'.naks = 0 ∧ p'.replay = p1.replay ∧ ((∀ v : Fin 8, p.rates[v] = none) → p'.resend = 0)
        ∧ t.outbox = s.outbox ++ (p1.replay.take k).map fun f =>
            .flit (BitVec.ofNat 6 s.arg.n) { f with ack := p.expSeq - 1, crc := flitCrc { f with ack := p.expSeq - 1 } })
      ∧ (s.arg.b = true → exec .retrainComplete s = exec .portDown s))
  -- R368: a port that goes down discards its replay buffer and what waits behind it, and raises an error record
  ∧ (∀ (s : State) (p : Port), portAt s s.arg.n = some p → p.up = true →
      ∃ t, exec .portDown s = .next t ∧ portAt t s.arg.n = some { p with
          up := false, training := false, replay := [], naks := 0, held := [], resend := 0 }
        ∧ t.die.errors = s.die.errors ++ [⟨.portDown, s.arg.n, 0, s.core.agent, .none⟩] ∧ t.outbox = s.outbox)
  -- R365: the drain rates of a rate flit, VC 0 first; R362, R363: one that is damaged or has a reserved VC is none
  ∧ (∀ (s : State) (p : Port), portAt s s.arg.n = some p → p.up = true →
      (flitWhole s.arg.flit = true → s.arg.flit.kind = 1 → s.arg.flit.vc.toNat < 5 → s.arg.flit.units ≠ 0 →
        ∃ t p', exec .rateFlit s = .next t ∧ portAt t s.arg.n = some p'
        ∧ (∀ i : Nat, (h : i < 5) → p'.rates[i] = some (BitVec.ofNat 16 (ofBytes ((s.arg.flit.payload.drop (2 * i)).take 2))))
        ∧ p'.nextSeq = p.nextSeq ∧ p'.expSeq = p.expSeq)
      ∧ (flitWhole s.arg.flit = false → exec .rateFlit s = .next (s.send (.nak (BitVec.ofNat 6 s.arg.n) p.expSeq)))
      ∧ (flitWhole s.arg.flit = true → 5 ≤ s.arg.flit.vc.toNat → ∃ t, exec .rateFlit s = .next t ∧ t.die.links.ports = s.die.links.ports
          ∧ t.die.links.tqint.getD s.arg.n 0 = satInc (s.die.links.tqint.getD s.arg.n 0)))
  -- R369: a group entry is written with the CRC of its member list; while a collective uses the entry the write waits
  ∧ (∀ s : State, s.arg.b = false → s.arg.n < 256 → s.die.coll.deferred = [] → engMissing s 0 0 (listIas s.arg.x s.arg.y) = [] →
      (entryUsed s s.arg.n = false → engBad s (listIas s.arg.x s.arg.y) = false →
        ∃ t g, exec .groupTableWrite s = .next t ∧ t.die.coll.groups.head? = some (s.arg.n, g) ∧ g.w1 = s.arg.y
          ∧ g.w0.getLsbD 63 = s.arg.x.getLsbD 63 ∧ g.w0.extractLsb' 32 11 = s.arg.x.extractLsb' 32 11 ∧ g.w0.extractLsb' 43 20 = 0
          ∧ g.w0.extractLsb' 0 32 = crc32c ((listIas s.arg.x s.arg.y).map fun a => s.die.mem.read a))
      ∧ (entryUsed s s.arg.n = true → ∃ t, exec .groupTableWrite s = .next t ∧ t.die.coll.groups = s.die.coll.groups
          ∧ t.die.coll.deferred = [(s.arg.n, s.arg.x, s.arg.y)]))
  -- R372, R375: the host reads STEPID and BRSTAT, rings the doorbell, and reaches nothing outside BAR0
  ∧ (∀ s : State,
      (s.arg.n = 0 → s.arg.write = none → exec .hostBarAccess s = .next (s.send (.readData 0x90B00)))
      ∧ (s.arg.n = 0x1000 → s.arg.write = none → exec .hostBarAccess s = .next (s.send (.readData (brstat s.die.boot))))
      ∧ (∀ v, 0x8000 ≤ s.arg.n → s.arg.n < 0x9000 → s.arg.write = some v →
          exec .hostBarAccess s = .next (s.send (.doorbell (s.arg.n - 0x8000) v)))
      ∧ (2 ^ 20 < s.arg.n + 8 → exec .hostBarAccess s = .next (s.send .unsupported)))

/-- Bring-up, quotes, turnover, power and the management registers (R6, R374 to R382). The layout of a quote's bytes and of signed
images is log entry 34, the wake groups log entry 35, what a turnover keeps log entry 103. -/
def Obligations.BootAndPowerSteps : Prop :=
  -- R374: a cold reset whose stages verify leaves the core idle with MENTRY written, and BRSTAT READY
  (∀ s : State,
    let b0 := { resetBoot with fuses := s.die.boot.fuses, draws := s.die.boot.draws, degr := s.arg.b || !s.arg.nats.isEmpty }
    (s.arg.fail = none → (measureStages 4 s.arg.images s.arg.keys b0).2 = none → s.arg.nats.contains s.core.cid.toNat = false →
      ∃ t, exec .coldReset s = .next t ∧ t.core.run = .idle ∧ t.core.sys.mentry = s.arg.x &&& ~~~3 ∧ t.core.regs = resetRegs
      ∧ t.core.task = none ∧ t.die.mem = [] ∧ t.core.spad = [] ∧ t.die.boot.ready = true ∧ t.die.boot.safe = false
      ∧ t.die.boot.step = 8 ∧ t.die.boot.degr = (s.arg.b || !s.arg.nats.isEmpty)
      ∧ t.die.boot.mreg = (measureStages 4 s.arg.images s.arg.keys b0).1.mreg)
    -- R375, R376: a step that fails puts the device into the safe state, with the step, the code and the unit in BRSTAT; a stage that does
    -- not verify or is absent has code 1; what was measured before stays
    ∧ (∀ st code unit : Nat, s.arg.fail = some (st, code, unit) → (measureStages (stagesBy st) s.arg.images s.arg.keys b0).2 = none →
      ∃ t, exec .coldReset s = .next t ∧ t.core.run = .reset ∧ t.die.boot.ready = false ∧ t.die.boot.safe = true
        ∧ t.die.boot.step = BitVec.ofNat 8 st ∧ t.die.boot.code = BitVec.ofNat 8 code ∧ t.die.boot.unit = BitVec.ofNat 16 unit
        ∧ t.die.boot.mreg = (measureStages (stagesBy st) s.arg.images s.arg.keys b0).1.mreg)
    ∧ (∀ k, s.arg.fail = none → (measureStages 4 s.arg.images s.arg.keys b0).2 = some k →
      ∃ t, exec .coldReset s = .next t ∧ t.core.run = .reset ∧ t.die.boot.safe = true ∧ t.die.boot.code = 1
        ∧ t.die.boot.step = BitVec.ofNat 8 (stageStep k)))
  -- R339, R374: a core reset to zero enters the monitor at MENTRY
  ∧ (∀ s : State, s.arg.b = false → mentryOk s.core.sys.mentry = true →
      ∃ t, exec .coreResetToZero s = .next t ∧ t.core.mon = true ∧ t.core.run = .running
        ∧ (stream t).q0 = s.core.sys.mentry &&& ~~~3 ∧ t.core.regs = resetRegs ∧ t.core.spad = [] ∧ t.core.agent = s.core.agent
        ∧ t.core.cid = s.core.cid ∧ t.core.sys.mentry = s.core.sys.mentry ∧ t.die = s.die)
  ∧ (∀ s : State, s.arg.b = false → mentryOk s.core.sys.mentry = false →
      ∃ t, exec .coreResetToZero s = .next t ∧ t.core.run = .stopped)
  -- R377: a quote over the nonce opens key slot 511
  ∧ (∀ s : State, s.arg.bytes.length = 48 →
      let body := s.arg.bytes ++ s.die.boot.mreg.toList.flatMap digestBytes ++ toBytes 8 stepId.toNat ++ digestBytes deviceId
        ++ toBytes 8 (brstat s.die.boot).toNat ++ toBytes 8 s.die.boot.turnovers
      ∃ t, exec .attestationQuote s = .next t ∧ t.die.boot.quoted = true
        ∧ t.outbox = s.outbox ++ [.quote body (deviceSign s.die.boot.draws body)] ∧ t.core = s.core ∧ t.die.mem = s.die.mem)
  -- R381: after a turnover no byte of the tenant is left, and the count of turnovers has grown
  ∧ (∀ s : State, s.arg.fail = none →
      (measureStages 4 s.arg.images s.arg.keys { s.die.boot with
        mreg := Vector.replicate 4 0, turnovers := s.die.boot.turnovers + 1, quoted := false, step := 9
        draws := s.die.boot.draws + 512, degr := s.die.boot.degr || s.arg.b }).2 = none → s.arg.nats = [] →
      ∃ t, exec .tenantTurnover s = .next t ∧ t.die.mem = [] ∧ t.core.spad = [] ∧ t.core.regs = resetRegs ∧ t.core.mbox = []
        ∧ t.core.snap = [] ∧ t.core.task = none ∧ t.die.disp.fifo = [] ∧ t.die.disp.gangs = [] ∧ t.die.seq.programs = []
        ∧ t.die.boot.turnovers = s.die.boot.turnovers + 1 ∧ t.die.links.tqint = Vector.replicate 37 0)
  -- R382: the stages of the power controller, the gating of arrays, and the thermal trip
  ∧ (∀ s : State, exec .powerLimit s
      = .next (upBoot (fun b => { b with powerStage := if b.powerStage = 3 then 3 else b.powerStage + 1 }) s)
      ∧ exec .powerAverageFalls s = .next (upBoot (fun b => { b with powerStage := 0 }) s))
  ∧ (∀ s : State, s.arg.b = false → s.core.mxRun = none → s.core.mxQueue = [] →
      (s.cycle < s.die.boot.arraySince + 65536 → exec .arrayPowerGate s = .next s)
      ∧ (s.die.boot.arraySince + 65536 ≤ s.cycle → ∃ t, exec .arrayPowerGate s = .next t
          ∧ BitVec.ofNat 9 (packageCore s) ∈ t.die.boot.gated ∧ t.core = s.core))
  ∧ (∀ s : State, s.arg.b = false →
      (s.cycle < s.die.boot.wakeSince + 8400 → exec .arrayWake s = .next s)
      ∧ (s.die.boot.wakeSince + 8400 ≤ s.cycle → ∀ k ∈ arraysAsking s, k.toNat % 8 = s.arg.n % 8 →
          ∃ t, exec .arrayWake s = .next t ∧ k ∉ t.die.boot.gated ∧ t.die.boot.wakeSince = s.cycle
            ∧ (∀ j ∈ s.die.boot.gated, j.toNat % 8 ≠ s.arg.n % 8 → j ∈ t.die.boot.gated) ∧ t.core = s.core))
  ∧ (∀ s : State, ∃ t, exec .thermalTrip s = .next t ∧ t.die.boot.safe = true ∧ t.die.boot.ready = false ∧ t.die.boot.code = 7
      ∧ t.die.boot.step = s.die.boot.step ∧ t.core.run = .reset)
  -- R6: a management register takes its writable fields
  ∧ (∀ s : State,
      (∀ k, s.arg.reg = .mkdat k → s.die.keys.busy = false → ∃ t, exec .registerWrite s = .next t ∧ t.die.keys.dat[k.toNat] = s.arg.x
        ∧ ∀ j : Nat, (h : j < 8) → j ≠ k.toNat → t.die.keys.dat[j] = s.die.keys.dat[j])
      ∧ (s.arg.reg = .htbase →
          exec .registerWrite s = .next (s.upDie fun d => { d with xlate := { d.xlate with htbase := s.arg.x } }))
      ∧ (s.arg.reg = .hpctl → ∃ t, exec .registerWrite s = .next t ∧ t.die.xlate.hpEn = s.arg.x.getLsbD 63
          ∧ t.die.xlate.hpThresh = s.arg.x.extractLsb' 32 16 ∧ t.die.xlate.hpEpoch = s.arg.x.extractLsb' 16 8
          ∧ t.die.xlate.hpSample = s.arg.x.extractLsb' 4 4 ∧ t.die.xlate.hpskip = s.die.xlate.hpskip)
      ∧ (s.arg.reg = .sqimg → exec .registerWrite s = .next (upSeq (fun q => { q with sqimg := s.arg.x }) s))
      ∧ (s.arg.reg = .sqctl → ∃ t, exec .registerWrite s = .next t ∧ t.die.seq.rank = s.arg.x.extractLsb' 37 10
          ∧ t.die.seq.prio = s.arg.x.extractLsb' 3 7 ∧ t.die.seq.fault = (s.die.seq.fault && !s.arg.x.getLsbD 62)
          ∧ t.die.seq.busy = s.die.seq.busy)
      ∧ (∀ chip, s.arg.reg = .tqroute chip → ∃ t, exec .registerWrite s = .next t
          ∧ t.die.links.routes.head? = some (chip.toNat, s.arg.x &&& 0x8000000000003F3F))
      ∧ (s.arg.reg = .errwin → s.arg.x.extractLsb' 40 8 ≠ 0 → ∃ t, exec .registerWrite s = .next t
          ∧ readErrwin t.die.boot = s.arg.x &&& 0x0000FFFFFFFFFFFF)
      ∧ (s.arg.reg = .grarena → s.die.grotto.seqs = [] → s.arg.x.getLsbD 63 = true → 0 < (s.arg.x.extractLsb' 46 8).toNat →
          (s.arg.x.extractLsb' 46 8).toNat ≤ 128 → ∃ t, exec .registerWrite s = .next t
            ∧ readArena t.die.grotto = s.arg.x &&& 0x803FFFFFC0000000)
      ∧ (s.arg.reg = .grarena → s.die.grotto.seqs ≠ [] → exec .registerWrite s = .next s))

/-! ## Encodings -/

/-- R142 to R148: words written out from the encoding tables, by slot, and one word for each way a syllable is refused. -/
def Obligations.DecodedWords : Prop :=
  decodeSlot 0 false false 0x0200C303 none = .ok (.add ⟨.s0, ⟨false, 0⟩, 6, 6, .imm 1⟩)
  ∧ decodeSlot 1 false false 0x34012507 none = .ok (.movh ⟨.s1, ⟨false, 0⟩, 9, 10, .imm 3⟩)
  ∧ decodeSlot 0 false false 0x82012028 none = .ok (.mts ⟨.s0, ⟨false, 0⟩, 9, 0x014⟩)
  ∧ decodeSlot 4 true false 0x720110C6 (some 5) = .ok (.vcvtq ⟨.v2e, ⟨false, 0⟩, 2, 4, 6, .w256, .e4m3, 5, false⟩)
  ∧ decodeSlot 6 false false 0x5800A202 (some 0x83) = .ok (.vaor ⟨.m0, ⟨false, 0⟩, 5, 4, 0, 2, 0, 2, 3⟩)
  ∧ decodeSlot 8 false false 0x02003080 none = .ok (.mma ⟨⟨false, 0⟩, 0, 1, true, 0, true, false, false⟩)
  ∧ decodeSlot 8 false false 0x0A0110A0 none = .ok (.mread ⟨⟨false, 0⟩, 2, true, 5⟩)
  ∧ decodeSlot 9 false false 0x2A014000 (some 0x107) = .ok (.semwait ⟨⟨false, 0⟩, 10, 7, true⟩)
  ∧ decodeSlot 10 false false 0x0600F000 none = .ok (.kfill ⟨⟨false, 0⟩, 7, true⟩)
  ∧ decodeSlot 11 false false 0x041807FD none = .ok (.bra ⟨⟨false, 3⟩, 0x7FD⟩)
  ∧ decodeSlot 0 false false 0x00000001 none ≠ .ok (.nop 0) ∧ decodeSlot 0 false false 0 none = .ok (.nop 0)
  ∧ (∀ i, decodeSlot 2 false false 0x5800A202 (some 0x83) ≠ .ok i) ∧ (∀ i, decodeSlot 6 false false 0x5800A202 none ≠ .ok i)
  ∧ decodeBundle 0x02000001 [0x0200C303] = .ok [.add ⟨.s0, ⟨false, 0⟩, 6, 6, .imm 1⟩]
  ∧ decodeBundle 0x01000000 [] = .ok [] ∧ decodeBundle 0x03000001 [0x0200C303] = .illegalBundle

/-- Decode and encode agree: the bundle that holds a well-formed instruction alone decodes to it, whatever its operands, and every
instruction with a slot has such a bundle. -/
def Obligations.EncodeDecodeRoundTrip : Prop :=
  ∀ i : Instr, i.wf = true →
    ((slotOf i).isSome = true → (encodeSolo i).isSome = true)
    ∧ ∀ ws, encodeSolo i = some ws → decodeBundle (ws.headD 0) ws.tail = .ok [i]

/-! ## The machine -/

/-- The state after power-on: the values of the Reset columns, both memories empty and in canonical form (R6, R42, R140, R182,
R301, R303, R304, R309, R332, R366, R375, R378). Registers without a Reset value are not named here. The canonical empty memories
read zero, log entry 1. -/
def Obligations.ResetState : Prop :=
  Inv State.reset
  ∧ (let y := State.reset.core.sys
     y.cause = 0 ∧ y.fmask = 0 ∧ y.faddr = 0 ∧ y.tstate = 0 ∧ y.mentry = 0 ∧ y.vrm = 0 ∧ y.fpsr = 0 ∧ y.thr = 0 ∧ y.qcnt = 0
      ∧ y.lpw = 0 ∧ y.lpe = 0 ∧ y.hintdrop = 0 ∧ y.collide = 0 ∧ y.dommem = 1#64 <<< 48 ∧ y.age = 0 ∧ y.preemptDelta = 0
      ∧ y.waitpark = 0x10000 ∧ y.bartimeout = 0x40000000 ∧ (∀ k : Fin 128, y.quant[k] = 0x100000)
      ∧ (∀ k : Fin 24, y.win[k] = 0) ∧ ∀ k : Fin 4, y.spw[k] = 0)
  ∧ (let x := State.reset.die.xlate
     x.hpEn = false ∧ x.hpThresh = 64 ∧ x.hpEpoch = 20 ∧ x.hpSample = 6 ∧ x.buffer = [])
  ∧ State.reset.die.links.routes = [] ∧ State.reset.die.coll.groups = [] ∧ State.reset.die.boot.errCount = 8
  ∧ State.reset.die.boot.errSpan = 0x00E14E3900 ∧ brstat State.reset.die.boot = 0
  ∧ State.reset.die.seq.busy = false ∧ State.reset.die.seq.fault = false ∧ State.reset.die.grotto.en = false
  ∧ State.reset.die.keys.busy = false ∧ State.reset.core.run = .reset

/-- The invariant of the byte stores: whatever a step does, global memory and the scratchpad of the core keep their canonical form. -/
def Obligations.StepKeepsInv : Prop :=
  ∀ s t : State, Inv s → step s = .next t → Inv t

/-- R148, R150, R157, R158, R335, R375, R405: the bytes at the program counter that decode to one instruction run it; what comes
before the issue of a bundle, and what a bundle that does not decode does. Which enabled step of an engine comes next is a free
value, log entry 8. -/
def Obligations.StepRunsDecoded : Prop :=
  -- a step is what the outside brings, else the step of the boundary, else a step of an engine, else the issue of a bundle
  (∀ (s : State) (i : Instr) (a : EventArg) (rest : List (Instr × EventArg)), s.inputs = (i, a) :: rest →
      (isStep i = true → s.die.boot.safe = false ∨ i ∈ [.coldReset, .hostBarAccess, .attestationQuote] →
        step s = exec i { s with inputs := rest, arg := a, tick := s.tick + 1 })
      ∧ (isStep i = false ∨ s.die.boot.safe = true ∧ i ∉ [.coldReset, .hostBarAccess, .attestationQuote] →
        step s = .next { s with inputs := rest, tick := s.tick + 1 }))
  ∧ (∀ s : State, s.inputs = [] → s.die.boot.safe = true → step s = .fault .unpowered)
  ∧ (∀ (s : State) (i : Instr), s.inputs = [] → s.die.boot.safe = false → due s = some i →
      step s = exec i { s with arg := EventArg.blank, tick := s.tick + 1 })
  -- R245: the matrix unit keeps its cycles; R105: then the boundary's step is due, but while the other die's controller is asked about a
  -- position restart
  ∧ (∀ s : State, (∀ e, s.core.mxRun = some e → s.core.mxLeft = 0 → due s = some .matrixComplete)
      ∧ (s.core.mxRun = none → s.core.mxQueue ≠ [] → BitVec.ofNat 9 (packageCore s) ∉ s.die.boot.gated → due s = some .matrixStart)
      ∧ (matrixDue s = none → s.core.posr ≠ some none → due s = boundary s) ∧ (matrixDue s = none → s.core.posr = some none → due s = none))
  ∧ (∀ s : State, s.inputs = [] → s.die.boot.safe = false → due s = none →
      step s = match chosen s with
        | some c => exec c.1 { s with arg := c.2, tick := s.tick + 1 }
        | none => exec .bundleIssue { s with tick := s.tick + 1 })
  -- R156: before anything else a link value whose header word can be read now is formed, which changes nothing but lr and its way there
  ∧ (∀ s : State, (s.core.run = .running → boundary s = none → s.die.boot.powerStage ≠ 3 →
        exec .bundleIssue s = exec .bundleIssue (formLink s))
      ∧ formLink (formLink s) = formLink s ∧ (s.core.linkDue = none → formLink s = s) ∧ (formLink s).die = s.die
      ∧ (∀ r, r ≠ 62 → readS (formLink s) r = readS s r) ∧ stream (formLink s) = stream s)
  -- the bundle at the head of the stream holds one instruction: its issue is exec of that instruction, where its code lines have
  -- entered the caches; then what the fetch has been told is taken, and the hints that may work do
  ∧ (∀ (s : State) (i : Instr) (ws : List W32), formLink s = s → s.core.run = .running → boundary s = none → s.die.boot.powerStage ≠ 3 →
      (stream s).annul.getLsbD 0 = false → issueLook s = .got ws → decodeBundle (ws.headD 0) ws.tail = .ok [i] →
      (issueOf i).isSome = true →
      ∃ t, exec i (fillHead ws (formed s)) = .next t ∧ exec .bundleIssue s = .next (serveHints (clearTold t)))
  -- R150: several instructions issue together; R157: an annulled bundle passes
  ∧ (∀ s : State, formLink s = s → s.core.run = .running → boundary s = none → s.die.boot.powerStage ≠ 3 → ∀ ws, issueLook s = .got ws →
      let s1 := fillHead ws (formed s)
      let answer := fun t => exec .bundleIssue s = .next (serveHints (clearTold t))
      ((stream s).annul.getLsbD 0 = false → ∀ is, decodeBundle (ws.headD 0) ws.tail = .ok is → answer (issueActs (issueList is) s1))
      ∧ ((stream s).annul.getLsbD 0 = true → answer (issueActs [] s1))
      -- R158: a bundle that does not decode traps with its own address
      ∧ ((stream s).annul.getLsbD 0 = false → decodeBundle (ws.headD 0) ws.tail = .illegalBundle →
        answer (Trapped ⟨.illegalBundle, 0, false, 0, pc s, 0, false⟩ s1))
      ∧ ((stream s).annul.getLsbD 0 = false → ∀ m, decodeBundle (ws.headD 0) ws.tail = .illegalOp m →
        answer (Trapped ⟨.illegalOp, 0, false, m, pc s, 0, false⟩ s1)))
  ∧ (∀ s : State, formLink s = s → s.core.run = .running → boundary s = none → s.die.boot.powerStage ≠ 3 → ∀ c i, issueLook s = .fault c i →
      exec .bundleIssue s = .next (serveHints (clearTold (Trapped ⟨c, i, false, 0, pc s, 0, false⟩ (formed s)))))
  -- R66, R156, R290: the words of the bundle, and those of the two after it, are waited for
  ∧ (∀ s : State, formLink s = s → s.core.run = .running → boundary s = none → s.die.boot.powerStage ≠ 3 →
      (∀ l u, issueLook s = .line l u → exec .bundleIssue s = .next (serveHints (Held .structural id (formed s))))
      ∧ ∀ ia, issueLook s = .probe ia → exec .bundleIssue s = .next (serveHints (Held .structural (askProbes [(ia, none)]) (formed s))))
  -- code that has been fetched changes the instruction cache, the L2's records, and the words that stand with the two later entries; a
  -- state with no hint and no line told stays
  ∧ (∀ (s : State) (ws : List W32), ∃ k v r h f1 f2, fillHead ws s = setStream { s with
      core := { s.core with icache := k }, die := { s.die with coh := { s.die.coh with verified := v, trees := r, holders := h } } }
      { stream s with f1 := f1, f2 := f2 })
  ∧ (∀ s : State, s.core.hints = [] → s.die.coh.badLines = [] → s.die.coh.onceLines = [] → serveHints (clearTold s) = s)
  -- forming the stream changes nothing but the two later entries, and gives no entry that is known another address
  ∧ (∀ s : State, (stream (formed s)).q0 = (stream s).q0 ∧ (stream (formed s)).annul = (stream s).annul
      ∧ (isNext (stream s).q1 = false → (stream (formed s)).q1 = (stream s).q1)
      ∧ (isNext (stream s).q2 = false → (stream (formed s)).q2 = (stream s).q2) ∧ (formed s).die = s.die
      ∧ (formed s).core.regs = s.core.regs ∧ (formed s).core.sys = s.core.sys)
  ∧ (∀ s : State, s.core.run ≠ .running ∨ s.die.boot.powerStage = 3 → exec .bundleIssue s = .next (finishCycle s))

/-- R150, R151, R155 and the frame of every instruction whose effects are exposed results and a transfer: what lands at once, what
stays in flight, and that nothing else changes but the stream and the counters of a bundle and of a cycle. -/
def Obligations.ResultsLandAndFrame : Prop :=
  -- the frame
  (∀ (i : Instr) (ps : List Pend) (c : Ctl) (s : State), Settled s → (soloAct i).early = id →
    let t := Done i ⟨ps, id, c⟩ s
    t.die = { s.die with
        coh := { s.die.coh with verified := t.die.coh.verified, trees := t.die.coh.trees, holders := t.die.coh.holders }
        disp := { s.die.disp with parked := t.die.disp.parked } }
    ∧ t.outbox = s.outbox ∧ t.inputs = s.inputs ∧ t.arg = s.arg ∧ t.tick = s.tick ∧ t.cycle = s.cycle + 1
    ∧ (s.die.disp.parked = [] → t.die.disp.parked = []) ∧ (s.core.linkDue = none → t.core.linkDue = none)
    ∧ (s.core.mon = false → t.core.barCycles = 0) ∧ (s.core.mon = true → t.core.barCycles = s.core.barCycles)
    ∧ t.core = { s.core with
        regs := t.core.regs, sys := t.core.sys, ls := t.core.ls, pipe := t.core.pipe, pcq := t.core.pcq, mstream := t.core.mstream
        latch := t.core.latch, asyncs := t.core.asyncs, divBusy := s.core.divBusy - 1, fdivBusy := s.core.fdivBusy - 1
        fBusy := s.core.fBusy - 1, mxLeft := s.core.mxLeft - 1, restoreLeft := s.core.restoreLeft.map (· - 1), linkDue := t.core.linkDue, icache := t.core.icache, quantumUsed := t.core.quantumUsed, waiting := .none, waitCycles := 0, wfeCycles := 0
        barCycles := t.core.barCycles, bankWait := 0, probes := [], strong := [], mDue := t.core.mDue, bundlesSince := t.core.bundlesSince }
    ∧ t.core.sys = { s.core.sys with
        fpsr := t.core.sys.fpsr, collide := t.core.sys.collide, lpw := t.core.sys.lpw, lpe := t.core.sys.lpe
        tstate := t.core.sys.tstate }
    ∧ t.core.sys.tstate.extractLsb' 0 16 = s.core.sys.tstate.extractLsb' 0 16
    ∧ t.core.regs.t = s.core.regs.t ∧ t.core.regs.acc0 = s.core.regs.acc0 ∧ t.core.regs.acc1 = s.core.regs.acc1
    ∧ (∀ r : BitVec 6, (∀ p ∈ ps, p.dst = .s r → p.left ≠ 0) → readS t r = readS s r)
    ∧ (∀ r : BitVec 5, (∀ p ∈ ps, p.dst = .p r → p.left ≠ 0) → readP t r = readP s r)
    ∧ (∀ r : BitVec 6, (∀ p ∈ ps, p.dst = .v r → p.left ≠ 0) → readV t r = readV s r)
    ∧ ((∀ p ∈ ps, p.dst = .ka → p.left ≠ 0) → t.core.regs.ka = s.core.regs.ka)
    ∧ ((∀ p ∈ ps, p.dst = .kb → p.left ≠ 0) → t.core.regs.kb = s.core.regs.kb)
    ∧ ((∀ p ∈ ps, p.dst = .lpw → p.left ≠ 0) → t.core.sys.lpw = s.core.sys.lpw)
    ∧ ((∀ p ∈ ps, p.dst = .lpe → p.left ≠ 0) → t.core.sys.lpe = s.core.sys.lpe)
    ∧ ((∀ p ∈ ps, ∀ k f, p.dst = .lsf k f → p.left ≠ 0) → t.core.ls = s.core.ls)
    ∧ ((∀ p ∈ ps, p.flags = 0) → t.core.sys.fpsr = s.core.sys.fpsr)
    -- R336: the registers and the stream of the level that does not run
    ∧ (s.core.mon = true → t.core.regs.s = s.core.regs.s ∧ t.core.regs.p = s.core.regs.p ∧ t.core.pcq = s.core.pcq)
    ∧ (s.core.mon = false → t.core.regs.ms = s.core.regs.ms ∧ t.core.regs.mp = s.core.regs.mp ∧ t.core.mstream = s.core.mstream))
  -- R150: one result, of latency 1 or more
  ∧ (∀ (i : Instr) (p : Pend) (s : State), Settled s → (soloAct i).early = id → p.dst ≠ .ka → p.dst ≠ .kb →
    let t := Done i (results [p]) s
    (p.left ≠ 0 → t.core.pipe = [p] ∧ t.core.regs = s.core.regs ∧ t.core.sys.fpsr = s.core.sys.fpsr ∧ t.core.ls = s.core.ls)
    ∧ (p.left = 0 → t.core.pipe = [] ∧ t.core.sys.fpsr = s.core.sys.fpsr ||| p.flags.setWidth 64
      ∧ (∀ r, p.dst = .s r → r ≠ 0 → readS t r = p.val.setWidth 64)
      ∧ (∀ r, p.dst = .p r → r ≠ 0 → r ≠ 16 → readP t r = (readP s r &&& ~~~p.mask) ||| (p.val.setWidth 128 &&& p.mask))
      ∧ (∀ r, p.dst = .v r → readV t r = blend (readV s r) p.val p.mask)))
  -- R136: s0 reads zero, p0 and p16 read all ones, in every state
  ∧ (∀ s : State, readS s 0 = 0 ∧ readP s 0 = BitVec.allOnes 128 ∧ readP s 16 = BitVec.allOnes 128)
  -- R150: a result in flight lands when its count of bundles has issued, and one bundle brings it one nearer
  ∧ (∀ (s : State) (r : Pend), s.core.run = .running → boundary s = none → (stream s).annul.getLsbD 0 = false →
      s.core.accs = [] → s.core.prefs = [] → s.core.pipe = [r] → r.pcs ≤ 64 →
      (∀ n v, r = ⟨.s n, v, lowMask 8, 1, r.slot, 0, r.pcs⟩ → n ≠ 0 →
        ∃ t, exec (.nop 0) s = .next t ∧ readS t n = v.setWidth 64 ∧ t.core.pipe = []
          ∧ ∀ m, m ≠ n → readS t m = readS s m)
      ∧ (2 ≤ r.left → ∃ t, exec (.nop 0) s = .next t ∧ t.core.pipe = [{ r with left := r.left - 1 }] ∧ t.core.regs = s.core.regs))
  -- R155: of two results for one register that land together the one of the higher slot is kept, and the collision is counted
  ∧ (∀ (s : State) (n : BitVec 6) (v w : W1024) (a b : Nat), s.core.run = .running → boundary s = none →
      (stream s).annul.getLsbD 0 = false → s.core.accs = [] → s.core.prefs = [] → n ≠ 0 → a < b → b < 12 →
      (dbgOn s && !s.core.mon) = false →
      (s.core.pipe = [⟨.s n, v, lowMask 8, 1, a, 0, 1⟩, ⟨.s n, w, lowMask 8, 1, b, 0, 1⟩]
        ∨ s.core.pipe = [⟨.s n, w, lowMask 8, 1, b, 0, 1⟩, ⟨.s n, v, lowMask 8, 1, a, 0, 1⟩]) →
      ∃ t, exec (.nop 0) s = .next t ∧ readS t n = w.setWidth 64 ∧ t.core.sys.collide.getLsbD a = true
        ∧ (t.core.sys.collide.extractLsb' 16 16).toNat = min 0xFFFF ((s.core.sys.collide.extractLsb' 16 16).toNat + 1))

end
end

