-- ==== Sys2Proof/Laws/State.lean ====
section
/-! SUPPORT. One lemma for each field of the state after each update of a part of it. -/
namespace Sys2Proof.Machine

variable (s : State)

@[simp] theorem State.upCore_core (f : CoreSt → CoreSt) : (s.upCore f).core = f s.core := rfl
@[simp] theorem State.upCore_die (f : CoreSt → CoreSt) : (s.upCore f).die = s.die := rfl
@[simp] theorem State.upCore_inputs (f : CoreSt → CoreSt) : (s.upCore f).inputs = s.inputs := rfl
@[simp] theorem State.upCore_arg (f : CoreSt → CoreSt) : (s.upCore f).arg = s.arg := rfl
@[simp] theorem State.upCore_outbox (f : CoreSt → CoreSt) : (s.upCore f).outbox = s.outbox := rfl
@[simp] theorem State.upCore_tick (f : CoreSt → CoreSt) : (s.upCore f).tick = s.tick := rfl
@[simp] theorem State.upCore_cycle (f : CoreSt → CoreSt) : (s.upCore f).cycle = s.cycle := rfl

@[simp] theorem State.upDie_core (f : DieSt → DieSt) : (s.upDie f).core = s.core := rfl
@[simp] theorem State.upDie_die (f : DieSt → DieSt) : (s.upDie f).die = f s.die := rfl
@[simp] theorem State.upDie_inputs (f : DieSt → DieSt) : (s.upDie f).inputs = s.inputs := rfl
@[simp] theorem State.upDie_arg (f : DieSt → DieSt) : (s.upDie f).arg = s.arg := rfl
@[simp] theorem State.upDie_outbox (f : DieSt → DieSt) : (s.upDie f).outbox = s.outbox := rfl
@[simp] theorem State.upDie_tick (f : DieSt → DieSt) : (s.upDie f).tick = s.tick := rfl
@[simp] theorem State.upDie_cycle (f : DieSt → DieSt) : (s.upDie f).cycle = s.cycle := rfl

@[simp] theorem State.upRegs_core (f : Regs → Regs) : (s.upRegs f).core = { s.core with regs := f s.core.regs } := rfl
@[simp] theorem State.upRegs_die (f : Regs → Regs) : (s.upRegs f).die = s.die := rfl
@[simp] theorem State.upRegs_inputs (f : Regs → Regs) : (s.upRegs f).inputs = s.inputs := rfl
@[simp] theorem State.upRegs_arg (f : Regs → Regs) : (s.upRegs f).arg = s.arg := rfl
@[simp] theorem State.upRegs_outbox (f : Regs → Regs) : (s.upRegs f).outbox = s.outbox := rfl
@[simp] theorem State.upRegs_tick (f : Regs → Regs) : (s.upRegs f).tick = s.tick := rfl
@[simp] theorem State.upRegs_cycle (f : Regs → Regs) : (s.upRegs f).cycle = s.cycle := rfl

@[simp] theorem State.upSys_core (f : Sys → Sys) : (s.upSys f).core = { s.core with sys := f s.core.sys } := rfl
@[simp] theorem State.upSys_die (f : Sys → Sys) : (s.upSys f).die = s.die := rfl
@[simp] theorem State.upSys_inputs (f : Sys → Sys) : (s.upSys f).inputs = s.inputs := rfl
@[simp] theorem State.upSys_arg (f : Sys → Sys) : (s.upSys f).arg = s.arg := rfl
@[simp] theorem State.upSys_outbox (f : Sys → Sys) : (s.upSys f).outbox = s.outbox := rfl
@[simp] theorem State.upSys_tick (f : Sys → Sys) : (s.upSys f).tick = s.tick := rfl
@[simp] theorem State.upSys_cycle (f : Sys → Sys) : (s.upSys f).cycle = s.cycle := rfl

@[simp] theorem State.send_core (m : OutMsg) : (s.send m).core = s.core := rfl
@[simp] theorem State.send_die (m : OutMsg) : (s.send m).die = s.die := rfl
@[simp] theorem State.send_inputs (m : OutMsg) : (s.send m).inputs = s.inputs := rfl
@[simp] theorem State.send_arg (m : OutMsg) : (s.send m).arg = s.arg := rfl
@[simp] theorem State.send_outbox (m : OutMsg) : (s.send m).outbox = s.outbox ++ [m] := rfl
@[simp] theorem State.send_tick (m : OutMsg) : (s.send m).tick = s.tick := rfl
@[simp] theorem State.send_cycle (m : OutMsg) : (s.send m).cycle = s.cycle := rfl

@[simp] theorem State.setMem_core (m : Memory) : (s.setMem m).core = s.core := rfl
@[simp] theorem State.setMem_die (m : Memory) : (s.setMem m).die = { s.die with mem := m } := rfl
@[simp] theorem State.setMem_inputs (m : Memory) : (s.setMem m).inputs = s.inputs := rfl
@[simp] theorem State.setMem_arg (m : Memory) : (s.setMem m).arg = s.arg := rfl
@[simp] theorem State.setMem_outbox (m : Memory) : (s.setMem m).outbox = s.outbox := rfl
@[simp] theorem State.setMem_tick (m : Memory) : (s.setMem m).tick = s.tick := rfl
@[simp] theorem State.setMem_cycle (m : Memory) : (s.setMem m).cycle = s.cycle := rfl

@[simp] theorem State.setSpad_core (m : Memory) : (s.setSpad m).core = { s.core with spad := m } := rfl
@[simp] theorem State.setSpad_die (m : Memory) : (s.setSpad m).die = s.die := rfl
@[simp] theorem State.setSpad_inputs (m : Memory) : (s.setSpad m).inputs = s.inputs := rfl
@[simp] theorem State.setSpad_arg (m : Memory) : (s.setSpad m).arg = s.arg := rfl
@[simp] theorem State.setSpad_outbox (m : Memory) : (s.setSpad m).outbox = s.outbox := rfl
@[simp] theorem State.setSpad_tick (m : Memory) : (s.setSpad m).tick = s.tick := rfl
@[simp] theorem State.setSpad_cycle (m : Memory) : (s.setSpad m).cycle = s.cycle := rfl

@[simp] theorem upCoh_core (f : Coherence → Coherence) : (upCoh f s).core = s.core := rfl
@[simp] theorem upCoh_die (f : Coherence → Coherence) : (upCoh f s).die = { s.die with coh := f s.die.coh } := rfl
@[simp] theorem upCoh_inputs (f : Coherence → Coherence) : (upCoh f s).inputs = s.inputs := rfl
@[simp] theorem upCoh_arg (f : Coherence → Coherence) : (upCoh f s).arg = s.arg := rfl
@[simp] theorem upCoh_outbox (f : Coherence → Coherence) : (upCoh f s).outbox = s.outbox := rfl
@[simp] theorem upCoh_tick (f : Coherence → Coherence) : (upCoh f s).tick = s.tick := rfl
@[simp] theorem upCoh_cycle (f : Coherence → Coherence) : (upCoh f s).cycle = s.cycle := rfl

@[simp] theorem upDisp_core (f : Dispatcher → Dispatcher) : (upDisp f s).core = s.core := rfl
@[simp] theorem upDisp_die (f : Dispatcher → Dispatcher) : (upDisp f s).die = { s.die with disp := f s.die.disp } := rfl
@[simp] theorem upDisp_inputs (f : Dispatcher → Dispatcher) : (upDisp f s).inputs = s.inputs := rfl
@[simp] theorem upDisp_arg (f : Dispatcher → Dispatcher) : (upDisp f s).arg = s.arg := rfl
@[simp] theorem upDisp_outbox (f : Dispatcher → Dispatcher) : (upDisp f s).outbox = s.outbox := rfl
@[simp] theorem upDisp_tick (f : Dispatcher → Dispatcher) : (upDisp f s).tick = s.tick := rfl
@[simp] theorem upDisp_cycle (f : Dispatcher → Dispatcher) : (upDisp f s).cycle = s.cycle := rfl

@[simp] theorem upSeq_core (f : Sequencer → Sequencer) : (upSeq f s).core = s.core := rfl
@[simp] theorem upSeq_die (f : Sequencer → Sequencer) : (upSeq f s).die = { s.die with seq := f s.die.seq } := rfl
@[simp] theorem upSeq_inputs (f : Sequencer → Sequencer) : (upSeq f s).inputs = s.inputs := rfl
@[simp] theorem upSeq_arg (f : Sequencer → Sequencer) : (upSeq f s).arg = s.arg := rfl
@[simp] theorem upSeq_outbox (f : Sequencer → Sequencer) : (upSeq f s).outbox = s.outbox := rfl
@[simp] theorem upSeq_tick (f : Sequencer → Sequencer) : (upSeq f s).tick = s.tick := rfl
@[simp] theorem upSeq_cycle (f : Sequencer → Sequencer) : (upSeq f s).cycle = s.cycle := rfl

@[simp] theorem upKeys_core (f : KeyUnit → KeyUnit) : (upKeys f s).core = s.core := rfl
@[simp] theorem upKeys_die (f : KeyUnit → KeyUnit) : (upKeys f s).die = { s.die with keys := f s.die.keys } := rfl
@[simp] theorem upKeys_inputs (f : KeyUnit → KeyUnit) : (upKeys f s).inputs = s.inputs := rfl
@[simp] theorem upKeys_arg (f : KeyUnit → KeyUnit) : (upKeys f s).arg = s.arg := rfl
@[simp] theorem upKeys_outbox (f : KeyUnit → KeyUnit) : (upKeys f s).outbox = s.outbox := rfl
@[simp] theorem upKeys_tick (f : KeyUnit → KeyUnit) : (upKeys f s).tick = s.tick := rfl
@[simp] theorem upKeys_cycle (f : KeyUnit → KeyUnit) : (upKeys f s).cycle = s.cycle := rfl

@[simp] theorem upXlate_core (f : Xlate → Xlate) : (upXlate f s).core = s.core := rfl
@[simp] theorem upXlate_die (f : Xlate → Xlate) : (upXlate f s).die = { s.die with xlate := f s.die.xlate } := rfl
@[simp] theorem upXlate_inputs (f : Xlate → Xlate) : (upXlate f s).inputs = s.inputs := rfl
@[simp] theorem upXlate_arg (f : Xlate → Xlate) : (upXlate f s).arg = s.arg := rfl
@[simp] theorem upXlate_outbox (f : Xlate → Xlate) : (upXlate f s).outbox = s.outbox := rfl
@[simp] theorem upXlate_tick (f : Xlate → Xlate) : (upXlate f s).tick = s.tick := rfl
@[simp] theorem upXlate_cycle (f : Xlate → Xlate) : (upXlate f s).cycle = s.cycle := rfl

@[simp] theorem upGrotto_core (f : Grotto → Grotto) : (upGrotto f s).core = s.core := rfl
@[simp] theorem upGrotto_die (f : Grotto → Grotto) : (upGrotto f s).die = { s.die with grotto := f s.die.grotto } := rfl
@[simp] theorem upGrotto_inputs (f : Grotto → Grotto) : (upGrotto f s).inputs = s.inputs := rfl
@[simp] theorem upGrotto_arg (f : Grotto → Grotto) : (upGrotto f s).arg = s.arg := rfl
@[simp] theorem upGrotto_outbox (f : Grotto → Grotto) : (upGrotto f s).outbox = s.outbox := rfl
@[simp] theorem upGrotto_tick (f : Grotto → Grotto) : (upGrotto f s).tick = s.tick := rfl
@[simp] theorem upGrotto_cycle (f : Grotto → Grotto) : (upGrotto f s).cycle = s.cycle := rfl

@[simp] theorem upBoot_core (f : Boot → Boot) : (upBoot f s).core = s.core := rfl
@[simp] theorem upBoot_die (f : Boot → Boot) : (upBoot f s).die = { s.die with boot := f s.die.boot } := rfl
@[simp] theorem upBoot_inputs (f : Boot → Boot) : (upBoot f s).inputs = s.inputs := rfl
@[simp] theorem upBoot_arg (f : Boot → Boot) : (upBoot f s).arg = s.arg := rfl
@[simp] theorem upBoot_outbox (f : Boot → Boot) : (upBoot f s).outbox = s.outbox := rfl
@[simp] theorem upBoot_tick (f : Boot → Boot) : (upBoot f s).tick = s.tick := rfl
@[simp] theorem upBoot_cycle (f : Boot → Boot) : (upBoot f s).cycle = s.cycle := rfl

@[simp] theorem upColls_core (f : CollEng → CollEng) : (upColls f s).core = s.core := rfl
@[simp] theorem upColls_die (f : CollEng → CollEng) : (upColls f s).die = { s.die with coll := f s.die.coll } := rfl
@[simp] theorem upColls_inputs (f : CollEng → CollEng) : (upColls f s).inputs = s.inputs := rfl
@[simp] theorem upColls_arg (f : CollEng → CollEng) : (upColls f s).arg = s.arg := rfl
@[simp] theorem upColls_outbox (f : CollEng → CollEng) : (upColls f s).outbox = s.outbox := rfl
@[simp] theorem upColls_tick (f : CollEng → CollEng) : (upColls f s).tick = s.tick := rfl
@[simp] theorem upColls_cycle (f : CollEng → CollEng) : (upColls f s).cycle = s.cycle := rfl

@[simp] theorem upLinks_core (f : Links → Links) : (upLinks f s).core = s.core := rfl
@[simp] theorem upLinks_die (f : Links → Links) : (upLinks f s).die = { s.die with links := f s.die.links } := rfl
@[simp] theorem upLinks_inputs (f : Links → Links) : (upLinks f s).inputs = s.inputs := rfl
@[simp] theorem upLinks_arg (f : Links → Links) : (upLinks f s).arg = s.arg := rfl
@[simp] theorem upLinks_outbox (f : Links → Links) : (upLinks f s).outbox = s.outbox := rfl
@[simp] theorem upLinks_tick (f : Links → Links) : (upLinks f s).tick = s.tick := rfl
@[simp] theorem upLinks_cycle (f : Links → Links) : (upLinks f s).cycle = s.cycle := rfl

end Sys2Proof.Machine
end

