-- ==== Sys2Proof/Laws/Pipeline.lean ====
section
/-! SUPPORT. What each operation of the pipeline leaves alone, and the issue of a bundle of one syllable. -/
namespace Sys2Proof.Machine

/-! ## Landing -/

theorem orFlags_frame (s : State) (f : BitVec 7) :
    orFlags s f = { s with core := { s.core with sys := { s.core.sys with fpsr := (orFlags s f).core.sys.fpsr } } } := by
  unfold orFlags
  split <;> rfl

/-- A result that lands changes registers, FPSR, LPW, LPE and layout fields only. -/
theorem landOne_frame (s : State) (r : Pend) :
    landOne s r = { s with core := { s.core with
      regs := (landOne s r).core.regs, sys := (landOne s r).core.sys, ls := (landOne s r).core.ls } } := by
  obtain ⟨dst, val, mask, left, slot, flags, pcs⟩ := r
  cases dst <;> simp only [landOne, orFlags, writeS, writeP, writeV, writeLs, State.upRegs, State.upCore, State.upSys]
    <;> (repeat' split) <;> rfl

@[simp] theorem landOne_die (s : State) (r : Pend) : (landOne s r).die = s.die := by rw [landOne_frame]
@[simp] theorem landOne_inputs (s : State) (r : Pend) : (landOne s r).inputs = s.inputs := by rw [landOne_frame]
@[simp] theorem landOne_arg (s : State) (r : Pend) : (landOne s r).arg = s.arg := by rw [landOne_frame]
@[simp] theorem landOne_outbox (s : State) (r : Pend) : (landOne s r).outbox = s.outbox := by rw [landOne_frame]
@[simp] theorem landOne_tick (s : State) (r : Pend) : (landOne s r).tick = s.tick := by rw [landOne_frame]
@[simp] theorem landOne_cycle (s : State) (r : Pend) : (landOne s r).cycle = s.cycle := by rw [landOne_frame]

/-- What landing leaves alone: two states that differ in registers, system registers and layout fields only. -/
def SameButResults (s t : State) : Prop :=
  t = { s with core := { s.core with regs := t.core.regs, sys := t.core.sys, ls := t.core.ls } }

theorem SameButResults.refl (s : State) : SameButResults s s := rfl

theorem SameButResults.trans {s t u : State} (h1 : SameButResults s t) (h2 : SameButResults t u) : SameButResults s u := by
  unfold SameButResults at *
  rw [h2, h1]

theorem landOne_same (s : State) (r : Pend) : SameButResults s (landOne s r) := landOne_frame s r

theorem foldl_same {α : Type} (f : State → α → State) (hf : ∀ s a, SameButResults s (f s a)) (l : List α) (s : State) :
    SameButResults s (l.foldl f s) := by
  induction l generalizing s with
  | nil => exact .refl s
  | cons a l ih => exact (hf s a).trans (ih (f s a))

theorem countCollision_same (s : State) (k : Nat) : SameButResults s (countCollision s k) := rfl

theorem landDue_same (rs : List Pend) (s : State) : SameButResults s (landDue rs s) :=
  (foldl_same landOne landOne_same _ s).trans (foldl_same countCollision countCollision_same _ _)

@[simp] theorem landDue_nil (s : State) : landDue [] s = s := rfl

end Sys2Proof.Machine
end

