-- ==== Sys2Proof/Laws/Issue.lean ====
section
/-! SUPPORT. The issue of a bundle of one syllable in a settled state: it commits, traps, or is held. -/
namespace Sys2Proof.Machine

theorem Settled.attempt {s : State} (h : Settled s) (acts : List Act) :
    issueActs acts s = finishCycle (attempt acts s) := by
  obtain ⟨hr, hb, ha, _⟩ := h
  unfold issueActs
  rw [hr, hb, ha]
  rfl

theorem refAwaited_settled {s : State} (h : Settled s) (r : RegRef) : refAwaited s r = false := by
  obtain ⟨_, _, _, _, hw, _⟩ := h
  cases r <;> simp [refAwaited, hw]

theorem scoreStall_settled {s : State} (h : Settled s) (acts : List Act) : scoreStall acts s = false := by
  simp [scoreStall, refAwaited_settled h]

theorem collides_settled {s : State} (h : Settled s) : collides s = false := by
  simp [collides, h.2.2.2.1, landOrder, losers]

@[simp] theorem latchDue_empty {s : State} (h : s.core.pipe = []) : latchDue s = false := by simp [latchDue, h]

/-- The pieces that a syllable alone leaves pending, in a settled state. -/
theorem pieces_settled {s : State} (h : Settled s) (es : List Eff) :
    tooManyPieces es s = decide (64 < pieceSum ((es.map (·.pend)).flatten.filter fun r => r.left != 0)) := by
  simp [tooManyPieces, h.2.2.2.1]

theorem pieces_nil {s : State} (h : Settled s) : tooManyPieces [] s = false := by
  simp [pieces_settled h, pieceSum]

theorem pieces_one {s : State} (h : Settled s) {e : Eff} (hp : pieceSum (e.pend.filter fun r => r.left != 0) ≤ 64) :
    tooManyPieces [e] s = false := by
  simp [pieces_settled h]; omega

/-- A syllable that answers with effects of few pieces commits, in a settled state with no PRIV cause and no bank conflict. -/
theorem attempt_ok {s : State} (h : Settled s) {a : Act} {e : Eff} (hrun : a.run s = .ok e) (hp : a.priv s = false)
    (hb : bankRows [a] s ≤ s.core.bankWait + 1) (hn : pieceSum (e.pend.filter fun r => r.left != 0) ≤ 64) :
    attempt [a] s = commitOrHold [a] [e] s := by
  have hpipe : s.core.pipe = [] := h.2.2.2.1
  have hb' : ¬ s.core.bankWait + 1 < bankRows [a] s := by omega
  simp [Sys2Proof.Machine.attempt, hpipe, runAll, hrun, raisesOf, stallsOf, effsOf, hp, scoreStall_settled h, hb',
    pieces_one h hn, collides_settled h]

/-- A syllable that raises a cause traps. -/
theorem attempt_raise {s : State} (h : Settled s) {a : Act} {c : Cause} {va : W64} (hrun : a.run s = .raise c va)
    (hp : a.priv s = false) : attempt [a] s = takeTrap (faultOf [(a.slot, c, va)] s) s := by
  have hpipe : s.core.pipe = [] := h.2.2.2.1
  by_cases hc : c = .illegalOp
  · subst hc
    simp [Sys2Proof.Machine.attempt, hpipe, runAll, hrun, raisesOf, effsOf, pieces_nil h]
  · have : (c == Cause.illegalOp) = false := by simpa using hc
    simp [Sys2Proof.Machine.attempt, hpipe, runAll, hrun, raisesOf, stallsOf, effsOf, pieces_nil h, hp, scoreStall_settled h, this]

/-- A syllable whose PRIV condition holds traps, where it raises no ILLEGAL_OP and its results would fit. -/
theorem attempt_priv {s : State} (h : Settled s) {a : Act} (hp : a.priv s = true)
    (hrun : ∀ va, a.run s ≠ .raise .illegalOp va)
    (hn : ∀ e, a.run s = .ok e → pieceSum (e.pend.filter fun r => r.left != 0) ≤ 64) :
    attempt [a] s = takeTrap (bundleTrap .priv 0 (maskOf [a.slot]) s) s := by
  have hpipe : s.core.pipe = [] := h.2.2.2.1
  cases hr : a.run s with
  | raise c va =>
    have : (c == Cause.illegalOp) = false := by
      have := hrun va
      simp only [beq_eq_false_iff_ne, ne_eq]
      rintro rfl
      exact this hr
    simp [Sys2Proof.Machine.attempt, hpipe, runAll, hr, raisesOf, effsOf, pieces_nil h, collides_settled h, this, hp]
  | ok e =>
    simp [Sys2Proof.Machine.attempt, hpipe, runAll, hr, raisesOf, effsOf, pieces_one h (hn e hr), collides_settled h, hp]
  | stall w f =>
    simp [Sys2Proof.Machine.attempt, hpipe, runAll, hr, raisesOf, effsOf, pieces_nil h, collides_settled h, hp]

/-- A syllable that waits holds the bundle. -/
theorem attempt_stall {s : State} (h : Settled s) {a : Act} {w : WaitKind} {f : State → State} (hrun : a.run s = .stall w f)
    (hp : a.priv s = false) (hb : bankRows [a] s ≤ s.core.bankWait + 1) : attempt [a] s = holdBundle w (f s) := by
  have hpipe : s.core.pipe = [] := h.2.2.2.1
  have hb' : ¬ s.core.bankWait + 1 < bankRows [a] s := by omega
  cases w <;>
    simp [Sys2Proof.Machine.attempt, hpipe, runAll, hrun, raisesOf, stallsOf, effsOf, pieces_nil h, collides_settled h, hp,
      scoreStall_settled h, hb', holdAll]

/-! ## What commits fits -/

theorem noteWords_awaits_nil (acts : List Act) (b s : State) (h : s.core.awaits = []) :
    (noteWords acts b s).core.awaits = [] := by simp [noteWords, h]
@[simp] theorem noteWords_accs (acts : List Act) (b s : State) : (noteWords acts b s).core.accs = s.core.accs := rfl
@[simp] theorem noteWords_prefs (acts : List Act) (b s : State) : (noteWords acts b s).core.prefs = s.core.prefs := rfl
@[simp] theorem noteWords_die (acts : List Act) (b s : State) : (noteWords acts b s).die = s.die := rfl

theorem settle_frame (new : List Pend) (s : State) :
    settle new s = { s with core := { s.core with
      regs := (settle new s).core.regs, sys := (settle new s).core.sys, ls := (settle new s).core.ls
      pipe := (settle new s).core.pipe } } := by
  unfold settle
  simp only
  split
  · rfl
  · have h := landDue_same ((s.core.pipe.map age ++ new).filter fun r => r.left == 0 && !(isLatch r && latchHeld s))
      (s.upCore fun c => { c with pipe := (s.core.pipe.map age ++ new).filter fun r => !(r.left == 0 && !(isLatch r && latchHeld s)) })
    unfold SameButResults at h
    rw [h]
    rfl

/-- What filling the caches with fetched code may change: the instruction cache, and the L2's verified bits, trees and holders. -/
def SameButCode (s t : State) : Prop :=
  t = { s with
    die := { s.die with
      coh := { s.die.coh with verified := t.die.coh.verified, trees := t.die.coh.trees, holders := t.die.coh.holders } }
    core := { s.core with icache := t.core.icache } }

theorem SameButCode.refl (s : State) : SameButCode s s := rfl
theorem SameButCode.trans {s t u : State} (h1 : SameButCode s t) (h2 : SameButCode t u) : SameButCode s u := by
  unfold SameButCode at *
  rw [h2, h1]

theorem l2Touch_code (b : Bool) (l : BitVec 50) (s : State) : SameButCode s (l2Touch b l s) := by
  unfold l2Touch
  split <;> rfl
theorem icacheEnter_code (c : BitVec 49) (s : State) : SameButCode s (icacheEnter c s) := by
  unfold icacheEnter
  split <;> rfl
theorem fillCode_code (c : BitVec 49) (s : State) : SameButCode s (fillCode c s) := by
  unfold fillCode
  simp only
  split
  · rfl
  · split
    · refine (SameButCode.trans ?_ (l2Touch_code _ _ _)).trans (l2Touch_code _ _ _) |>.trans (icacheEnter_code _ _)
      rfl
    · rfl
theorem foldl_code {α : Type} (f : State → α → State) (hf : ∀ s a, SameButCode s (f s a)) (l : List α) (s : State) :
    SameButCode s (l.foldl f s) := by
  induction l generalizing s with
  | nil => exact .refl s
  | cons a l ih => exact (hf s a).trans (ih (f s a))
theorem fillStream_code (p q : Stream) (s : State) : SameButCode s (fillStream p q s) := by
  unfold fillStream
  apply foldl_code
  intro s x
  split
  · exact foldl_code _ (fun t c => fillCode_code c t) _ s
  · rfl

theorem setStream_frame {s t : State} (h : SameButCode s t) (q : Stream) :
    setStream t q = { s with
      die := { s.die with coh := { s.die.coh with
        verified := (setStream t q).die.coh.verified, trees := (setStream t q).die.coh.trees
        holders := (setStream t q).die.coh.holders } }
      core := { s.core with
        pcq := (setStream t q).core.pcq, mstream := (setStream t q).core.mstream, icache := (setStream t q).core.icache } } := by
  unfold SameButCode at h
  rw [h]
  unfold setStream State.upCore
  simp only
  split <;> rfl

theorem advance_frame (c : Ctl) (s : State) :
    advance c s = { s with
      die := { s.die with coh := { s.die.coh with
        verified := (advance c s).die.coh.verified, trees := (advance c s).die.coh.trees
        holders := (advance c s).die.coh.holders } }
      core := { s.core with
        pcq := (advance c s).core.pcq, mstream := (advance c s).core.mstream, icache := (advance c s).core.icache } } :=
  setStream_frame (fillStream_code _ _ s) _

theorem setPend_frame (s : State) (k d : Nat) : setPend s k d = { s with core := { s.core with sys := (setPend s k d).core.sys } } := rfl

theorem countBundle_frame (s : State) :
    countBundle s = { s with core := { s.core with
      waiting := .none, waitCycles := 0, wfeCycles := 0, barCycles := (countBundle s).core.barCycles, bankWait := 0, probes := [], strong := []
      mDue := s.core.mDue - 1, bundlesSince := (countBundle s).core.bundlesSince, sys := (countBundle s).core.sys
      linkDue := (countBundle s).core.linkDue } } := by
  unfold countBundle
  simp only
  split <;> rfl

theorem singleStep_frame (s : State) :
    singleStep s = { s with core := { s.core with latch := (singleStep s).core.latch, asyncs := (singleStep s).core.asyncs } } := by
  unfold singleStep
  split <;> rfl

/-! ## The whole of a bundle of one syllable -/

@[simp] theorem singleStep_awaits (s : State) : (singleStep s).core.awaits = s.core.awaits := by rw [singleStep_frame]
@[simp] theorem singleStep_accs (s : State) : (singleStep s).core.accs = s.core.accs := by rw [singleStep_frame]
@[simp] theorem singleStep_prefs (s : State) : (singleStep s).core.prefs = s.core.prefs := by rw [singleStep_frame]
@[simp] theorem settle_awaits (new : List Pend) (s : State) : (settle new s).core.awaits = s.core.awaits := by rw [settle_frame]
@[simp] theorem settle_accs (new : List Pend) (s : State) : (settle new s).core.accs = s.core.accs := by rw [settle_frame]
@[simp] theorem settle_prefs (new : List Pend) (s : State) : (settle new s).core.prefs = s.core.prefs := by rw [settle_frame]
@[simp] theorem advance_awaits (c : Ctl) (s : State) : (advance c s).core.awaits = s.core.awaits := by rw [advance_frame]
@[simp] theorem advance_accs (c : Ctl) (s : State) : (advance c s).core.accs = s.core.accs := by rw [advance_frame]
@[simp] theorem advance_prefs (c : Ctl) (s : State) : (advance c s).core.prefs = s.core.prefs := by rw [advance_frame]
@[simp] theorem countBundle_awaits (s : State) : (countBundle s).core.awaits = s.core.awaits := by rw [countBundle_frame]
@[simp] theorem countBundle_accs (s : State) : (countBundle s).core.accs = s.core.accs := by rw [countBundle_frame]
@[simp] theorem countBundle_prefs (s : State) : (countBundle s).core.prefs = s.core.prefs := by rw [countBundle_frame]
@[simp] theorem countBundle_nextId (s : State) : (countBundle s).core.nextId = s.core.nextId := by rw [countBundle_frame]

theorem noteWords_awaits_length (acts : List Act) (b s : State) :
    (noteWords acts b s).core.awaits.length = s.core.awaits.length := by simp [noteWords]

/-- What a bundle of one syllable leaves outstanding is what its own effects leave. -/
theorem commit_solo_awaits (a : Act) (e : Eff) (s : State) :
    (commit [a] [e] s).core.awaits.length = (e.post (a.early (countBundle s))).core.awaits.length := by
  simp [commit, noteWords_awaits_length]
theorem commit_solo_accs (a : Act) (e : Eff) (s : State) :
    (commit [a] [e] s).core.accs = (e.post (a.early (countBundle s))).core.accs := by simp [commit]
theorem commit_solo_prefs (a : Act) (e : Eff) (s : State) :
    (commit [a] [e] s).core.prefs = (e.post (a.early (countBundle s))).core.prefs := by simp [commit]

/-- What a syllable leaves outstanding fits: few results, few destinations, few request entries. -/
def Fits (a : Act) (e : Eff) (s : State) : Prop :=
  pieceSum (e.pend.filter fun r => r.left != 0) ≤ 64
    ∧ (e.post (a.early (countBundle s))).core.awaits.length ≤ 16
    ∧ entriesUsed (e.post (a.early (countBundle s))) ≤ 1024

theorem commitOrHold_solo {s : State} (h : Settled s) {a : Act} {e : Eff} (hf : Fits a e s) :
    commitOrHold [a] [e] s = singleStep (commit [a] [e] s) := by
  obtain ⟨_, h2, h3⟩ := hf
  have hr : s.core.prefs = [] := h.2.2.2.2.2.2
  have e2 : (singleStep (commit [a] [e] s)).core.awaits.length ≤ 16 := by
    rw [singleStep_awaits, commit_solo_awaits]; exact h2
  have e3 : entriesUsed (singleStep (commit [a] [e] s)) ≤ 1024 := by
    unfold entriesUsed at *
    rw [singleStep_accs, singleStep_prefs, commit_solo_accs, commit_solo_prefs]; exact h3
  have e4 : (singleStep (commit [a] [e] s)).core.accs.length ≤ 1024 := by
    unfold entriesUsed at e3; omega
  simp only [commitOrHold]
  rw [if_neg, trimPrefs, if_pos e3]
  simp only [Bool.or_eq_true, Bool.and_eq_true, decide_eq_true_eq, hr, List.length_nil]
  omega

/-- A bundle of one syllable that answers with effects completes. -/
theorem issue_ok {s : State} (h : Settled s) {a : Act} {e : Eff} (hrun : a.run s = .ok e) (hp : a.priv s = false)
    (hb : bankRows [a] s ≤ s.core.bankWait + 1) (hf : Fits a e s) :
    issueActs [a] s = finishCycle (singleStep (commit [a] [e] s)) := by
  rw [h.attempt, attempt_ok h hrun hp hb hf.1, commitOrHold_solo h hf]

theorem bankRows_nil {a : Act} {s : State} (h : a.rows s = []) : bankRows [a] s ≤ s.core.bankWait + 1 := by
  simp [bankRows, h]

/-- A syllable that only makes results, and of few pieces, fits. -/
theorem fits_results {s : State} (h : Settled s) {a : Act} {e : Eff} (ha : a.early = id) (hpost : e.post = id)
    (hp : pieceSum (e.pend.filter fun r => r.left != 0) ≤ 64) : Fits a e s := by
  obtain ⟨_, _, _, _, hw, hg, hr⟩ := h
  refine ⟨hp, ?_, ?_⟩ <;> simp [ha, hpost, entriesUsed, hw, hg, hr]

/-- A syllable that raises a cause traps. -/
theorem issue_raise {s : State} (h : Settled s) {a : Act} {c : Cause} {va : W64} (hrun : a.run s = .raise c va)
    (hp : a.priv s = false) : issueActs [a] s = finishCycle (takeTrap (faultOf [(a.slot, c, va)] s) s) := by
  rw [h.attempt, attempt_raise h hrun hp]

theorem issue_priv {s : State} (h : Settled s) {a : Act} (hp : a.priv s = true)
    (hrun : ∀ va, a.run s ≠ .raise .illegalOp va)
    (hn : ∀ e, a.run s = .ok e → pieceSum (e.pend.filter fun r => r.left != 0) ≤ 64) :
    issueActs [a] s = finishCycle (takeTrap (bundleTrap .priv 0 (maskOf [a.slot]) s) s) := by
  rw [h.attempt, attempt_priv h hp hrun hn]

theorem issue_stall {s : State} (h : Settled s) {a : Act} {w : WaitKind} {f : State → State} (hrun : a.run s = .stall w f)
    (hp : a.priv s = false) (hb : bankRows [a] s ≤ s.core.bankWait + 1) :
    issueActs [a] s = finishCycle (holdBundle w (f s)) := by
  rw [h.attempt, attempt_stall h hrun hp hb]

/-! ## exec of one instruction -/

@[simp] theorem of_slot (a : Act) (i : Instr) : (a.of i).slot = a.slot := rfl
@[simp] theorem of_run (a : Act) (i : Instr) : (a.of i).run = a.run := rfl
@[simp] theorem of_priv (a : Act) (i : Instr) : (a.of i).priv = a.priv := rfl
@[simp] theorem of_rows (a : Act) (i : Instr) : (a.of i).rows = a.rows := rfl
@[simp] theorem of_early (a : Act) (i : Instr) : (a.of i).early = a.early := rfl
theorem bankRows_of (a : Act) (i : Instr) (s : State) : bankRows [a.of i] s = bankRows [a] s := rfl

/-- An instruction is the syllable a: its exec issues the bundle of a alone. Both parts hold by rfl. -/
structure IsAct (i : Instr) (a : Act) : Prop where
  solo : soloAct i = a.of i
  exec : ∀ s, Machine.exec i s = .next (issueActs [soloAct i] s)

/-- An instruction runs where its syllable answers with effects that fit. -/
theorem runs_ok {s : State} (h : Settled s) {i : Instr} {a : Act} {e : Eff} (hi : IsAct i a)
    (hrun : a.run s = .ok e) (hp : a.priv s = false)
    (hb : bankRows [a] s ≤ s.core.bankWait + 1) (hf : Fits a e s) : Runs i e s := by
  rw [Runs, hi.exec, hi.solo, issue_ok h (a := a.of i) (e := e) (by simpa using hrun) (by simpa using hp) hb hf, Done, hi.solo]

/-- The same for a syllable that names no row of the scratchpad, does nothing early and has results alone. -/
theorem runs_results {s : State} (h : Settled s) {i : Instr} {a : Act} {e : Eff} (hi : IsAct i a)
    (hrun : a.run s = .ok e) (hp : a.priv s = false) (hb : a.rows s = [])
    (ha : a.early = id) (hpost : e.post = id) (hn : pieceSum (e.pend.filter fun r => r.left != 0) ≤ 64) :
    Runs i e s := runs_ok h hi hrun hp (bankRows_nil hb) (fits_results h ha hpost hn)

/-- The same for a syllable whose effects at commit leave what is outstanding alone, or add a little. -/
theorem runs_effect {s : State} (h : Settled s) {i : Instr} {a : Act} {e : Eff} (hi : IsAct i a)
    (hrun : a.run s = .ok e) (hp : a.priv s = false) (hb : a.rows s = []) (ha : a.early = id)
    (hpost : ∀ t : State, (e.post t).core.awaits.length ≤ t.core.awaits.length + 16
      ∧ entriesUsed (e.post t) ≤ entriesUsed t + 1024)
    (hn : pieceSum (e.pend.filter fun r => r.left != 0) ≤ 64) : Runs i e s := by
  refine runs_ok h hi hrun hp (bankRows_nil hb) ⟨hn, ?_, ?_⟩ <;> rw [ha]
  · have := (hpost (id (countBundle s))).1
    simpa [h.2.2.2.2.1] using this
  · have := (hpost (id (countBundle s))).2
    simpa [entriesUsed, h.2.2.2.2.2.1, h.2.2.2.2.2.2] using this

theorem traps_raise {s : State} (h : Settled s) {i : Instr} {a : Act} {c : Cause} {va : W64} (hi : IsAct i a)
    (hrun : a.run s = .raise c va) (hp : a.priv s = false) : Traps i (raised i c va s) s := by
  have hf : faultOf [(a.slot, c, va)] s = raised i c va s := by simp [faultOf, raised, maskOf, slotBit, hi.solo]
  rw [Traps, hi.exec, hi.solo, issue_raise h (a := a.of i) (by simpa using hrun) (by simpa using hp), of_slot, hf]
  rfl

theorem traps_priv {s : State} (h : Settled s) {i : Instr} {a : Act} (hi : IsAct i a) (hp : a.priv s = true)
    (hrun : ∀ va, a.run s ≠ .raise .illegalOp va)
    (hn : ∀ e, a.run s = .ok e → pieceSum (e.pend.filter fun r => r.left != 0) ≤ 64) : Traps i (raised i .priv 0 s) s := by
  have hf : bundleTrap .priv 0 (maskOf [a.slot]) s = raised i .priv 0 s := by
    simp [bundleTrap, raised, maskOf, slotBit, hi.solo, causeHasAddr]
  rw [Traps, hi.exec, hi.solo, issue_priv h (a := a.of i) (by simpa using hp) (by simpa using hrun) (by simpa using hn), of_slot, hf]
  rfl

theorem holds_stall {s : State} (h : Settled s) {i : Instr} {a : Act} {w : WaitKind} {f : State → State} (hi : IsAct i a)
    (hrun : a.run s = .stall w f) (hp : a.priv s = false) (hb : bankRows [a] s ≤ s.core.bankWait + 1) : Holds i w f s := by
  rw [Holds, hi.exec, hi.solo, issue_stall h (a := a.of i) (by simpa using hrun) (by simpa using hp) hb]
  rfl

end Sys2Proof.Machine
end

