-- ==== Sys2Proof/Laws/Done.lean ====
section
/-! SUPPORT. What the state after a committed bundle of one syllable differs in from the state its effects at commit leave. -/
namespace Sys2Proof.Machine

theorem performReady_none {s : State} (ha : s.core.accs = []) (hp : s.core.prefs = []) : performReady s = s := by
  simp [performReady, ha, hp]

theorem tickParked_frame (s : State) :
    tickParked s = { s with die := { s.die with disp := { s.die.disp with parked := (tickParked s).die.disp.parked } } } := by
  unfold tickParked
  split <;> rfl

theorem tickCycle_frame (s : State) :
    tickCycle s = { s with
      cycle := s.cycle + 1
      die := { s.die with disp := { s.die.disp with parked := (tickCycle s).die.disp.parked } }
      core := { s.core with
        sys := (tickCycle s).core.sys, asyncs := (tickCycle s).core.asyncs, latch := (tickCycle s).core.latch
        divBusy := s.core.divBusy - 1, fdivBusy := s.core.fdivBusy - 1, fBusy := s.core.fBusy - 1, mxLeft := s.core.mxLeft - 1
        restoreLeft := s.core.restoreLeft.map (· - 1), quantumUsed := (tickCycle s).core.quantumUsed } } := by
  unfold tickCycle
  rw [tickParked_frame]

theorem noteWords_frame (acts : List Act) (b s : State) :
    noteWords acts b s = { s with core := { s.core with
      awaits := (noteWords acts b s).core.awaits, posts := (noteWords acts b s).core.posts } } := rfl

theorem finishCycle_accs {s : State} (ha : s.core.accs = []) (hp : s.core.prefs = []) : finishCycle s = tickCycle s := by
  rw [finishCycle, performReady_none ha hp]

/-- What a cycle, the landing of results, the counts of a bundle and its place in the stream may change. -/
def SameButCommit (p t : State) : Prop :=
  t = { p with
    cycle := p.cycle + 1
    die := { p.die with
      coh := { p.die.coh with verified := t.die.coh.verified, trees := t.die.coh.trees, holders := t.die.coh.holders }
      disp := { p.die.disp with parked := t.die.disp.parked } }
    core := { p.core with
      regs := t.core.regs, sys := t.core.sys, ls := t.core.ls, pipe := t.core.pipe, pcq := t.core.pcq
      mstream := t.core.mstream, awaits := t.core.awaits, posts := t.core.posts, latch := t.core.latch
      asyncs := t.core.asyncs, divBusy := t.core.divBusy, fdivBusy := t.core.fdivBusy, fBusy := t.core.fBusy
      mxLeft := t.core.mxLeft, restoreLeft := t.core.restoreLeft, icache := t.core.icache, quantumUsed := t.core.quantumUsed } }

/-- The state after a committed bundle is the state its effects at commit leave, but for results, counters and the stream, where no
access is left outstanding. -/
theorem done_same (i : Instr) (e : Eff) (s : State)
    (ha : (e.post ((soloAct i).early (countBundle s))).core.accs = [])
    (hp : (e.post ((soloAct i).early (countBundle s))).core.prefs = []) :
    SameButCommit (e.post ((soloAct i).early (countBundle s))) (Done i e s) := by
  have h1 : (singleStep (commit [soloAct i] [e] s)).core.accs = [] := by
    rw [singleStep_accs, commit_solo_accs, ha]
  have h2 : (singleStep (commit [soloAct i] [e] s)).core.prefs = [] := by
    rw [singleStep_prefs, commit_solo_prefs, hp]
  unfold SameButCommit Done
  rw [finishCycle_accs h1 h2]
  simp only [commit, List.foldl_cons, List.foldl_nil]
  generalize e.post ((soloAct i).early (countBundle s)) = p
  generalize hn : noteWords [soloAct i] s p = n
  rw [noteWords_frame] at hn
  generalize hq : settle (List.map (fun x => x.pend) [e]).flatten n = q
  rw [settle_frame] at hq
  generalize hr : advance (ctlOf [e]) q = r
  rw [advance_frame] at hr
  generalize ht : singleStep r = t
  rw [singleStep_frame] at ht
  rw [tickCycle_frame]
  subst hn hq hr ht
  rfl

end Sys2Proof.Machine
end

