-- ==== Sys2Proof/Laws/Memory.lean ====
section
/-! SUPPORT. Laws of the byte stores: a read after a write, and the canonical form kept by every operation. -/
namespace Sys2Proof.Machine

theorem Memory.wfFrom_mono {lo lo' : Nat} {m : Memory} (h : lo' ≤ lo) (hm : Memory.wfFrom lo m = true) :
    Memory.wfFrom lo' m = true := by
  cases m with
  | nil => rfl
  | cons c m =>
    obtain ⟨b, x⟩ := c
    simp only [Memory.wfFrom, Bool.and_eq_true, decide_eq_true_eq] at hm ⊢
    exact ⟨⟨Nat.le_trans h hm.1.1, hm.1.2⟩, hm.2⟩

theorem Memory.read_below {lo : Nat} {m : Memory} (hm : Memory.wfFrom lo m = true) {a : Nat} (h : a < lo) :
    m.read a = Memory.unlisted := by
  cases m with
  | nil => rfl
  | cons c m =>
    obtain ⟨b, x⟩ := c
    simp only [Memory.wfFrom, Bool.and_eq_true, decide_eq_true_eq] at hm
    have : a < b := Nat.lt_of_lt_of_le h hm.1.1
    simp [Memory.read, this, Nat.ne_of_lt this]

theorem Memory.wfFrom_write {lo : Nat} {m : Memory} (hm : Memory.wfFrom lo m = true) (a : Nat) (y : Byte) (h : lo ≤ a) :
    Memory.wfFrom lo (m.write a y) = true := by
  induction m generalizing lo with
  | nil =>
    simp only [Memory.write]
    split
    · rfl
    · simp [Memory.wfFrom, *]
  | cons c m ih =>
    obtain ⟨b, x⟩ := c
    have hw := hm
    simp only [Memory.wfFrom, Bool.and_eq_true, decide_eq_true_eq] at hm
    obtain ⟨⟨h1, h2⟩, h3⟩ := hm
    simp only [Memory.write]
    split
    · subst_vars
      split
      · exact Memory.wfFrom_mono (by omega) h3
      · simp [Memory.wfFrom, *]
    · split
      · split
        · exact hw
        · rename_i hlt hy
          simp only [Memory.wfFrom, Bool.and_eq_true, decide_eq_true_eq]
          exact ⟨⟨h, hy⟩, ⟨⟨by omega, h2⟩, h3⟩⟩
      · simp only [Memory.wfFrom, Bool.and_eq_true, decide_eq_true_eq]
        exact ⟨⟨h1, h2⟩, ih h3 (by omega)⟩

theorem Memory.read_write_from {lo : Nat} {m : Memory} (hm : Memory.wfFrom lo m = true) (a c : Nat) (y : Byte) :
    (m.write a y).read c = if c = a then y else m.read c := by
  induction m generalizing lo with
  | nil =>
    simp only [Memory.write]
    split <;> simp only [Memory.read] <;> grind
  | cons d m ih =>
    obtain ⟨b, x⟩ := d
    simp only [Memory.wfFrom, Bool.and_eq_true, decide_eq_true_eq] at hm
    obtain ⟨⟨_, _⟩, h3⟩ := hm
    have low : ∀ {e : Nat}, e < b + 1 → Memory.read m e = Memory.unlisted := fun h => Memory.read_below h3 h
    have step := ih h3
    simp only [Memory.write]
    split
    · subst_vars
      split
      · simp only [Memory.read]
        grind
      · simp only [Memory.read]
        grind
    · split
      · split
        · simp only [Memory.read]
          grind
        · simp only [Memory.read]
          grind
      · simp only [Memory.read, step]
        grind

/-- A read after a write, in canonical form. -/
theorem Memory.read_write {m : Memory} (hm : m.wf = true) (a c : Nat) (y : Byte) :
    (m.write a y).read c = if c = a then y else m.read c := Memory.read_write_from hm a c y

@[simp] theorem Memory.wf_nil : Memory.wf [] = true := rfl

theorem Memory.wf_write {m : Memory} (hm : m.wf = true) (a : Nat) (y : Byte) : (m.write a y).wf = true :=
  Memory.wfFrom_write hm a y (Nat.zero_le a)

theorem Memory.wf_writeBytes {m : Memory} (hm : m.wf = true) (a : Nat) (bs : List Byte) : (m.writeBytes a bs).wf = true := by
  induction bs generalizing m a with
  | nil => exact hm
  | cons b bs ih => exact ih (Memory.wf_write hm a b) (a + 1)

theorem Memory.wf_writeCells {m : Memory} (hm : m.wf = true) (cs : List (Nat × Byte)) : (m.writeCells cs).wf = true := by
  induction cs generalizing m with
  | nil => exact hm
  | cons c cs ih => exact ih (Memory.wf_write hm c.1 c.2)

theorem Memory.wfFrom_filter {lo : Nat} {m : Memory} (hm : Memory.wfFrom lo m = true) (p : Host.Cell → Bool) :
    Memory.wfFrom lo (m.filter p) = true := by
  induction m generalizing lo with
  | nil => rfl
  | cons c m ih =>
    obtain ⟨b, x⟩ := c
    simp only [Memory.wfFrom, Bool.and_eq_true, decide_eq_true_eq] at hm
    obtain ⟨⟨h1, h2⟩, h3⟩ := hm
    simp only [List.filter_cons]
    split
    · simp only [Memory.wfFrom, Bool.and_eq_true, decide_eq_true_eq]
      exact ⟨⟨h1, h2⟩, ih h3⟩
    · exact Memory.wfFrom_mono (by omega) (ih h3)

theorem Memory.wf_clear {m : Memory} (hm : m.wf = true) (a n : Nat) : (m.clear a n).wf = true := Memory.wfFrom_filter hm _

/-- Bytes outside a run of bytes written read as before. -/
theorem Memory.read_writeBytes_other {m : Memory} (hm : m.wf = true) (a c : Nat) (bs : List Byte)
    (h : c < a ∨ a + bs.length ≤ c) : (m.writeBytes a bs).read c = m.read c := by
  induction bs generalizing m a with
  | nil => rfl
  | cons b bs ih =>
    simp only [List.length_cons] at h
    simp only [Memory.writeBytes]
    rw [ih (Memory.wf_write hm a b) (a + 1) (by omega), Memory.read_write hm]
    simp only [ite_eq_right_iff]
    omega

/-- A byte of a run of bytes written. -/
theorem Memory.read_writeBytes_mem {m : Memory} (hm : m.wf = true) (a i : Nat) (bs : List Byte) (h : i < bs.length) :
    (m.writeBytes a bs).read (a + i) = bs[i] := by
  induction bs generalizing m a i with
  | nil => simp at h
  | cons b bs ih =>
    simp only [Memory.writeBytes]
    cases i with
    | zero =>
      have h0 := Memory.read_writeBytes_other (Memory.wf_write hm a b) (a + 1) a bs (by omega)
      rw [Memory.read_write hm, if_pos rfl] at h0
      exact h0
    | succ i =>
      have := ih (Memory.wf_write hm a b) (a + 1) i (by simpa using h)
      rw [show a + (i + 1) = a + 1 + i by omega, this]
      simp

/-- Bytes whose address no written cell has read as before. -/
theorem Memory.read_writeCells_other {m : Memory} (hm : m.wf = true) (c : Nat) (cs : List (Nat × Byte))
    (h : ∀ x ∈ cs, x.1 ≠ c) : (m.writeCells cs).read c = m.read c := by
  induction cs generalizing m with
  | nil => rfl
  | cons d cs ih =>
    simp only [Memory.writeCells]
    rw [ih (Memory.wf_write hm d.1 d.2) (fun x hx => h x (List.mem_cons_of_mem _ hx)), Memory.read_write hm]
    simp only [ite_eq_right_iff]
    intro he
    exact absurd he.symm (h d List.mem_cons_self)

end Sys2Proof.Machine
end

