-- ==== Sys2Proof/Laws/PerInstr.lean ====
section
/-! SUPPORT. For every instruction: it has an encoding exactly where it has a slot, and the slot is one of the twelve of a bundle
(R142, R148). -/
namespace Sys2Proof.Laws.Slot

/-- A well-formed instruction has an encoding exactly where it has a slot, one of the twelve of R142. -/
def Statement (i : Instr) : Prop :=
  i.wf = true → (encode i).isSome = (slotOf i).isSome ∧ ∀ p, slotOf i = some p → p.1 < 12

theorem of_slot {i : Instr} {p : Nat × Bool} (he : (encode i).isSome = true) (hs : slotOf i = some p) (hp : p.1 < 12) :
    Statement i := by
  intro _
  refine ⟨by rw [he, hs]; rfl, fun q hq => ?_⟩
  rw [hs] at hq
  obtain rfl := Option.some.inj hq
  exact hp

theorem of_step {i : Instr} (he : encode i = none) (hs : slotOf i = none) : Statement i := by
  intro _
  exact ⟨by rw [he, hs]; rfl, fun p hp => by rw [hs] at hp; exact absurd hp (by simp)⟩

theorem sSlot_lt (s : SSlot) : sSlotNo s < 12 := by cases s <;> decide
theorem mSlot_lt (s : MSlot) : mSlotNo s < 12 := by cases s <;> decide
theorem vSlot_lt (s : VSlot) : (vSlotNo s).1 < 12 := by cases s <;> decide

end Sys2Proof.Laws.Slot

open Sys2Proof

theorem Sys2Proof.Laws.Slot.nop (s : BitVec 4) : Laws.Slot.Statement (.nop s) := by
  intro h
  exact ⟨rfl, fun p hp => by obtain rfl := Option.some.inj hp; simpa [Instr.wf] using h⟩
theorem Sys2Proof.Laws.Slot.add (f : SBin) : Laws.Slot.Statement (.add f) := Laws.Slot.of_slot rfl rfl (Laws.Slot.sSlot_lt _)
theorem Sys2Proof.Laws.Slot.sub (f : SBin) : Laws.Slot.Statement (.sub f) := Laws.Slot.of_slot rfl rfl (Laws.Slot.sSlot_lt _)
theorem Sys2Proof.Laws.Slot.mul (f : SBin) : Laws.Slot.Statement (.mul f) := Laws.Slot.of_slot rfl rfl (Laws.Slot.sSlot_lt _)
theorem Sys2Proof.Laws.Slot.mulh (f : SBin) : Laws.Slot.Statement (.mulh f) := Laws.Slot.of_slot rfl rfl (Laws.Slot.sSlot_lt _)
theorem Sys2Proof.Laws.Slot.mulhn (f : SBin) : Laws.Slot.Statement (.mulhn f) := Laws.Slot.of_slot rfl rfl (Laws.Slot.sSlot_lt _)
theorem Sys2Proof.Laws.Slot.div (f : SBin) : Laws.Slot.Statement (.div f) := Laws.Slot.of_slot rfl rfl (Laws.Slot.sSlot_lt _)
theorem Sys2Proof.Laws.Slot.divn (f : SBin) : Laws.Slot.Statement (.divn f) := Laws.Slot.of_slot rfl rfl (Laws.Slot.sSlot_lt _)
theorem Sys2Proof.Laws.Slot.rem (f : SBin) : Laws.Slot.Statement (.rem f) := Laws.Slot.of_slot rfl rfl (Laws.Slot.sSlot_lt _)
theorem Sys2Proof.Laws.Slot.remn (f : SBin) : Laws.Slot.Statement (.remn f) := Laws.Slot.of_slot rfl rfl (Laws.Slot.sSlot_lt _)
theorem Sys2Proof.Laws.Slot.and (f : SBin) : Laws.Slot.Statement (.and f) := Laws.Slot.of_slot rfl rfl (Laws.Slot.sSlot_lt _)
theorem Sys2Proof.Laws.Slot.or (f : SBin) : Laws.Slot.Statement (.or f) := Laws.Slot.of_slot rfl rfl (Laws.Slot.sSlot_lt _)
theorem Sys2Proof.Laws.Slot.xor (f : SBin) : Laws.Slot.Statement (.xor f) := Laws.Slot.of_slot rfl rfl (Laws.Slot.sSlot_lt _)
theorem Sys2Proof.Laws.Slot.andn (f : SBin) : Laws.Slot.Statement (.andn f) := Laws.Slot.of_slot rfl rfl (Laws.Slot.sSlot_lt _)
theorem Sys2Proof.Laws.Slot.shl (f : SBin) : Laws.Slot.Statement (.shl f) := Laws.Slot.of_slot rfl rfl (Laws.Slot.sSlot_lt _)
theorem Sys2Proof.Laws.Slot.shr (f : SBin) : Laws.Slot.Statement (.shr f) := Laws.Slot.of_slot rfl rfl (Laws.Slot.sSlot_lt _)
theorem Sys2Proof.Laws.Slot.sra (f : SBin) : Laws.Slot.Statement (.sra f) := Laws.Slot.of_slot rfl rfl (Laws.Slot.sSlot_lt _)
theorem Sys2Proof.Laws.Slot.rol (f : SBin) : Laws.Slot.Statement (.rol f) := Laws.Slot.of_slot rfl rfl (Laws.Slot.sSlot_lt _)
theorem Sys2Proof.Laws.Slot.min (f : SBin) : Laws.Slot.Statement (.min f) := Laws.Slot.of_slot rfl rfl (Laws.Slot.sSlot_lt _)
theorem Sys2Proof.Laws.Slot.max (f : SBin) : Laws.Slot.Statement (.max f) := Laws.Slot.of_slot rfl rfl (Laws.Slot.sSlot_lt _)
theorem Sys2Proof.Laws.Slot.minn (f : SBin) : Laws.Slot.Statement (.minn f) := Laws.Slot.of_slot rfl rfl (Laws.Slot.sSlot_lt _)
theorem Sys2Proof.Laws.Slot.maxn (f : SBin) : Laws.Slot.Statement (.maxn f) := Laws.Slot.of_slot rfl rfl (Laws.Slot.sSlot_lt _)
theorem Sys2Proof.Laws.Slot.clz (f : SUn) : Laws.Slot.Statement (.clz f) := Laws.Slot.of_slot rfl rfl (Laws.Slot.sSlot_lt _)
theorem Sys2Proof.Laws.Slot.ctz (f : SUn) : Laws.Slot.Statement (.ctz f) := Laws.Slot.of_slot rfl rfl (Laws.Slot.sSlot_lt _)
theorem Sys2Proof.Laws.Slot.popc (f : SUn) : Laws.Slot.Statement (.popc f) := Laws.Slot.of_slot rfl rfl (Laws.Slot.sSlot_lt _)
theorem Sys2Proof.Laws.Slot.mov (f : SMov) : Laws.Slot.Statement (.mov f) := Laws.Slot.of_slot rfl rfl (Laws.Slot.sSlot_lt _)
theorem Sys2Proof.Laws.Slot.movh (f : SBin) : Laws.Slot.Statement (.movh f) := Laws.Slot.of_slot rfl rfl (Laws.Slot.sSlot_lt _)
theorem Sys2Proof.Laws.Slot.sext (f : SBin) : Laws.Slot.Statement (.sext f) := Laws.Slot.of_slot rfl rfl (Laws.Slot.sSlot_lt _)
theorem Sys2Proof.Laws.Slot.zext (f : SBin) : Laws.Slot.Statement (.zext f) := Laws.Slot.of_slot rfl rfl (Laws.Slot.sSlot_lt _)
theorem Sys2Proof.Laws.Slot.shadd1 (f : SBin) : Laws.Slot.Statement (.shadd1 f) := Laws.Slot.of_slot rfl rfl (Laws.Slot.sSlot_lt _)
theorem Sys2Proof.Laws.Slot.shadd2 (f : SBin) : Laws.Slot.Statement (.shadd2 f) := Laws.Slot.of_slot rfl rfl (Laws.Slot.sSlot_lt _)
theorem Sys2Proof.Laws.Slot.shadd3 (f : SBin) : Laws.Slot.Statement (.shadd3 f) := Laws.Slot.of_slot rfl rfl (Laws.Slot.sSlot_lt _)
theorem Sys2Proof.Laws.Slot.cmpeq (f : SCmp) : Laws.Slot.Statement (.cmpeq f) := Laws.Slot.of_slot rfl rfl (Laws.Slot.sSlot_lt _)
theorem Sys2Proof.Laws.Slot.cmpne (f : SCmp) : Laws.Slot.Statement (.cmpne f) := Laws.Slot.of_slot rfl rfl (Laws.Slot.sSlot_lt _)
theorem Sys2Proof.Laws.Slot.cmplt (f : SCmp) : Laws.Slot.Statement (.cmplt f) := Laws.Slot.of_slot rfl rfl (Laws.Slot.sSlot_lt _)
theorem Sys2Proof.Laws.Slot.cmple (f : SCmp) : Laws.Slot.Statement (.cmple f) := Laws.Slot.of_slot rfl rfl (Laws.Slot.sSlot_lt _)
theorem Sys2Proof.Laws.Slot.cmpltn (f : SCmp) : Laws.Slot.Statement (.cmpltn f) := Laws.Slot.of_slot rfl rfl (Laws.Slot.sSlot_lt _)
theorem Sys2Proof.Laws.Slot.cmplen (f : SCmp) : Laws.Slot.Statement (.cmplen f) := Laws.Slot.of_slot rfl rfl (Laws.Slot.sSlot_lt _)
theorem Sys2Proof.Laws.Slot.pand (f : SPred) : Laws.Slot.Statement (.pand f) := Laws.Slot.of_slot rfl rfl (Laws.Slot.sSlot_lt _)
theorem Sys2Proof.Laws.Slot.por (f : SPred) : Laws.Slot.Statement (.por f) := Laws.Slot.of_slot rfl rfl (Laws.Slot.sSlot_lt _)
theorem Sys2Proof.Laws.Slot.pxor (f : SPred) : Laws.Slot.Statement (.pxor f) := Laws.Slot.of_slot rfl rfl (Laws.Slot.sSlot_lt _)
theorem Sys2Proof.Laws.Slot.pandn (f : SPred) : Laws.Slot.Statement (.pandn f) := Laws.Slot.of_slot rfl rfl (Laws.Slot.sSlot_lt _)
theorem Sys2Proof.Laws.Slot.pget (f : SPget) : Laws.Slot.Statement (.pget f) := Laws.Slot.of_slot rfl rfl (Laws.Slot.sSlot_lt _)
theorem Sys2Proof.Laws.Slot.pset (f : SPset) : Laws.Slot.Statement (.pset f) := Laws.Slot.of_slot rfl rfl (Laws.Slot.sSlot_lt _)
theorem Sys2Proof.Laws.Slot.pall (f : SPred) : Laws.Slot.Statement (.pall f) := Laws.Slot.of_slot rfl rfl (Laws.Slot.sSlot_lt _)
theorem Sys2Proof.Laws.Slot.fadd (f : SFBin) : Laws.Slot.Statement (.fadd f) := Laws.Slot.of_slot rfl rfl (Laws.Slot.sSlot_lt _)
theorem Sys2Proof.Laws.Slot.fsub (f : SFBin) : Laws.Slot.Statement (.fsub f) := Laws.Slot.of_slot rfl rfl (Laws.Slot.sSlot_lt _)
theorem Sys2Proof.Laws.Slot.fmul (f : SFBin) : Laws.Slot.Statement (.fmul f) := Laws.Slot.of_slot rfl rfl (Laws.Slot.sSlot_lt _)
theorem Sys2Proof.Laws.Slot.fma (f : SFBin) : Laws.Slot.Statement (.fma f) := Laws.Slot.of_slot rfl rfl (Laws.Slot.sSlot_lt _)
theorem Sys2Proof.Laws.Slot.fdiv (f : SFBin) : Laws.Slot.Statement (.fdiv f) := Laws.Slot.of_slot rfl rfl (Laws.Slot.sSlot_lt _)
theorem Sys2Proof.Laws.Slot.fsqrt (f : SFUn) : Laws.Slot.Statement (.fsqrt f) := Laws.Slot.of_slot rfl rfl (Laws.Slot.sSlot_lt _)
theorem Sys2Proof.Laws.Slot.fmin (f : SFBin) : Laws.Slot.Statement (.fmin f) := Laws.Slot.of_slot rfl rfl (Laws.Slot.sSlot_lt _)
theorem Sys2Proof.Laws.Slot.fmax (f : SFBin) : Laws.Slot.Statement (.fmax f) := Laws.Slot.of_slot rfl rfl (Laws.Slot.sSlot_lt _)
theorem Sys2Proof.Laws.Slot.fcmpeq (f : SFCmp) : Laws.Slot.Statement (.fcmpeq f) := Laws.Slot.of_slot rfl rfl (Laws.Slot.sSlot_lt _)
theorem Sys2Proof.Laws.Slot.fcmplt (f : SFCmp) : Laws.Slot.Statement (.fcmplt f) := Laws.Slot.of_slot rfl rfl (Laws.Slot.sSlot_lt _)
theorem Sys2Proof.Laws.Slot.fcmple (f : SFCmp) : Laws.Slot.Statement (.fcmple f) := Laws.Slot.of_slot rfl rfl (Laws.Slot.sSlot_lt _)
theorem Sys2Proof.Laws.Slot.fcmpun (f : SFCmp) : Laws.Slot.Statement (.fcmpun f) := Laws.Slot.of_slot rfl rfl (Laws.Slot.sSlot_lt _)
theorem Sys2Proof.Laws.Slot.ftoi (f : SFConv) : Laws.Slot.Statement (.ftoi f) := Laws.Slot.of_slot rfl rfl (Laws.Slot.sSlot_lt _)
theorem Sys2Proof.Laws.Slot.itof (f : SFConv) : Laws.Slot.Statement (.itof f) := Laws.Slot.of_slot rfl rfl (Laws.Slot.sSlot_lt _)
theorem Sys2Proof.Laws.Slot.fcvt (f : SFUn) : Laws.Slot.Statement (.fcvt f) := Laws.Slot.of_slot rfl rfl (Laws.Slot.sSlot_lt _)
theorem Sys2Proof.Laws.Slot.fclass (f : SFUn) : Laws.Slot.Statement (.fclass f) := Laws.Slot.of_slot rfl rfl (Laws.Slot.sSlot_lt _)
theorem Sys2Proof.Laws.Slot.mfs (f : SMfs) : Laws.Slot.Statement (.mfs f) := Laws.Slot.of_slot rfl rfl (Laws.Slot.sSlot_lt _)
theorem Sys2Proof.Laws.Slot.mts (f : SMts) : Laws.Slot.Statement (.mts f) := Laws.Slot.of_slot rfl rfl (Laws.Slot.sSlot_lt _)
theorem Sys2Proof.Laws.Slot.probe (f : SProbe) : Laws.Slot.Statement (.probe f) := Laws.Slot.of_slot rfl rfl (Laws.Slot.sSlot_lt _)
theorem Sys2Proof.Laws.Slot.vadd (f : VBin) : Laws.Slot.Statement (.vadd f) := Laws.Slot.of_slot rfl rfl (Laws.Slot.vSlot_lt _)
theorem Sys2Proof.Laws.Slot.vsub (f : VBin) : Laws.Slot.Statement (.vsub f) := Laws.Slot.of_slot rfl rfl (Laws.Slot.vSlot_lt _)
theorem Sys2Proof.Laws.Slot.vmul (f : VBin) : Laws.Slot.Statement (.vmul f) := Laws.Slot.of_slot rfl rfl (Laws.Slot.vSlot_lt _)
theorem Sys2Proof.Laws.Slot.vfma (f : VBin) : Laws.Slot.Statement (.vfma f) := Laws.Slot.of_slot rfl rfl (Laws.Slot.vSlot_lt _)
theorem Sys2Proof.Laws.Slot.vfms (f : VBin) : Laws.Slot.Statement (.vfms f) := Laws.Slot.of_slot rfl rfl (Laws.Slot.vSlot_lt _)
theorem Sys2Proof.Laws.Slot.vmin (f : VBin) : Laws.Slot.Statement (.vmin f) := Laws.Slot.of_slot rfl rfl (Laws.Slot.vSlot_lt _)
theorem Sys2Proof.Laws.Slot.vmax (f : VBin) : Laws.Slot.Statement (.vmax f) := Laws.Slot.of_slot rfl rfl (Laws.Slot.vSlot_lt _)
theorem Sys2Proof.Laws.Slot.vminn (f : VBin) : Laws.Slot.Statement (.vminn f) := Laws.Slot.of_slot rfl rfl (Laws.Slot.vSlot_lt _)
theorem Sys2Proof.Laws.Slot.vmaxn (f : VBin) : Laws.Slot.Statement (.vmaxn f) := Laws.Slot.of_slot rfl rfl (Laws.Slot.vSlot_lt _)
theorem Sys2Proof.Laws.Slot.vabs (f : VUn) : Laws.Slot.Statement (.vabs f) := Laws.Slot.of_slot rfl rfl (Laws.Slot.vSlot_lt _)
theorem Sys2Proof.Laws.Slot.vneg (f : VUn) : Laws.Slot.Statement (.vneg f) := Laws.Slot.of_slot rfl rfl (Laws.Slot.vSlot_lt _)
theorem Sys2Proof.Laws.Slot.vmulh (f : VBin) : Laws.Slot.Statement (.vmulh f) := Laws.Slot.of_slot rfl rfl (Laws.Slot.vSlot_lt _)
theorem Sys2Proof.Laws.Slot.vmulhn (f : VBin) : Laws.Slot.Statement (.vmulhn f) := Laws.Slot.of_slot rfl rfl (Laws.Slot.vSlot_lt _)
theorem Sys2Proof.Laws.Slot.vsadd (f : VBin) : Laws.Slot.Statement (.vsadd f) := Laws.Slot.of_slot rfl rfl (Laws.Slot.vSlot_lt _)
theorem Sys2Proof.Laws.Slot.vssub (f : VBin) : Laws.Slot.Statement (.vssub f) := Laws.Slot.of_slot rfl rfl (Laws.Slot.vSlot_lt _)
theorem Sys2Proof.Laws.Slot.vand (f : VBin) : Laws.Slot.Statement (.vand f) := Laws.Slot.of_slot rfl rfl (Laws.Slot.vSlot_lt _)
theorem Sys2Proof.Laws.Slot.vor (f : VBin) : Laws.Slot.Statement (.vor f) := Laws.Slot.of_slot rfl rfl (Laws.Slot.vSlot_lt _)
theorem Sys2Proof.Laws.Slot.vxor (f : VBin) : Laws.Slot.Statement (.vxor f) := Laws.Slot.of_slot rfl rfl (Laws.Slot.vSlot_lt _)
theorem Sys2Proof.Laws.Slot.vandn (f : VBin) : Laws.Slot.Statement (.vandn f) := Laws.Slot.of_slot rfl rfl (Laws.Slot.vSlot_lt _)
theorem Sys2Proof.Laws.Slot.vnot (f : VUn) : Laws.Slot.Statement (.vnot f) := Laws.Slot.of_slot rfl rfl (Laws.Slot.vSlot_lt _)
theorem Sys2Proof.Laws.Slot.vshl (f : VBin) : Laws.Slot.Statement (.vshl f) := Laws.Slot.of_slot rfl rfl (Laws.Slot.vSlot_lt _)
theorem Sys2Proof.Laws.Slot.vshr (f : VBin) : Laws.Slot.Statement (.vshr f) := Laws.Slot.of_slot rfl rfl (Laws.Slot.vSlot_lt _)
theorem Sys2Proof.Laws.Slot.vsra (f : VBin) : Laws.Slot.Statement (.vsra f) := Laws.Slot.of_slot rfl rfl (Laws.Slot.vSlot_lt _)
theorem Sys2Proof.Laws.Slot.vclz (f : VUn) : Laws.Slot.Statement (.vclz f) := Laws.Slot.of_slot rfl rfl (Laws.Slot.vSlot_lt _)
theorem Sys2Proof.Laws.Slot.vpopc (f : VUn) : Laws.Slot.Statement (.vpopc f) := Laws.Slot.of_slot rfl rfl (Laws.Slot.vSlot_lt _)
theorem Sys2Proof.Laws.Slot.vcmpeq (f : VCmp) : Laws.Slot.Statement (.vcmpeq f) := Laws.Slot.of_slot rfl rfl (Laws.Slot.vSlot_lt _)
theorem Sys2Proof.Laws.Slot.vcmpne (f : VCmp) : Laws.Slot.Statement (.vcmpne f) := Laws.Slot.of_slot rfl rfl (Laws.Slot.vSlot_lt _)
theorem Sys2Proof.Laws.Slot.vcmplt (f : VCmp) : Laws.Slot.Statement (.vcmplt f) := Laws.Slot.of_slot rfl rfl (Laws.Slot.vSlot_lt _)
theorem Sys2Proof.Laws.Slot.vcmple (f : VCmp) : Laws.Slot.Statement (.vcmple f) := Laws.Slot.of_slot rfl rfl (Laws.Slot.vSlot_lt _)
theorem Sys2Proof.Laws.Slot.vcmpltn (f : VCmp) : Laws.Slot.Statement (.vcmpltn f) := Laws.Slot.of_slot rfl rfl (Laws.Slot.vSlot_lt _)
theorem Sys2Proof.Laws.Slot.vcmplen (f : VCmp) : Laws.Slot.Statement (.vcmplen f) := Laws.Slot.of_slot rfl rfl (Laws.Slot.vSlot_lt _)
theorem Sys2Proof.Laws.Slot.vcmpun (f : VCmp) : Laws.Slot.Statement (.vcmpun f) := Laws.Slot.of_slot rfl rfl (Laws.Slot.vSlot_lt _)
theorem Sys2Proof.Laws.Slot.vsel (f : VTer) : Laws.Slot.Statement (.vsel f) := Laws.Slot.of_slot rfl rfl (Laws.Slot.vSlot_lt _)
theorem Sys2Proof.Laws.Slot.vmov (f : VMov) : Laws.Slot.Statement (.vmov f) := Laws.Slot.of_slot rfl rfl (Laws.Slot.vSlot_lt _)
theorem Sys2Proof.Laws.Slot.vbcast (f : VBcast) : Laws.Slot.Statement (.vbcast f) := Laws.Slot.of_slot rfl rfl (Laws.Slot.vSlot_lt _)
theorem Sys2Proof.Laws.Slot.vxmov (f : VUn) : Laws.Slot.Statement (.vxmov f) := Laws.Slot.of_slot rfl rfl (Laws.Slot.vSlot_lt _)
theorem Sys2Proof.Laws.Slot.vperm (f : VTer) : Laws.Slot.Statement (.vperm f) := Laws.Slot.of_slot rfl rfl (Laws.Slot.vSlot_lt _)
theorem Sys2Proof.Laws.Slot.vperm2 (f : VTer) : Laws.Slot.Statement (.vperm2 f) := Laws.Slot.of_slot rfl rfl (Laws.Slot.vSlot_lt _)
theorem Sys2Proof.Laws.Slot.vslideup (f : VSlide) : Laws.Slot.Statement (.vslideup f) := Laws.Slot.of_slot rfl rfl (Laws.Slot.vSlot_lt _)
theorem Sys2Proof.Laws.Slot.vslidedn (f : VSlide) : Laws.Slot.Statement (.vslidedn f) := Laws.Slot.of_slot rfl rfl (Laws.Slot.vSlot_lt _)
theorem Sys2Proof.Laws.Slot.vzip (f : VZip) : Laws.Slot.Statement (.vzip f) := Laws.Slot.of_slot rfl rfl (Laws.Slot.vSlot_lt _)
theorem Sys2Proof.Laws.Slot.vunzip (f : VZip) : Laws.Slot.Statement (.vunzip f) := Laws.Slot.of_slot rfl rfl (Laws.Slot.vSlot_lt _)
theorem Sys2Proof.Laws.Slot.viota (f : VIota) : Laws.Slot.Statement (.viota f) := Laws.Slot.of_slot rfl rfl (Laws.Slot.vSlot_lt _)
theorem Sys2Proof.Laws.Slot.vcompress (f : VUn) : Laws.Slot.Statement (.vcompress f) := Laws.Slot.of_slot rfl rfl (Laws.Slot.vSlot_lt _)
theorem Sys2Proof.Laws.Slot.vexpand (f : VUn) : Laws.Slot.Statement (.vexpand f) := Laws.Slot.of_slot rfl rfl (Laws.Slot.vSlot_lt _)
theorem Sys2Proof.Laws.Slot.vextract (f : VExtract) : Laws.Slot.Statement (.vextract f) := Laws.Slot.of_slot rfl rfl (Laws.Slot.vSlot_lt _)
theorem Sys2Proof.Laws.Slot.vredadd (f : VUn) : Laws.Slot.Statement (.vredadd f) := Laws.Slot.of_slot rfl rfl (Laws.Slot.vSlot_lt _)
theorem Sys2Proof.Laws.Slot.vredmax (f : VUn) : Laws.Slot.Statement (.vredmax f) := Laws.Slot.of_slot rfl rfl (Laws.Slot.vSlot_lt _)
theorem Sys2Proof.Laws.Slot.vredmin (f : VUn) : Laws.Slot.Statement (.vredmin f) := Laws.Slot.of_slot rfl rfl (Laws.Slot.vSlot_lt _)
theorem Sys2Proof.Laws.Slot.vscan (f : VUn) : Laws.Slot.Statement (.vscan f) := Laws.Slot.of_slot rfl rfl (Laws.Slot.vSlot_lt _)
theorem Sys2Proof.Laws.Slot.vargmax (f : VUn) : Laws.Slot.Statement (.vargmax f) := Laws.Slot.of_slot rfl rfl (Laws.Slot.vSlot_lt _)
theorem Sys2Proof.Laws.Slot.vargmin (f : VUn) : Laws.Slot.Statement (.vargmin f) := Laws.Slot.of_slot rfl rfl (Laws.Slot.vSlot_lt _)
theorem Sys2Proof.Laws.Slot.vcvt (f : VCvt) : Laws.Slot.Statement (.vcvt f) := Laws.Slot.of_slot rfl rfl (Laws.Slot.vSlot_lt _)
theorem Sys2Proof.Laws.Slot.vcvtq (f : VCvtq) : Laws.Slot.Statement (.vcvtq f) := Laws.Slot.of_slot rfl rfl (Laws.Slot.vSlot_lt _)
theorem Sys2Proof.Laws.Slot.vpack4 (f : VUn) : Laws.Slot.Statement (.vpack4 f) := Laws.Slot.of_slot rfl rfl (Laws.Slot.vSlot_lt _)
theorem Sys2Proof.Laws.Slot.vunpack4 (f : VUn) : Laws.Slot.Statement (.vunpack4 f) := Laws.Slot.of_slot rfl rfl (Laws.Slot.vSlot_lt _)
theorem Sys2Proof.Laws.Slot.vscale (f : VTer) : Laws.Slot.Statement (.vscale f) := Laws.Slot.of_slot rfl rfl (Laws.Slot.vSlot_lt _)
theorem Sys2Proof.Laws.Slot.vplane (f : VUn) : Laws.Slot.Statement (.vplane f) := Laws.Slot.of_slot rfl rfl (Laws.Slot.vSlot_lt _)
theorem Sys2Proof.Laws.Slot.vunplane (f : VUn) : Laws.Slot.Statement (.vunplane f) := Laws.Slot.of_slot rfl rfl (Laws.Slot.vSlot_lt _)
theorem Sys2Proof.Laws.Slot.vdot4 (f : VDot) : Laws.Slot.Statement (.vdot4 f) := Laws.Slot.of_slot rfl rfl (Laws.Slot.vSlot_lt _)
theorem Sys2Proof.Laws.Slot.vexp2 (f : FUn) : Laws.Slot.Statement (.vexp2 f) := Laws.Slot.of_slot rfl rfl ((by decide : 5 < 12))
theorem Sys2Proof.Laws.Slot.vexp (f : FUn) : Laws.Slot.Statement (.vexp f) := Laws.Slot.of_slot rfl rfl ((by decide : 5 < 12))
theorem Sys2Proof.Laws.Slot.vlog2 (f : FUn) : Laws.Slot.Statement (.vlog2 f) := Laws.Slot.of_slot rfl rfl ((by decide : 5 < 12))
theorem Sys2Proof.Laws.Slot.vln (f : FUn) : Laws.Slot.Statement (.vln f) := Laws.Slot.of_slot rfl rfl ((by decide : 5 < 12))
theorem Sys2Proof.Laws.Slot.vrcp (f : FUn) : Laws.Slot.Statement (.vrcp f) := Laws.Slot.of_slot rfl rfl ((by decide : 5 < 12))
theorem Sys2Proof.Laws.Slot.vrsq (f : FUn) : Laws.Slot.Statement (.vrsq f) := Laws.Slot.of_slot rfl rfl ((by decide : 5 < 12))
theorem Sys2Proof.Laws.Slot.vsqrt (f : FUn) : Laws.Slot.Statement (.vsqrt f) := Laws.Slot.of_slot rfl rfl ((by decide : 5 < 12))
theorem Sys2Proof.Laws.Slot.vtanh (f : FUn) : Laws.Slot.Statement (.vtanh f) := Laws.Slot.of_slot rfl rfl ((by decide : 5 < 12))
theorem Sys2Proof.Laws.Slot.vsigm (f : FUn) : Laws.Slot.Statement (.vsigm f) := Laws.Slot.of_slot rfl rfl ((by decide : 5 < 12))
theorem Sys2Proof.Laws.Slot.vsin (f : FUn) : Laws.Slot.Statement (.vsin f) := Laws.Slot.of_slot rfl rfl ((by decide : 5 < 12))
theorem Sys2Proof.Laws.Slot.vcos (f : FUn) : Laws.Slot.Statement (.vcos f) := Laws.Slot.of_slot rfl rfl ((by decide : 5 < 12))
theorem Sys2Proof.Laws.Slot.verf (f : FUn) : Laws.Slot.Statement (.verf f) := Laws.Slot.of_slot rfl rfl ((by decide : 5 < 12))
theorem Sys2Proof.Laws.Slot.vgelu (f : FUn) : Laws.Slot.Statement (.vgelu f) := Laws.Slot.of_slot rfl rfl ((by decide : 5 < 12))
theorem Sys2Proof.Laws.Slot.lds (f : MMem) : Laws.Slot.Statement (.lds f) := Laws.Slot.of_slot rfl rfl (Laws.Slot.mSlot_lt _)
theorem Sys2Proof.Laws.Slot.ldsn (f : MMem) : Laws.Slot.Statement (.ldsn f) := Laws.Slot.of_slot rfl rfl (Laws.Slot.mSlot_lt _)
theorem Sys2Proof.Laws.Slot.sts (f : MMem) : Laws.Slot.Statement (.sts f) := Laws.Slot.of_slot rfl rfl (Laws.Slot.mSlot_lt _)
theorem Sys2Proof.Laws.Slot.ldv (f : MMem) : Laws.Slot.Statement (.ldv f) := Laws.Slot.of_slot rfl rfl (Laws.Slot.mSlot_lt _)
theorem Sys2Proof.Laws.Slot.stv (f : MMem) : Laws.Slot.Statement (.stv f) := Laws.Slot.of_slot rfl rfl (Laws.Slot.mSlot_lt _)
theorem Sys2Proof.Laws.Slot.ldvx (f : MIdx) : Laws.Slot.Statement (.ldvx f) := Laws.Slot.of_slot rfl rfl (Laws.Slot.mSlot_lt _)
theorem Sys2Proof.Laws.Slot.stvx (f : MIdx) : Laws.Slot.Statement (.stvx f) := Laws.Slot.of_slot rfl rfl (Laws.Slot.mSlot_lt _)
theorem Sys2Proof.Laws.Slot.ldvb (f : MMem) : Laws.Slot.Statement (.ldvb f) := Laws.Slot.of_slot rfl rfl (Laws.Slot.mSlot_lt _)
theorem Sys2Proof.Laws.Slot.ldvs (f : MIdx) : Laws.Slot.Statement (.ldvs f) := Laws.Slot.of_slot rfl rfl (Laws.Slot.mSlot_lt _)
theorem Sys2Proof.Laws.Slot.ldg (f : MMem) : Laws.Slot.Statement (.ldg f) := Laws.Slot.of_slot rfl rfl (Laws.Slot.mSlot_lt _)
theorem Sys2Proof.Laws.Slot.ldgn (f : MMem) : Laws.Slot.Statement (.ldgn f) := Laws.Slot.of_slot rfl rfl (Laws.Slot.mSlot_lt _)
theorem Sys2Proof.Laws.Slot.stg (f : MMem) : Laws.Slot.Statement (.stg f) := Laws.Slot.of_slot rfl rfl (Laws.Slot.mSlot_lt _)
theorem Sys2Proof.Laws.Slot.ldgv (f : MMem) : Laws.Slot.Statement (.ldgv f) := Laws.Slot.of_slot rfl rfl (Laws.Slot.mSlot_lt _)
theorem Sys2Proof.Laws.Slot.stgv (f : MMem) : Laws.Slot.Statement (.stgv f) := Laws.Slot.of_slot rfl rfl (Laws.Slot.mSlot_lt _)
theorem Sys2Proof.Laws.Slot.lda (f : MOrd) : Laws.Slot.Statement (.lda f) := Laws.Slot.of_slot rfl rfl (Laws.Slot.mSlot_lt _)
theorem Sys2Proof.Laws.Slot.stl (f : MOrd) : Laws.Slot.Statement (.stl f) := Laws.Slot.of_slot rfl rfl (Laws.Slot.mSlot_lt _)
theorem Sys2Proof.Laws.Slot.aadd (f : MOrd) : Laws.Slot.Statement (.aadd f) := Laws.Slot.of_slot rfl rfl (Laws.Slot.mSlot_lt _)
theorem Sys2Proof.Laws.Slot.amin (f : MOrd) : Laws.Slot.Statement (.amin f) := Laws.Slot.of_slot rfl rfl (Laws.Slot.mSlot_lt _)
theorem Sys2Proof.Laws.Slot.amax (f : MOrd) : Laws.Slot.Statement (.amax f) := Laws.Slot.of_slot rfl rfl (Laws.Slot.mSlot_lt _)
theorem Sys2Proof.Laws.Slot.aminn (f : MOrd) : Laws.Slot.Statement (.aminn f) := Laws.Slot.of_slot rfl rfl (Laws.Slot.mSlot_lt _)
theorem Sys2Proof.Laws.Slot.amaxn (f : MOrd) : Laws.Slot.Statement (.amaxn f) := Laws.Slot.of_slot rfl rfl (Laws.Slot.mSlot_lt _)
theorem Sys2Proof.Laws.Slot.aand (f : MOrd) : Laws.Slot.Statement (.aand f) := Laws.Slot.of_slot rfl rfl (Laws.Slot.mSlot_lt _)
theorem Sys2Proof.Laws.Slot.aor (f : MOrd) : Laws.Slot.Statement (.aor f) := Laws.Slot.of_slot rfl rfl (Laws.Slot.mSlot_lt _)
theorem Sys2Proof.Laws.Slot.axor (f : MOrd) : Laws.Slot.Statement (.axor f) := Laws.Slot.of_slot rfl rfl (Laws.Slot.mSlot_lt _)
theorem Sys2Proof.Laws.Slot.axchg (f : MOrd) : Laws.Slot.Statement (.axchg f) := Laws.Slot.of_slot rfl rfl (Laws.Slot.mSlot_lt _)
theorem Sys2Proof.Laws.Slot.acas (f : MOrd) : Laws.Slot.Statement (.acas f) := Laws.Slot.of_slot rfl rfl (Laws.Slot.mSlot_lt _)
theorem Sys2Proof.Laws.Slot.afadd (f : MOrd) : Laws.Slot.Statement (.afadd f) := Laws.Slot.of_slot rfl rfl (Laws.Slot.mSlot_lt _)
theorem Sys2Proof.Laws.Slot.vaor (f : MIdx) : Laws.Slot.Statement (.vaor f) := Laws.Slot.of_slot rfl rfl (Laws.Slot.mSlot_lt _)
theorem Sys2Proof.Laws.Slot.vaadd (f : MIdx) : Laws.Slot.Statement (.vaadd f) := Laws.Slot.of_slot rfl rfl (Laws.Slot.mSlot_lt _)
theorem Sys2Proof.Laws.Slot.drain (f : MDrain) : Laws.Slot.Statement (.drain f) := Laws.Slot.of_slot rfl rfl (Laws.Slot.mSlot_lt _)
theorem Sys2Proof.Laws.Slot.pref (f : MMem) : Laws.Slot.Statement (.pref f) := Laws.Slot.of_slot rfl rfl (Laws.Slot.mSlot_lt _)
theorem Sys2Proof.Laws.Slot.resid (f : MMem) : Laws.Slot.Statement (.resid f) := Laws.Slot.of_slot rfl rfl (Laws.Slot.mSlot_lt _)
theorem Sys2Proof.Laws.Slot.icpin (f : MMem) : Laws.Slot.Statement (.icpin f) := Laws.Slot.of_slot rfl rfl (Laws.Slot.mSlot_lt _)
theorem Sys2Proof.Laws.Slot.icunpin (f : MMem) : Laws.Slot.Statement (.icunpin f) := Laws.Slot.of_slot rfl rfl (Laws.Slot.mSlot_lt _)
theorem Sys2Proof.Laws.Slot.dcwb (f : MMem) : Laws.Slot.Statement (.dcwb f) := Laws.Slot.of_slot rfl rfl (Laws.Slot.mSlot_lt _)
theorem Sys2Proof.Laws.Slot.dcinv (f : MMem) : Laws.Slot.Statement (.dcinv f) := Laws.Slot.of_slot rfl rfl (Laws.Slot.mSlot_lt _)
theorem Sys2Proof.Laws.Slot.mma (f : XMul) : Laws.Slot.Statement (.mma f) := Laws.Slot.of_slot rfl rfl ((by decide : 8 < 12))
theorem Sys2Proof.Laws.Slot.mmas (f : XMul) : Laws.Slot.Statement (.mmas f) := Laws.Slot.of_slot rfl rfl ((by decide : 8 < 12))
theorem Sys2Proof.Laws.Slot.mconv (f : XMul) : Laws.Slot.Statement (.mconv f) := Laws.Slot.of_slot rfl rfl ((by decide : 8 < 12))
theorem Sys2Proof.Laws.Slot.mzero (f : XAcc) : Laws.Slot.Statement (.mzero f) := Laws.Slot.of_slot rfl rfl ((by decide : 8 < 12))
theorem Sys2Proof.Laws.Slot.mread (f : XRow) : Laws.Slot.Statement (.mread f) := Laws.Slot.of_slot rfl rfl ((by decide : 8 < 12))
theorem Sys2Proof.Laws.Slot.mwrite (f : XRow) : Laws.Slot.Statement (.mwrite f) := Laws.Slot.of_slot rfl rfl ((by decide : 8 < 12))
theorem Sys2Proof.Laws.Slot.mstore (f : XTile) : Laws.Slot.Statement (.mstore f) := Laws.Slot.of_slot rfl rfl ((by decide : 8 < 12))
theorem Sys2Proof.Laws.Slot.mplane (f : XTile) : Laws.Slot.Statement (.mplane f) := Laws.Slot.of_slot rfl rfl ((by decide : 8 < 12))
theorem Sys2Proof.Laws.Slot.msett (f : XSett) : Laws.Slot.Statement (.msett f) := Laws.Slot.of_slot rfl rfl ((by decide : 8 < 12))
theorem Sys2Proof.Laws.Slot.mfence (f : XNone) : Laws.Slot.Statement (.mfence f) := Laws.Slot.of_slot rfl rfl ((by decide : 8 < 12))
theorem Sys2Proof.Laws.Slot.kseta (f : KSrc) : Laws.Slot.Statement (.kseta f) := Laws.Slot.of_slot rfl rfl ((by decide : 10 < 12))
theorem Sys2Proof.Laws.Slot.ksetb (f : KSrc) : Laws.Slot.Statement (.ksetb f) := Laws.Slot.of_slot rfl rfl ((by decide : 10 < 12))
theorem Sys2Proof.Laws.Slot.kfill (f : KFill) : Laws.Slot.Statement (.kfill f) := Laws.Slot.of_slot rfl rfl ((by decide : 10 < 12))
theorem Sys2Proof.Laws.Slot.kclr (f : KNone) : Laws.Slot.Statement (.kclr f) := Laws.Slot.of_slot rfl rfl ((by decide : 10 < 12))
theorem Sys2Proof.Laws.Slot.lsw (f : CLs) : Laws.Slot.Statement (.lsw f) := Laws.Slot.of_slot rfl rfl ((by decide : 9 < 12))
theorem Sys2Proof.Laws.Slot.lsr (f : CLs) : Laws.Slot.Statement (.lsr f) := Laws.Slot.of_slot rfl rfl ((by decide : 9 < 12))
theorem Sys2Proof.Laws.Slot.cpyin (f : CCopy) : Laws.Slot.Statement (.cpyin f) := Laws.Slot.of_slot rfl rfl ((by decide : 9 < 12))
theorem Sys2Proof.Laws.Slot.cpyout (f : CCopy) : Laws.Slot.Statement (.cpyout f) := Laws.Slot.of_slot rfl rfl ((by decide : 9 < 12))
theorem Sys2Proof.Laws.Slot.cpych (f : CChain) : Laws.Slot.Statement (.cpych f) := Laws.Slot.of_slot rfl rfl ((by decide : 9 < 12))
theorem Sys2Proof.Laws.Slot.cpykv (f : CCopy) : Laws.Slot.Statement (.cpykv f) := Laws.Slot.of_slot rfl rfl ((by decide : 9 < 12))
theorem Sys2Proof.Laws.Slot.cpyst (f : CState) : Laws.Slot.Statement (.cpyst f) := Laws.Slot.of_slot rfl rfl ((by decide : 9 < 12))
theorem Sys2Proof.Laws.Slot.cpymsg (f : CCopy) : Laws.Slot.Statement (.cpymsg f) := Laws.Slot.of_slot rfl rfl ((by decide : 9 < 12))
theorem Sys2Proof.Laws.Slot.abclr (f : CAb) : Laws.Slot.Statement (.abclr f) := Laws.Slot.of_slot rfl rfl ((by decide : 9 < 12))
theorem Sys2Proof.Laws.Slot.abwait (f : CAb) : Laws.Slot.Statement (.abwait f) := Laws.Slot.of_slot rfl rfl ((by decide : 9 < 12))
theorem Sys2Proof.Laws.Slot.semset (f : CSem) : Laws.Slot.Statement (.semset f) := Laws.Slot.of_slot rfl rfl ((by decide : 9 < 12))
theorem Sys2Proof.Laws.Slot.semadd (f : CSem) : Laws.Slot.Statement (.semadd f) := Laws.Slot.of_slot rfl rfl ((by decide : 9 < 12))
theorem Sys2Proof.Laws.Slot.semrd (f : CSem) : Laws.Slot.Statement (.semrd f) := Laws.Slot.of_slot rfl rfl ((by decide : 9 < 12))
theorem Sys2Proof.Laws.Slot.semwait (f : CSemw) : Laws.Slot.Statement (.semwait f) := Laws.Slot.of_slot rfl rfl ((by decide : 9 < 12))
theorem Sys2Proof.Laws.Slot.send (f : CTwo) : Laws.Slot.Statement (.send f) := Laws.Slot.of_slot rfl rfl ((by decide : 9 < 12))
theorem Sys2Proof.Laws.Slot.recv (f : CPair) : Laws.Slot.Statement (.recv f) := Laws.Slot.of_slot rfl rfl ((by decide : 9 < 12))
theorem Sys2Proof.Laws.Slot.recvp (f : CRecvp) : Laws.Slot.Statement (.recvp f) := Laws.Slot.of_slot rfl rfl ((by decide : 9 < 12))
theorem Sys2Proof.Laws.Slot.mbstat (f : COne) : Laws.Slot.Statement (.mbstat f) := Laws.Slot.of_slot rfl rfl ((by decide : 9 < 12))
theorem Sys2Proof.Laws.Slot.coll (f : CColl) : Laws.Slot.Statement (.coll f) := Laws.Slot.of_slot rfl rfl ((by decide : 9 < 12))
theorem Sys2Proof.Laws.Slot.collarm (f : CArm) : Laws.Slot.Statement (.collarm f) := Laws.Slot.of_slot rfl rfl ((by decide : 9 < 12))
theorem Sys2Proof.Laws.Slot.bwset (f : COne) : Laws.Slot.Statement (.bwset f) := Laws.Slot.of_slot rfl rfl ((by decide : 9 < 12))
theorem Sys2Proof.Laws.Slot.sopen (f : CTwo) : Laws.Slot.Statement (.sopen f) := Laws.Slot.of_slot rfl rfl ((by decide : 9 < 12))
theorem Sys2Proof.Laws.Slot.sclose (f : CTwo) : Laws.Slot.Statement (.sclose f) := Laws.Slot.of_slot rfl rfl ((by decide : 9 < 12))
theorem Sys2Proof.Laws.Slot.ssnap (f : CTwo) : Laws.Slot.Statement (.ssnap f) := Laws.Slot.of_slot rfl rfl ((by decide : 9 < 12))
theorem Sys2Proof.Laws.Slot.sroll (f : CTwo) : Laws.Slot.Statement (.sroll f) := Laws.Slot.of_slot rfl rfl ((by decide : 9 < 12))
theorem Sys2Proof.Laws.Slot.sfork (f : CTwo) : Laws.Slot.Statement (.sfork f) := Laws.Slot.of_slot rfl rfl ((by decide : 9 < 12))
theorem Sys2Proof.Laws.Slot.sdrop (f : CTwo) : Laws.Slot.Statement (.sdrop f) := Laws.Slot.of_slot rfl rfl ((by decide : 9 < 12))
theorem Sys2Proof.Laws.Slot.spin (f : CSpin) : Laws.Slot.Statement (.spin f) := Laws.Slot.of_slot rfl rfl ((by decide : 9 < 12))
theorem Sys2Proof.Laws.Slot.sqry (f : CSqry) : Laws.Slot.Statement (.sqry f) := Laws.Slot.of_slot rfl rfl ((by decide : 9 < 12))
theorem Sys2Proof.Laws.Slot.spawn (f : COne) : Laws.Slot.Statement (.spawn f) := Laws.Slot.of_slot rfl rfl ((by decide : 9 < 12))
theorem Sys2Proof.Laws.Slot.take (f : CTwo) : Laws.Slot.Statement (.take f) := Laws.Slot.of_slot rfl rfl ((by decide : 9 < 12))
theorem Sys2Proof.Laws.Slot.steal (f : CPair) : Laws.Slot.Statement (.steal f) := Laws.Slot.of_slot rfl rfl ((by decide : 9 < 12))
theorem Sys2Proof.Laws.Slot.join (f : COne) : Laws.Slot.Statement (.join f) := Laws.Slot.of_slot rfl rfl ((by decide : 9 < 12))
theorem Sys2Proof.Laws.Slot.domset (f : CTwo) : Laws.Slot.Statement (.domset f) := Laws.Slot.of_slot rfl rfl ((by decide : 9 < 12))
theorem Sys2Proof.Laws.Slot.br (f : BOff) : Laws.Slot.Statement (.br f) := Laws.Slot.of_slot rfl rfl ((by decide : 11 < 12))
theorem Sys2Proof.Laws.Slot.bra (f : BOff) : Laws.Slot.Statement (.bra f) := Laws.Slot.of_slot rfl rfl ((by decide : 11 < 12))
theorem Sys2Proof.Laws.Slot.brf (f : BOff) : Laws.Slot.Statement (.brf f) := Laws.Slot.of_slot rfl rfl ((by decide : 11 < 12))
theorem Sys2Proof.Laws.Slot.bl (f : BOff) : Laws.Slot.Statement (.bl f) := Laws.Slot.of_slot rfl rfl ((by decide : 11 < 12))
theorem Sys2Proof.Laws.Slot.jr (f : BReg) : Laws.Slot.Statement (.jr f) := Laws.Slot.of_slot rfl rfl ((by decide : 11 < 12))
theorem Sys2Proof.Laws.Slot.jrl (f : BReg) : Laws.Slot.Statement (.jrl f) := Laws.Slot.of_slot rfl rfl ((by decide : 11 < 12))
theorem Sys2Proof.Laws.Slot.ret (f : BNone) : Laws.Slot.Statement (.ret f) := Laws.Slot.of_slot rfl rfl ((by decide : 11 < 12))
theorem Sys2Proof.Laws.Slot.bloopw (f : BLoop) : Laws.Slot.Statement (.bloopw f) := Laws.Slot.of_slot rfl rfl ((by decide : 11 < 12))
theorem Sys2Proof.Laws.Slot.bloope (f : BLoop) : Laws.Slot.Statement (.bloope f) := Laws.Slot.of_slot rfl rfl ((by decide : 11 < 12))
theorem Sys2Proof.Laws.Slot.bar (f : BLev) : Laws.Slot.Statement (.bar f) := Laws.Slot.of_slot rfl rfl ((by decide : 11 < 12))
theorem Sys2Proof.Laws.Slot.bara (f : BLev) : Laws.Slot.Statement (.bara f) := Laws.Slot.of_slot rfl rfl ((by decide : 11 < 12))
theorem Sys2Proof.Laws.Slot.barw (f : BLev) : Laws.Slot.Statement (.barw f) := Laws.Slot.of_slot rfl rfl ((by decide : 11 < 12))
theorem Sys2Proof.Laws.Slot.yield (f : BReg) : Laws.Slot.Statement (.yield f) := Laws.Slot.of_slot rfl rfl ((by decide : 11 < 12))
theorem Sys2Proof.Laws.Slot.endt (f : BNone) : Laws.Slot.Statement (.endt f) := Laws.Slot.of_slot rfl rfl ((by decide : 11 < 12))
theorem Sys2Proof.Laws.Slot.halt (f : BNone) : Laws.Slot.Statement (.halt f) := Laws.Slot.of_slot rfl rfl ((by decide : 11 < 12))
theorem Sys2Proof.Laws.Slot.trap (f : BCode) : Laws.Slot.Statement (.trap f) := Laws.Slot.of_slot rfl rfl ((by decide : 11 < 12))
theorem Sys2Proof.Laws.Slot.bkpt (f : BCode) : Laws.Slot.Statement (.bkpt f) := Laws.Slot.of_slot rfl rfl ((by decide : 11 < 12))
theorem Sys2Proof.Laws.Slot.eret (f : BNone) : Laws.Slot.Statement (.eret f) := Laws.Slot.of_slot rfl rfl ((by decide : 11 < 12))
theorem Sys2Proof.Laws.Slot.wfe (f : BNone) : Laws.Slot.Statement (.wfe f) := Laws.Slot.of_slot rfl rfl ((by decide : 11 < 12))
theorem Sys2Proof.Laws.Slot.prio (f : BReg) : Laws.Slot.Statement (.prio f) := Laws.Slot.of_slot rfl rfl ((by decide : 11 < 12))
theorem Sys2Proof.Laws.Slot.bundleIssue : Laws.Slot.Statement .bundleIssue := Laws.Slot.of_step rfl rfl
theorem Sys2Proof.Laws.Slot.scoreboardArrival : Laws.Slot.Statement .scoreboardArrival := Laws.Slot.of_step rfl rfl
theorem Sys2Proof.Laws.Slot.pendingEndEffect : Laws.Slot.Statement .pendingEndEffect := Laws.Slot.of_step rfl rfl
theorem Sys2Proof.Laws.Slot.wfeTimeout : Laws.Slot.Statement .wfeTimeout := Laws.Slot.of_step rfl rfl
theorem Sys2Proof.Laws.Slot.timerExpiry : Laws.Slot.Statement .timerExpiry := Laws.Slot.of_step rfl rfl
theorem Sys2Proof.Laws.Slot.mcLineRead : Laws.Slot.Statement .mcLineRead := Laws.Slot.of_step rfl rfl
theorem Sys2Proof.Laws.Slot.hotPageEpoch : Laws.Slot.Statement .hotPageEpoch := Laws.Slot.of_step rfl rfl
theorem Sys2Proof.Laws.Slot.mcLineWrite : Laws.Slot.Statement .mcLineWrite := Laws.Slot.of_step rfl rfl
theorem Sys2Proof.Laws.Slot.fastFill : Laws.Slot.Statement .fastFill := Laws.Slot.of_step rfl rfl
theorem Sys2Proof.Laws.Slot.mkLoad : Laws.Slot.Statement .mkLoad := Laws.Slot.of_step rfl rfl
theorem Sys2Proof.Laws.Slot.mkLoadRandom : Laws.Slot.Statement .mkLoadRandom := Laws.Slot.of_step rfl rfl
theorem Sys2Proof.Laws.Slot.mkZeroise : Laws.Slot.Statement .mkZeroise := Laws.Slot.of_step rfl rfl
theorem Sys2Proof.Laws.Slot.mkCommandComplete : Laws.Slot.Statement .mkCommandComplete := Laws.Slot.of_step rfl rfl
theorem Sys2Proof.Laws.Slot.bpctlSelect : Laws.Slot.Statement .bpctlSelect := Laws.Slot.of_step rfl rfl
theorem Sys2Proof.Laws.Slot.parkTestUnpark : Laws.Slot.Statement .parkTestUnpark := Laws.Slot.of_step rfl rfl
theorem Sys2Proof.Laws.Slot.parkTest : Laws.Slot.Statement .parkTest := Laws.Slot.of_step rfl rfl
theorem Sys2Proof.Laws.Slot.unpark : Laws.Slot.Statement .unpark := Laws.Slot.of_step rfl rfl
theorem Sys2Proof.Laws.Slot.parkingComplete : Laws.Slot.Statement .parkingComplete := Laws.Slot.of_step rfl rfl
theorem Sys2Proof.Laws.Slot.marchComplete : Laws.Slot.Statement .marchComplete := Laws.Slot.of_step rfl rfl
theorem Sys2Proof.Laws.Slot.unparkingComplete : Laws.Slot.Statement .unparkingComplete := Laws.Slot.of_step rfl rfl
theorem Sys2Proof.Laws.Slot.homeProbe : Laws.Slot.Statement .homeProbe := Laws.Slot.of_step rfl rfl
theorem Sys2Proof.Laws.Slot.probeAnswer : Laws.Slot.Statement .probeAnswer := Laws.Slot.of_step rfl rfl
theorem Sys2Proof.Laws.Slot.pageTableWalk : Laws.Slot.Statement .pageTableWalk := Laws.Slot.of_step rfl rfl
theorem Sys2Proof.Laws.Slot.htChangePage : Laws.Slot.Statement .htChangePage := Laws.Slot.of_step rfl rfl
theorem Sys2Proof.Laws.Slot.htChangeAll : Laws.Slot.Statement .htChangeAll := Laws.Slot.of_step rfl rfl
theorem Sys2Proof.Laws.Slot.filterInvalidate : Laws.Slot.Statement .filterInvalidate := Laws.Slot.of_step rfl rfl
theorem Sys2Proof.Laws.Slot.filterAckWhenFree : Laws.Slot.Statement .filterAckWhenFree := Laws.Slot.of_step rfl rfl
theorem Sys2Proof.Laws.Slot.filterInvAck : Laws.Slot.Statement .filterInvAck := Laws.Slot.of_step rfl rfl
theorem Sys2Proof.Laws.Slot.migration : Laws.Slot.Statement .migration := Laws.Slot.of_step rfl rfl
theorem Sys2Proof.Laws.Slot.readShared : Laws.Slot.Statement .readShared := Laws.Slot.of_step rfl rfl
theorem Sys2Proof.Laws.Slot.readOwn : Laws.Slot.Statement .readOwn := Laws.Slot.of_step rfl rfl
theorem Sys2Proof.Laws.Slot.upgrade : Laws.Slot.Statement .upgrade := Laws.Slot.of_step rfl rfl
theorem Sys2Proof.Laws.Slot.writeBack : Laws.Slot.Statement .writeBack := Laws.Slot.of_step rfl rfl
theorem Sys2Proof.Laws.Slot.readSharedUnc : Laws.Slot.Statement .readSharedUnc := Laws.Slot.of_step rfl rfl
theorem Sys2Proof.Laws.Slot.readOwnUnc : Laws.Slot.Statement .readOwnUnc := Laws.Slot.of_step rfl rfl
theorem Sys2Proof.Laws.Slot.readOwnAtom : Laws.Slot.Statement .readOwnAtom := Laws.Slot.of_step rfl rfl
theorem Sys2Proof.Laws.Slot.homeDieRead : Laws.Slot.Statement .homeDieRead := Laws.Slot.of_step rfl rfl
theorem Sys2Proof.Laws.Slot.homeDieExclusive : Laws.Slot.Statement .homeDieExclusive := Laws.Slot.of_step rfl rfl
theorem Sys2Proof.Laws.Slot.forward : Laws.Slot.Statement .forward := Laws.Slot.of_step rfl rfl
theorem Sys2Proof.Laws.Slot.invalidate : Laws.Slot.Statement .invalidate := Laws.Slot.of_step rfl rfl
theorem Sys2Proof.Laws.Slot.invAck : Laws.Slot.Statement .invAck := Laws.Slot.of_step rfl rfl
theorem Sys2Proof.Laws.Slot.data : Laws.Slot.Statement .data := Laws.Slot.of_step rfl rfl
theorem Sys2Proof.Laws.Slot.error : Laws.Slot.Statement .error := Laws.Slot.of_step rfl rfl
theorem Sys2Proof.Laws.Slot.requestResend : Laws.Slot.Statement .requestResend := Laws.Slot.of_step rfl rfl
theorem Sys2Proof.Laws.Slot.ticketSkip : Laws.Slot.Statement .ticketSkip := Laws.Slot.of_step rfl rfl
theorem Sys2Proof.Laws.Slot.waitingRequestServe : Laws.Slot.Statement .waitingRequestServe := Laws.Slot.of_step rfl rfl
theorem Sys2Proof.Laws.Slot.wayFreeWait : Laws.Slot.Statement .wayFreeWait := Laws.Slot.of_step rfl rfl
theorem Sys2Proof.Laws.Slot.homeSliceEviction : Laws.Slot.Statement .homeSliceEviction := Laws.Slot.of_step rfl rfl
theorem Sys2Proof.Laws.Slot.localSliceRead : Laws.Slot.Statement .localSliceRead := Laws.Slot.of_step rfl rfl
theorem Sys2Proof.Laws.Slot.localSliceWrite : Laws.Slot.Statement .localSliceWrite := Laws.Slot.of_step rfl rfl
theorem Sys2Proof.Laws.Slot.localSliceEviction : Laws.Slot.Statement .localSliceEviction := Laws.Slot.of_step rfl rfl
theorem Sys2Proof.Laws.Slot.codeLineFill : Laws.Slot.Statement .codeLineFill := Laws.Slot.of_step rfl rfl
theorem Sys2Proof.Laws.Slot.icacheFill : Laws.Slot.Statement .icacheFill := Laws.Slot.of_step rfl rfl
theorem Sys2Proof.Laws.Slot.regionRelease : Laws.Slot.Statement .regionRelease := Laws.Slot.of_step rfl rfl
theorem Sys2Proof.Laws.Slot.granuleClearDone : Laws.Slot.Statement .granuleClearDone := Laws.Slot.of_step rfl rfl
theorem Sys2Proof.Laws.Slot.mailboxDelivery : Laws.Slot.Statement .mailboxDelivery := Laws.Slot.of_step rfl rfl
theorem Sys2Proof.Laws.Slot.messageAccept : Laws.Slot.Statement .messageAccept := Laws.Slot.of_step rfl rfl
theorem Sys2Proof.Laws.Slot.postedBufferFill : Laws.Slot.Statement .postedBufferFill := Laws.Slot.of_step rfl rfl
theorem Sys2Proof.Laws.Slot.copyCommandStart : Laws.Slot.Statement .copyCommandStart := Laws.Slot.of_step rfl rfl
theorem Sys2Proof.Laws.Slot.copyChunkLanded : Laws.Slot.Statement .copyChunkLanded := Laws.Slot.of_step rfl rfl
theorem Sys2Proof.Laws.Slot.copyCommandComplete : Laws.Slot.Statement .copyCommandComplete := Laws.Slot.of_step rfl rfl
theorem Sys2Proof.Laws.Slot.chainRecordRead : Laws.Slot.Statement .chainRecordRead := Laws.Slot.of_step rfl rfl
theorem Sys2Proof.Laws.Slot.stateChunkWrite : Laws.Slot.Statement .stateChunkWrite := Laws.Slot.of_step rfl rfl
theorem Sys2Proof.Laws.Slot.positionPreempt : Laws.Slot.Statement .positionPreempt := Laws.Slot.of_step rfl rfl
theorem Sys2Proof.Laws.Slot.positionRollDone : Laws.Slot.Statement .positionRollDone := Laws.Slot.of_step rfl rfl
theorem Sys2Proof.Laws.Slot.collPostForward : Laws.Slot.Statement .collPostForward := Laws.Slot.of_step rfl rfl
theorem Sys2Proof.Laws.Slot.collectiveStart : Laws.Slot.Statement .collectiveStart := Laws.Slot.of_step rfl rfl
theorem Sys2Proof.Laws.Slot.collectiveComplete : Laws.Slot.Statement .collectiveComplete := Laws.Slot.of_step rfl rfl
theorem Sys2Proof.Laws.Slot.armEntry : Laws.Slot.Statement .armEntry := Laws.Slot.of_step rfl rfl
theorem Sys2Proof.Laws.Slot.flagReread : Laws.Slot.Statement .flagReread := Laws.Slot.of_step rfl rfl
theorem Sys2Proof.Laws.Slot.spawnRelease : Laws.Slot.Statement .spawnRelease := Laws.Slot.of_step rfl rfl
theorem Sys2Proof.Laws.Slot.matrixStart : Laws.Slot.Statement .matrixStart := Laws.Slot.of_step rfl rfl
theorem Sys2Proof.Laws.Slot.matrixComplete : Laws.Slot.Statement .matrixComplete := Laws.Slot.of_step rfl rfl
theorem Sys2Proof.Laws.Slot.barrierArrival : Laws.Slot.Statement .barrierArrival := Laws.Slot.of_step rfl rfl
theorem Sys2Proof.Laws.Slot.barrierPhaseComplete : Laws.Slot.Statement .barrierPhaseComplete := Laws.Slot.of_step rfl rfl
theorem Sys2Proof.Laws.Slot.barrierTimeout : Laws.Slot.Statement .barrierTimeout := Laws.Slot.of_step rfl rfl
theorem Sys2Proof.Laws.Slot.fifoArrival : Laws.Slot.Statement .fifoArrival := Laws.Slot.of_step rfl rfl
theorem Sys2Proof.Laws.Slot.returnStoreDrain : Laws.Slot.Statement .returnStoreDrain := Laws.Slot.of_step rfl rfl
theorem Sys2Proof.Laws.Slot.coreTakesRecord : Laws.Slot.Statement .coreTakesRecord := Laws.Slot.of_step rfl rfl
theorem Sys2Proof.Laws.Slot.affinityExpiry : Laws.Slot.Statement .affinityExpiry := Laws.Slot.of_step rfl rfl
theorem Sys2Proof.Laws.Slot.agingStep : Laws.Slot.Statement .agingStep := Laws.Slot.of_step rfl rfl
theorem Sys2Proof.Laws.Slot.quantumExpiry : Laws.Slot.Statement .quantumExpiry := Laws.Slot.of_step rfl rfl
theorem Sys2Proof.Laws.Slot.parking : Laws.Slot.Statement .parking := Laws.Slot.of_step rfl rfl
theorem Sys2Proof.Laws.Slot.parkWake : Laws.Slot.Statement .parkWake := Laws.Slot.of_step rfl rfl
theorem Sys2Proof.Laws.Slot.gangPlacement : Laws.Slot.Statement .gangPlacement := Laws.Slot.of_step rfl rfl
theorem Sys2Proof.Laws.Slot.gangStart : Laws.Slot.Statement .gangStart := Laws.Slot.of_step rfl rfl
theorem Sys2Proof.Laws.Slot.trapEntry : Laws.Slot.Statement .trapEntry := Laws.Slot.of_step rfl rfl
theorem Sys2Proof.Laws.Slot.contextSave : Laws.Slot.Statement .contextSave := Laws.Slot.of_step rfl rfl
theorem Sys2Proof.Laws.Slot.imageWriteout : Laws.Slot.Statement .imageWriteout := Laws.Slot.of_step rfl rfl
theorem Sys2Proof.Laws.Slot.contextRestore : Laws.Slot.Statement .contextRestore := Laws.Slot.of_step rfl rfl
theorem Sys2Proof.Laws.Slot.chqPop : Laws.Slot.Statement .chqPop := Laws.Slot.of_step rfl rfl
theorem Sys2Proof.Laws.Slot.chqAppend : Laws.Slot.Statement .chqAppend := Laws.Slot.of_step rfl rfl
theorem Sys2Proof.Laws.Slot.chqResume : Laws.Slot.Statement .chqResume := Laws.Slot.of_step rfl rfl
theorem Sys2Proof.Laws.Slot.snapnDiscard : Laws.Slot.Statement .snapnDiscard := Laws.Slot.of_step rfl rfl
theorem Sys2Proof.Laws.Slot.mentryWrite : Laws.Slot.Statement .mentryWrite := Laws.Slot.of_step rfl rfl
theorem Sys2Proof.Laws.Slot.debugHaltRequest : Laws.Slot.Statement .debugHaltRequest := Laws.Slot.of_step rfl rfl
theorem Sys2Proof.Laws.Slot.gangHeldClear : Laws.Slot.Statement .gangHeldClear := Laws.Slot.of_step rfl rfl
theorem Sys2Proof.Laws.Slot.sqStart : Laws.Slot.Statement .sqStart := Laws.Slot.of_step rfl rfl
theorem Sys2Proof.Laws.Slot.sqStop : Laws.Slot.Statement .sqStop := Laws.Slot.of_step rfl rfl
theorem Sys2Proof.Laws.Slot.sqPopReport : Laws.Slot.Statement .sqPopReport := Laws.Slot.of_step rfl rfl
theorem Sys2Proof.Laws.Slot.programFaultStop : Laws.Slot.Statement .programFaultStop := Laws.Slot.of_step rfl rfl
theorem Sys2Proof.Laws.Slot.visynLoad : Laws.Slot.Statement .visynLoad := Laws.Slot.of_step rfl rfl
theorem Sys2Proof.Laws.Slot.operatorComplete : Laws.Slot.Statement .operatorComplete := Laws.Slot.of_step rfl rfl
theorem Sys2Proof.Laws.Slot.bytecodeNop : Laws.Slot.Statement .bytecodeNop := Laws.Slot.of_step rfl rfl
theorem Sys2Proof.Laws.Slot.endOp : Laws.Slot.Statement .endOp := Laws.Slot.of_step rfl rfl
theorem Sys2Proof.Laws.Slot.dim : Laws.Slot.Statement .dim := Laws.Slot.of_step rfl rfl
theorem Sys2Proof.Laws.Slot.view : Laws.Slot.Statement .view := Laws.Slot.of_step rfl rfl
theorem Sys2Proof.Laws.Slot.alloc : Laws.Slot.Statement .alloc := Laws.Slot.of_step rfl rfl
theorem Sys2Proof.Laws.Slot.free : Laws.Slot.Statement .free := Laws.Slot.of_step rfl rfl
theorem Sys2Proof.Laws.Slot.loop : Laws.Slot.Statement .loop := Laws.Slot.of_step rfl rfl
theorem Sys2Proof.Laws.Slot.endloop : Laws.Slot.Statement .endloop := Laws.Slot.of_step rfl rfl
theorem Sys2Proof.Laws.Slot.brz : Laws.Slot.Statement .brz := Laws.Slot.of_step rfl rfl
theorem Sys2Proof.Laws.Slot.brnz : Laws.Slot.Statement .brnz := Laws.Slot.of_step rfl rfl
theorem Sys2Proof.Laws.Slot.call : Laws.Slot.Statement .call := Laws.Slot.of_step rfl rfl
theorem Sys2Proof.Laws.Slot.bytecodeRet : Laws.Slot.Statement .bytecodeRet := Laws.Slot.of_step rfl rfl
theorem Sys2Proof.Laws.Slot.fuse : Laws.Slot.Statement .fuse := Laws.Slot.of_step rfl rfl
theorem Sys2Proof.Laws.Slot.shard : Laws.Slot.Statement .shard := Laws.Slot.of_step rfl rfl
theorem Sys2Proof.Laws.Slot.sync : Laws.Slot.Statement .sync := Laws.Slot.of_step rfl rfl
theorem Sys2Proof.Laws.Slot.matmul : Laws.Slot.Statement .matmul := Laws.Slot.of_step rfl rfl
theorem Sys2Proof.Laws.Slot.bmatmul : Laws.Slot.Statement .bmatmul := Laws.Slot.of_step rfl rfl
theorem Sys2Proof.Laws.Slot.conv : Laws.Slot.Statement .conv := Laws.Slot.of_step rfl rfl
theorem Sys2Proof.Laws.Slot.ewise : Laws.Slot.Statement .ewise := Laws.Slot.of_step rfl rfl
theorem Sys2Proof.Laws.Slot.reduce : Laws.Slot.Statement .reduce := Laws.Slot.of_step rfl rfl
theorem Sys2Proof.Laws.Slot.softmax : Laws.Slot.Statement .softmax := Laws.Slot.of_step rfl rfl
theorem Sys2Proof.Laws.Slot.norm : Laws.Slot.Statement .norm := Laws.Slot.of_step rfl rfl
theorem Sys2Proof.Laws.Slot.gather : Laws.Slot.Statement .gather := Laws.Slot.of_step rfl rfl
theorem Sys2Proof.Laws.Slot.scatter : Laws.Slot.Statement .scatter := Laws.Slot.of_step rfl rfl
theorem Sys2Proof.Laws.Slot.permute : Laws.Slot.Statement .permute := Laws.Slot.of_step rfl rfl
theorem Sys2Proof.Laws.Slot.concat : Laws.Slot.Statement .concat := Laws.Slot.of_step rfl rfl
theorem Sys2Proof.Laws.Slot.convert : Laws.Slot.Statement .convert := Laws.Slot.of_step rfl rfl
theorem Sys2Proof.Laws.Slot.quant : Laws.Slot.Statement .quant := Laws.Slot.of_step rfl rfl
theorem Sys2Proof.Laws.Slot.attend : Laws.Slot.Statement .attend := Laws.Slot.of_step rfl rfl
theorem Sys2Proof.Laws.Slot.kvappend : Laws.Slot.Statement .kvappend := Laws.Slot.of_step rfl rfl
theorem Sys2Proof.Laws.Slot.scan : Laws.Slot.Statement .scan := Laws.Slot.of_step rfl rfl
theorem Sys2Proof.Laws.Slot.stateop : Laws.Slot.Statement .stateop := Laws.Slot.of_step rfl rfl
theorem Sys2Proof.Laws.Slot.route : Laws.Slot.Statement .route := Laws.Slot.of_step rfl rfl
theorem Sys2Proof.Laws.Slot.dispatch : Laws.Slot.Statement .dispatch := Laws.Slot.of_step rfl rfl
theorem Sys2Proof.Laws.Slot.combine : Laws.Slot.Statement .combine := Laws.Slot.of_step rfl rfl
theorem Sys2Proof.Laws.Slot.collective : Laws.Slot.Statement .collective := Laws.Slot.of_step rfl rfl
theorem Sys2Proof.Laws.Slot.copy : Laws.Slot.Statement .copy := Laws.Slot.of_step rfl rfl
theorem Sys2Proof.Laws.Slot.kcall : Laws.Slot.Statement .kcall := Laws.Slot.of_step rfl rfl
theorem Sys2Proof.Laws.Slot.loopr : Laws.Slot.Statement .loopr := Laws.Slot.of_step rfl rfl
theorem Sys2Proof.Laws.Slot.tile : Laws.Slot.Statement .tile := Laws.Slot.of_step rfl rfl
theorem Sys2Proof.Laws.Slot.bind : Laws.Slot.Statement .bind := Laws.Slot.of_step rfl rfl
theorem Sys2Proof.Laws.Slot.emit : Laws.Slot.Statement .emit := Laws.Slot.of_step rfl rfl
theorem Sys2Proof.Laws.Slot.waith : Laws.Slot.Statement .waith := Laws.Slot.of_step rfl rfl
theorem Sys2Proof.Laws.Slot.sigh : Laws.Slot.Statement .sigh := Laws.Slot.of_step rfl rfl
theorem Sys2Proof.Laws.Slot.allocr : Laws.Slot.Statement .allocr := Laws.Slot.of_step rfl rfl
theorem Sys2Proof.Laws.Slot.freer : Laws.Slot.Statement .freer := Laws.Slot.of_step rfl rfl
theorem Sys2Proof.Laws.Slot.collr : Laws.Slot.Statement .collr := Laws.Slot.of_step rfl rfl
theorem Sys2Proof.Laws.Slot.endr : Laws.Slot.Statement .endr := Laws.Slot.of_step rfl rfl
theorem Sys2Proof.Laws.Slot.groupTableWrite : Laws.Slot.Statement .groupTableWrite := Laws.Slot.of_step rfl rfl
theorem Sys2Proof.Laws.Slot.flitSend : Laws.Slot.Statement .flitSend := Laws.Slot.of_step rfl rfl
theorem Sys2Proof.Laws.Slot.flitReceive : Laws.Slot.Statement .flitReceive := Laws.Slot.of_step rfl rfl
theorem Sys2Proof.Laws.Slot.nak : Laws.Slot.Statement .nak := Laws.Slot.of_step rfl rfl
theorem Sys2Proof.Laws.Slot.retrainComplete : Laws.Slot.Statement .retrainComplete := Laws.Slot.of_step rfl rfl
theorem Sys2Proof.Laws.Slot.rateFlit : Laws.Slot.Statement .rateFlit := Laws.Slot.of_step rfl rfl
theorem Sys2Proof.Laws.Slot.portDown : Laws.Slot.Statement .portDown := Laws.Slot.of_step rfl rfl
theorem Sys2Proof.Laws.Slot.hostBarAccess : Laws.Slot.Statement .hostBarAccess := Laws.Slot.of_step rfl rfl
theorem Sys2Proof.Laws.Slot.attestationQuote : Laws.Slot.Statement .attestationQuote := Laws.Slot.of_step rfl rfl
theorem Sys2Proof.Laws.Slot.coldReset : Laws.Slot.Statement .coldReset := Laws.Slot.of_step rfl rfl
theorem Sys2Proof.Laws.Slot.coreResetToZero : Laws.Slot.Statement .coreResetToZero := Laws.Slot.of_step rfl rfl
theorem Sys2Proof.Laws.Slot.tenantTurnover : Laws.Slot.Statement .tenantTurnover := Laws.Slot.of_step rfl rfl
theorem Sys2Proof.Laws.Slot.powerLimit : Laws.Slot.Statement .powerLimit := Laws.Slot.of_step rfl rfl
theorem Sys2Proof.Laws.Slot.arrayPowerGate : Laws.Slot.Statement .arrayPowerGate := Laws.Slot.of_step rfl rfl
theorem Sys2Proof.Laws.Slot.arrayWake : Laws.Slot.Statement .arrayWake := Laws.Slot.of_step rfl rfl
theorem Sys2Proof.Laws.Slot.thermalTrip : Laws.Slot.Statement .thermalTrip := Laws.Slot.of_step rfl rfl
theorem Sys2Proof.Laws.Slot.registerWrite : Laws.Slot.Statement .registerWrite := Laws.Slot.of_step rfl rfl
theorem Sys2Proof.Laws.Slot.spilledMessageMove : Laws.Slot.Statement .spilledMessageMove := Laws.Slot.of_step rfl rfl
theorem Sys2Proof.Laws.Slot.powerAverageFalls : Laws.Slot.Statement .powerAverageFalls := Laws.Slot.of_step rfl rfl
end

