-- ==== Sys2Proof/Tests/Slice0.lean ====
section
/-! SUPPORT. Tests of the model, expected results from the spec's own tables and examples, and concrete states that meet the
hypotheses of every statement. -/
namespace Sys2Proof.Tests
set_option Elab.async false
open Sys2Proof Sys2Proof.Machine

/-! ## Small states -/

/-- R29: WIN0 gives VA 0x10_0000 to 0x2F_FFFF the same offset in the space of agent 0, with every permission. -/
def tWin : Vector W64 24 := ((Vector.replicate 24 0).set 0 0x100000).set 1 0x2F001F
/-- R34: a valid 64 KiB entry with PRD, PWR and PEX whose frame is its page number. -/
def tLeaf (n : Nat) : W64 := BitVec.ofNat 64 (2 ^ 63 + 2 ^ 57 + 2 ^ 56 + 2 ^ 55 + n * 2 ^ 16)
def tInfo : TaskInfo := ⟨⟨0x100000, 0, 0, 0, 0x3F000128, 0, 0, 0⟩, false, 0, 0, 0, 0, none, none, none, 0, 0, none⟩

/-- A task that runs on a core whose first two granules are its region, with one window and two pages of the own die. -/
def tRun : State :=
  (State.reset.upCore fun c => { c with
    run := .running, task := some tInfo, pcq := ⟨0x100000, 0x100004, 0x100008, 0, none, none, none⟩
    sys := { c.sys with win := tWin, spw := c.sys.spw.set 0 0x8000000000000002, mentry := 0x4000 } }).upDie fun d => { d with
      xlate := { d.xlate with buffer := [(0x10, tLeaf 0x10), (0x20, tLeaf 0x20)] } }
/-- The same core at monitor level. -/
def tMon : State := tRun.upCore fun c => { c with mon := true, mstream := ⟨0x4000, 0x4004, 0x4008, 0, none, none, none⟩ }
/-- The home slices hold the first lines of the page of data. -/
def tLines (s : State) : State := upCoh (fun c => { c with home := (List.range 16).map fun i =>
  ⟨BitVec.ofNat 50 (0x8000 + i), 0, false, false, none⟩ }) s
/-- A guard that is true, and one that is false. -/
def gT : Guard := ⟨false, 0⟩
def gF : Guard := ⟨true, 0⟩

theorem wit_settled : Settled tRun ∧ Settled tMon := ⟨⟨rfl, rfl, rfl, rfl, rfl, rfl, rfl⟩, ⟨rfl, rfl, rfl, rfl, rfl, rfl, rfl⟩⟩

/-! ## Well-formedness: one ill-formed term for each check -/

def tMMem (w : BitVec 2) : MMem := ⟨.m0, gT, 1, 2, w, .short 0⟩
def tMIdx (w e ord : BitVec 2) (sc : BitVec 3) : MIdx := ⟨.m0, gT, 1, 2, w, e, ord, sc, 3⟩
def tMOrd (w ord : BitVec 2) (sc : BitVec 3) (reg : BitVec 6) : MOrd := ⟨.m0, gT, 1, 2, w, 0, ord, sc, reg⟩
def tVBin (t : VT) : VBin := ⟨.v0, ⟨false, 0⟩, 1, 2, .reg 3, .w256, t⟩
def tVUn (t : VT) : VUn := ⟨.v0, ⟨false, 0⟩, 1, 2, .w256, t⟩
def tVCmp (p : BitVec 4) (t : VT) : VCmp := ⟨.v0, ⟨false, 0⟩, p, 2, .reg 3, .w256, t⟩
def tFUn (t : VT) : FUn := ⟨.west, ⟨false, 0⟩, 1, 2, .w256, t⟩

theorem test_wf_nop : (Instr.nop 12).wf = false ∧ (Instr.nop 11).wf = true := by decide
theorem test_wf_predicates : (Instr.cmpeq ⟨.s0, gT, 0, 1, .imm 1⟩).wf = false ∧ (Instr.cmpeq ⟨.s0, gT, 16, 1, .imm 1⟩).wf = false
    ∧ (Instr.cmpeq ⟨.s0, gT, 17, 1, .imm 1⟩).wf = true ∧ (Instr.pand ⟨.s0, gT, 16, 1, 2⟩).wf = false
    ∧ (Instr.pset ⟨.s0, gT, 0, 1, 2⟩).wf = false ∧ (Instr.fcmplt ⟨.s0, gT, 0, 1, .reg 1, false⟩).wf = false := by decide
theorem test_wf_system : (Instr.mfs ⟨.s0, gT, 1, 0x009⟩).wf = false ∧ (Instr.mts ⟨.s0, gT, 1, 0x016⟩).wf = false
    ∧ (Instr.mfs ⟨.s0, gT, 1, 0x069⟩).wf = true := by decide
theorem test_wf_vector_types : (Instr.vmulh (tVBin .f32)).wf = false ∧ (Instr.vclz (tVUn .bf16)).wf = false
    ∧ (Instr.vplane (tVUn .i32)).wf = false ∧ (Instr.vplane (tVUn .i16)).wf = true ∧ (Instr.vcmpltn (tVCmp 1 .f16)).wf = false
    ∧ (Instr.vcmpun (tVCmp 1 .i8)).wf = false ∧ (Instr.vcmpeq (tVCmp 0 .i8)).wf = false
    ∧ (Instr.vscale ⟨.v0, ⟨false, 0⟩, 1, 2, 3, .w256, .i32⟩).wf = false
    ∧ (Instr.viota ⟨.v0, ⟨false, 0⟩, 1, .w256, .f32, none⟩).wf = false := by decide
theorem test_wf_vector_counts : (Instr.vslideup ⟨.v0, ⟨false, 0⟩, 1, 2, 3, .w256, .i32, 9⟩).wf = false
    ∧ (Instr.vslideup ⟨.v0, ⟨false, 0⟩, 1, 2, 3, .w256, .i32, 8⟩).wf = true
    ∧ (Instr.vextract ⟨.v0, ⟨false, 0⟩, 2, .w256, .i32, 1, false, 8⟩).wf = false
    ∧ (Instr.vcvtq ⟨.v0, ⟨false, 0⟩, 1, 2, 3, .w256, .i16, 1, false⟩).wf = false
    ∧ (Instr.vcvtq ⟨.v0, ⟨false, 0⟩, 1, 2, 3, .w256, .i8, 0, false⟩).wf = false := by decide
theorem test_wf_special : (Instr.vexp (tFUn .e4m3)).wf = false ∧ (Instr.vexp (tFUn .bf16)).wf = true := by decide
theorem test_wf_memory : (Instr.ldv (tMMem 3)).wf = false ∧ (Instr.pref (tMMem 2)).wf = false ∧ (Instr.resid (tMMem 3)).wf = false
    ∧ (Instr.ldvx (tMIdx 0 0 1 0)).wf = false ∧ (Instr.ldvx (tMIdx 0 0 0 1)).wf = false ∧ (Instr.vaor (tMIdx 0 0 0 5)).wf = false
    ∧ (Instr.vaadd (tMIdx 0 1 0 0)).wf = false ∧ (Instr.vaadd (tMIdx 0 2 0 0)).wf = true
    ∧ (Instr.drain ⟨.m0, gT, 5⟩).wf = false := by decide
theorem test_wf_ordered : (Instr.lda (tMOrd 3 0 0 0)).wf = false ∧ (Instr.lda (tMOrd 3 1 0 1)).wf = false
    ∧ (Instr.lda (tMOrd 3 1 4 0)).wf = true ∧ (Instr.stl (tMOrd 3 1 0 0)).wf = false ∧ (Instr.aadd (tMOrd 3 0 6 5)).wf = false
    ∧ (Instr.acas (tMOrd 3 0 0 5)).wf = false ∧ (Instr.afadd (tMOrd 3 0 0 5)).wf = false := by decide
theorem test_wf_engines : (Instr.mconv ⟨gT, 0, 1, true, 0, true, false, false⟩).wf = false
    ∧ (Instr.lsw ⟨gT, 1, 12, 0⟩).wf = false ∧ (Instr.lsw ⟨gT, 1, 11, 0⟩).wf = true := by decide

/-! ## Words written out from the encoding tables (R144 to R148, R188, R233, R254) -/

-- add s6, s6, #1 in S0: opcode 0000001, gn 0, pg 00000, sd 000110, sa 000110, b 000001, form 1
theorem test_decode_scalar : decodeSlot 0 false false 0x0200C303 none = .ok (.add ⟨.s0, ⟨false, 0⟩, 6, 6, .imm 1⟩) := rfl
theorem test_decode_vector :
    decodeSlot 4 true false 0x720110C6 (some 5) = .ok (.vcvtq ⟨.v2e, ⟨false, 0⟩, 2, 4, 6, .w256, .e4m3, 5, false⟩) := rfl
theorem test_decode_memory :
    decodeSlot 6 false false 0x5800A202 (some 0x83) = .ok (.vaor ⟨.m0, ⟨false, 0⟩, 5, 4, 0, 2, 0, 2, 3⟩) := rfl
theorem test_decode_matrix :
    decodeSlot 8 false false 0x02003080 none = .ok (.mma ⟨⟨false, 0⟩, 0, 1, true, 0, true, false, false⟩) := rfl
theorem test_decode_latch : decodeSlot 10 false false 0x0600F000 none = .ok (.kfill ⟨⟨false, 0⟩, 7, true⟩) := rfl
theorem test_decode_branch : decodeSlot 11 false false 0x041807FD none = .ok (.bra ⟨⟨false, 3⟩, 0x7FD⟩) := rfl
theorem test_decode_link : decodeSlot 11 false false 0x02180400 none = .ok (.br ⟨⟨false, 3⟩, 0x400⟩) := rfl
theorem test_decode_loop : decodeSlot 11 false false 0x10000000 none = .ok (.bloopw ⟨0⟩) := rfl
theorem test_decode_channel : decodeSlot 9 false false 0x08010495 (some 0x01070203)
      = .ok (.cpyin ⟨⟨false, 0⟩, 8, 9, 1, 1, 1, 0x01070203⟩)
    ∧ (∃ f : CState, decodeSlot 9 false false 0x10015400 (some 0x01010000) = .ok (.cpyst f)) := ⟨rfl, ⟨_, rfl⟩⟩
theorem test_decode_sequences : (∃ f, decodeSlot 9 false false 0x5802A280 none = .ok (.sfork f))
    ∧ (∃ f, decodeSlot 9 false false 0x54037400 none = .ok (.ssnap f)) ∧ ∃ f, decodeSlot 9 false false 0x56035600 none = .ok (.sroll f) :=
  ⟨⟨_, rfl⟩, ⟨_, rfl⟩, ⟨_, rfl⟩⟩
theorem test_decode_refusals : (∀ i, decodeSlot 0 false false 0x00000001 none ≠ .ok i) ∧ decodeSlot 0 false false 0 none = .ok (.nop 0)
    ∧ decodeBundle 0x03000001 [0x0200C303] = .illegalBundle := ⟨fun _ h => (nomatch h), rfl, rfl⟩
theorem test_decode_table_word : decodeTableWord 32 0x0200C303 = some (.add ⟨.s0, ⟨false, 0⟩, 6, 6, .imm 1⟩) := rfl

/-! ## States and operands that meet the hypotheses of the statements: S, V and F classes -/

def tBusy : State := tRun.upCore fun c => { c with divBusy := 1, fdivBusy := 12, fBusy := 2 }
def tS (r : BitVec 6) (v : W64) (s : State) : State := writeS s r v

/-- ScalarIntegerResults, DivisionCorners, ScalarFloatResults, SpecialFunctionResults: free and busy units. -/
theorem wit_units : (Settled tRun ∧ tRun.core.divBusy = 0 ∧ tRun.core.fdivBusy = 0 ∧ tRun.core.fBusy = 0)
    ∧ (Settled tBusy ∧ tBusy.core.divBusy ≠ 0 ∧ tBusy.core.fdivBusy ≠ 0 ∧ tBusy.core.fBusy ≠ 0 ∧ guardOn gT tBusy = true)
    ∧ (1 : W64) ≠ 0 ∧ (Instr.vexp2 (tFUn .f32)).wf = true ∧ VT.fmt .f32 = some fp32 :=
  ⟨⟨wit_settled.1, rfl, rfl, rfl⟩, ⟨⟨rfl, rfl, rfl, rfl, rfl, rfl, rfl⟩, by decide +kernel, by decide +kernel, by decide +kernel, rfl⟩, by decide +kernel, rfl, rfl⟩
/-- SystemRegisterMoves: an index a task may read, one only the monitor may, one a task may read and not write. -/
theorem wit_systemRegisters : (tRun.core.mon = false ∧ monOnly 0x011 = false ∧ (monOnly 0x011 || taskRO 0x011) = false)
    ∧ (tMon.core.mon = true) ∧ monOnly 0x008 = true ∧ monOnly 0x049 = false ∧ (monOnly 0x049 || taskRO 0x049) = true
    ∧ (∀ x ∈ [0x008, 0x04A, 0x04B], sysWrite x 5 tMon = tMon) := ⟨⟨rfl, rfl, rfl⟩, rfl, rfl, rfl, rfl, by
  intro x h; simp only [List.mem_cons, List.not_mem_nil, or_false] at h; rcases h with rfl | rfl | rfl <;> rfl⟩
/-- ProbeAnswers: a false guard, an address that is not canonical, one in no window, one whose window lacks the permission, a hit in the
filter, an agent that is not configured, and one that is asked. -/
def tFar : State := (tS 3 0x8000000000000 (tS 2 0x300000 (tS 1 0x200000 tRun))).upCore fun c =>
  { c with filter := [⟨pageBase 0x200000 0, 0, true, true, false⟩] }
def tFarther : State := tFar.upSys fun y => { y with win := ((tWin.set 3 0x300000).set 4 0x30001F).set 5 (9#64 <<< 46) }
def tNoPerm : State := tRun.upSys fun y => { y with win := tWin.set 1 0x2F0010 }
theorem wit_probe : (Settled tFar ∧ guardOn gF tFar = false ∧ guardOn gT tFar = true)
    ∧ canonical (readS tFar 3) = false ∧ (canonical (readS tFar 2) = true ∧ probeWindow tFar (readS tFar 2) = none)
    ∧ (Settled tNoPerm ∧ probeWindow tNoPerm 0x200000 = some (0, 0x200000) ∧ tNoPerm.core.mon = false
        ∧ (winWord tNoPerm.core.sys.win 0 1).getLsbD Need.rd.winBit = false)
    ∧ (probeWindow tFar (readS tFar 1) = some (0, 0x200000) ∧ (winWord tFar.core.sys.win 0 1).getLsbD Need.rd.winBit = true
        ∧ ∃ e, filterFind tFar 0x200000 = some e ∧ permits .rd e.rd e.wr e.ex = true)
    ∧ (filterFind tRun 0x200000 = none ∧ configured tRun (iaAgent 0x200000) = true)
    ∧ ∃ ia, probeWindow tFarther (readS tFarther 2) = some (1, ia) ∧ filterFind tFarther ia = none
        ∧ configured tFarther (iaAgent ia) = false :=
  ⟨⟨⟨rfl, rfl, rfl, rfl, rfl, rfl, rfl⟩, rfl, rfl⟩, rfl, ⟨rfl, rfl⟩, ⟨⟨rfl, rfl, rfl, rfl, rfl, rfl, rfl⟩, rfl, rfl, rfl⟩,
    ⟨rfl, rfl, _, rfl, rfl⟩, ⟨rfl, rfl⟩, _, rfl, rfl, rfl⟩
/-- VectorArithmeticResults, VectorCompareResults, VectorConversionResults: well-formed instructions of integer and float type. -/
theorem wit_vectorTypes : (Instr.vmulh (tVBin .i32)).wf = true ∧ (Instr.vcmpltn (tVCmp 1 .i8)).wf = true
    ∧ (Instr.vcmpun (tVCmp 1 .f32)).wf = true ∧ (Instr.vcmpeq (tVCmp 15 .bf16)).wf = true ∧ VT.fmt .bf16 = some bf16
    ∧ VT.fmt .i32 = none := ⟨rfl, rfl, rfl, rfl, rfl, rfl⟩

/-! ## M class -/

def tOff : State := tS 2 0x1FFFC (tS 1 0x20000 tRun)
/-- ScratchpadLoadResults, ScratchpadStoreResults, ScratchpadBoundsTraps: accesses in a region, at its last word, and one byte beyond. -/
theorem wit_scratchpad :
    (Settled tOff ∧ bankRows [soloAct (.lds ⟨.m0, gT, 5, 2, 2, .short 0⟩)] tOff ≤ tOff.core.bankWait + 1
      ∧ cellsBad tOff (scalarCells ⟨.m0, gT, 5, 2, 2, .short 0⟩ tOff) = none)
    ∧ cellsBad tOff (scalarCells ⟨.m0, gT, 5, 1, 0, .short 0⟩ tOff) = some 0x20000
    ∧ ((Instr.ldv (tMMem 0)).wf = true ∧ cellsBad tRun (vectorCells (tMMem 0) tRun) = none
      ∧ bankRows [soloAct (.ldv (tMMem 0))] tRun ≤ tRun.core.bankWait + 1 ∧ spadAddr tRun 0 ≠ some 0x20000)
    ∧ cellsBad tOff (elemCells ⟨.m0, gT, 1, 1, 0, 2, 0, 0, 3⟩ indexAddr tOff) = some 0x20000
    ∧ cellsBad tRun (elemCells (tMIdx 0 2 0 0) strideAddr tRun) = none :=
  ⟨⟨⟨rfl, rfl, rfl, rfl, rfl, rfl, rfl⟩, by decide +kernel, by decide +kernel⟩, by decide +kernel, ⟨rfl, by decide +kernel, by decide +kernel, by decide +kernel⟩, by decide +kernel, by decide +kernel⟩
/-- ScratchpadBoundsTraps: elements of one bank conflict. -/
def tConflict : State := tRun.upCore fun c => { c with regs := { c.regs with v := c.regs.v.set 3 (packLanes 32 [0, 8192, 16384]) } }
theorem wit_bankConflict : Settled tConflict ∧ cellsBad tConflict (elemCells ⟨.m0, gT, 1, 2, 0, 2, 0, 0, 3⟩ indexAddr tConflict) = none
    ∧ tConflict.core.bankWait + 1 < bankRows [soloAct (.ldvx ⟨.m0, gT, 1, 2, 0, 2, 0, 0, 3⟩)] tConflict :=
  ⟨⟨rfl, rfl, rfl, rfl, rfl, rfl, rfl⟩, by decide +kernel, by decide +kernel⟩

def tData : State := (tS 9 0x200044 (tS 1 0x200040 tRun)).upCore fun c => { c with filter := [⟨pageBase 0x200000 0, 0, true, true, true⟩] }
def okCells (s : State) (spans : List Span) (need : Need) (al : Option (W64 × Nat)) (strong : Bool) : Bool :=
  match gcheck s spans need al strong with | .ok _ => true | _ => false
theorem okCells_iff {s spans need al strong} (h : okCells s spans need al strong = true) :
    ∃ cs, gcheck s spans need al strong = .ok cs := by
  unfold okCells at h
  split at h
  · exact ⟨_, ‹_›⟩
  · cases h
/-- GlobalLoadsIssue, GlobalStoresIssue, AtomicsIssue, GlobalAccessChecks: spans of the own die that pass, plain and strong. -/
theorem wit_globalPass : Settled tData
    ∧ (∃ cs, gcheck tData [scalarSpan gT 1 3 (.short 0) tData] .rd none false = .ok cs)
    ∧ (∃ cs, gcheck tData [vectorSpan ⟨.m0, gT, 1, 1, 0, .short 0⟩ tData] .w none false = .ok cs)
    ∧ (∃ cs, gcheck tData [scalarSpan gT 1 3 (.short 0) tData] .rd (some (0x200040, 8)) true = .ok cs)
    ∧ (∃ cs, gcheck tData [(0x200040, List.range 4)] .a (some (0x200040, 4)) true = .ok cs)
    ∧ (∃ cs, gcheck tData ((guardElems gT 0 2 tData).map fun k => (indexAddr tData ⟨.m0, gT, 1, 1, 0, 2, 0, 0, 3⟩ k, List.range 4)) .a
        (some (0x200040, 4)) true = .ok cs)
    ∧ guardElems gT 0 2 tData ≠ [] ∧ guardElems gF 0 2 tData = [] ∧ guardOn gF tData = false :=
  ⟨⟨rfl, rfl, rfl, rfl, rfl, rfl, rfl⟩, okCells_iff (by decide +kernel), okCells_iff (by decide +kernel), okCells_iff (by decide +kernel),
    okCells_iff (by decide +kernel), okCells_iff (by decide +kernel), by decide +kernel, by decide +kernel, rfl⟩
/-- GlobalAccessChecks: outside every window, an unmapped page, a page without the permission, a misaligned ordered access, a page of another die
that must be asked for. -/
def tNoPage : State := tRun.upCore fun c => { c with probes := [(0x210000, some .unmapped)] }
def tNoWrite : State := tRun.upCore fun c => { c with probes := [(0x200000, some (.mapped 0 true false false))] }
def tRemote : State := tData.upSys fun y => { y with win := tWin.set 2 (1#64 <<< 46) }
theorem wit_globalStops : (∃ v, gcheck tData [(0x300000, [0])] .rd none false = .fault .range v)
    ∧ (∃ v, gcheck tNoPage [(0x210000, [0])] .rd none false = .fault .page v)
    ∧ (∃ v, gcheck tNoWrite [(0x200040, [0])] .w none false = .fault .protect v)
    ∧ gcheck tData [(0x200044, List.range 8)] .rd (some (0x200044, 8)) true = .fault .align 0x200044
    ∧ (Settled tRemote ∧ ∃ f, gcheck tRemote [(0x200040, [0])] .rd none false = .wait f) :=
  ⟨⟨_, rfl⟩, ⟨_, rfl⟩, ⟨_, rfl⟩, rfl, ⟨rfl, rfl, rfl, rfl, rfl, rfl, rfl⟩, ⟨_, rfl⟩⟩
/-- AtomicsPerform: an aligned word in a good line; an ACAS that finds its value and one that does not. -/
theorem wit_atomic : Inv tRun ∧ 0x200040 + 8 ≤ 2 ^ 56 ∧ 8 ∈ [1, 2, 4, 8] ∧ 0x200040 % 8 = 0
    ∧ lineBad tRun (lineOf (BitVec.ofNat 56 0x200040)) = false ∧ atomResult .cas 8 5 5 7 = some 7 ∧ atomResult .cas 8 5 6 7 = none :=
  ⟨⟨rfl, rfl⟩, by decide +kernel, by decide +kernel, by decide +kernel, rfl, rfl, rfl⟩
/-- DrainAndHintResults: a hint whose range passes and one outside every window. -/
theorem wit_hints : (∃ ia, hintIa tData ⟨.m0, gT, 0, 1, 0, .short 0⟩ .rd = some ia) ∧ hintIa tRun ⟨.m0, gT, 0, 0, 0, .short 0⟩ .rd = none :=
  ⟨⟨_, rfl⟩, rfl⟩

/-! ## X, K and C classes -/

/-- Tile register t, read by the task, holds w. -/
def tT (t : BitVec 3) (w : W64) (s : State) : State := writeT s t w
def tMx (op : MxOp) (s : State) : State := mxPush s 0 op s
def tTile : State := tT 3 (1#64 <<< 63) (tT 2 0x1FFF0 (tT 1 0x8000 (tT 0 0x1000 tRun)))
def xMul (ta tb : BitVec 3) : XMul := ⟨gT, ta, tb, false, 0, false, false, false⟩
def noBad (l : List (Nat × Nat)) : Option W64 := lowestBad (fun _ => true) (l.filterMap fun p => spanFault tTile p.1 p.2)
/-- MatrixInstructionsQueue: legal operands in bounds with a free queue and a full one, an illegal operand, a span out of bounds, and an
MSTORE of a pending bank. -/
theorem wit_matrix : Settled tTile ∧ Settled (tMx (.zero true) (tMx (.zero true) tTile))
    ∧ (mulIllegal (xMul 0 1) false tTile = false ∧ noBad (mulSpans (xMul 0 1) tTile) = none)
    ∧ noBad (mulSpans (xMul 2 1) tTile) = some 0x20000
    ∧ (tConv (readT tTile 3) || (!tW32 (readT tTile 3) && tFmt (readT tTile 3) == 7)) = true
    ∧ bankPending tTile (tAcc (readT tTile 0)) = false ∧ bankPending (tMx (.zero false) tTile) false = true
    ∧ guardOn gT tTile = true ∧ guardOn gF tTile = false
    ∧ (tMx (.zero true) (tMx (.zero true) tTile)).core.mxQueue.length = 2 :=
  ⟨⟨rfl, rfl, rfl, rfl, rfl, rfl, rfl⟩, ⟨rfl, rfl, rfl, rfl, rfl, rfl, rfl⟩, ⟨by decide +kernel, by decide +kernel⟩, by decide +kernel,
    by decide +kernel, by decide +kernel, by decide +kernel, by decide +kernel, by decide +kernel, by decide +kernel⟩
/-- MatrixRegisterAndLatchResults: an idle unit and one with work. -/
theorem wit_matrixRows : Settled tRun ∧ bankPending tRun false = false ∧ mxAll tRun = []
    ∧ (Settled (tMx (.zero false) tRun) ∧ bankPending (tMx (.zero false) tRun) false = true ∧ mxAll (tMx (.zero false) tRun) ≠ []) :=
  ⟨wit_settled.1, rfl, rfl, ⟨rfl, rfl, rfl, rfl, rfl, rfl, rfl⟩, by decide +kernel, by decide +kernel⟩
/-- LayoutBitmapAndSemaphoreResults: bits that have arrived and bits that have not; a count that suffices and one that does not. -/
def tSem : State := setSem 2 5 (tS 2 6 (tS 1 5 tRun))
theorem wit_semaphore : Settled tSem ∧ (abOf tSem 0 &&& readS tSem 0 = readS tSem 0) ∧ (abOf tSem 0 &&& readS tSem 1 ≠ readS tSem 1)
    ∧ (readS tSem 1).toNat % 2 ^ 16 ≤ semOf tSem 2 ∧ semOf tSem 2 < (readS tSem 2).toNat % 2 ^ 16 :=
  ⟨⟨rfl, rfl, rfl, rfl, rfl, rfl, rfl⟩, by decide +kernel, by decide +kernel, by decide +kernel, by decide +kernel⟩
/-- CopyCommandsQueue: a CPYCH whose line a window holds, and one whose line none does; room, a full queue; layout sets with and without a
bank to capture into. -/
def tChain (a : BitVec 6) : Cmd := newCmd tOff 0x06 0 0 0 0 (readS tOff a) 0
def tQueue (n : Nat) (c : Cmd) : State := setCh 0 (fun h => { h with queue := List.replicate n c }) tData
def tTileCmd (b : Bool) : Cmd := { newCmd tData 0x04 0 0 0 0 0 0 with bank := b }
def tNoBank : State := (setCh 0 (fun h => { h with queue := [tTileCmd true, tTileCmd false] }) tData).upCore fun c =>
  { c with ls := c.ls.set 0 (Vector.replicate 12 1) }
theorem wit_copy : Settled tData ∧ (cmdWindow (newCmd tData 0x06 0 0 0 0 0x200040 0) 0x200040 0x20007F .rd).isNone = false
    ∧ (cmdWindow (newCmd tData 0x06 0 0 0 0 0x300000 0) 0x300000 0x30003F .rd).isNone = true
    ∧ (Settled (tQueue 16 (tTileCmd false)) ∧ 16 ≤ (chOf (tQueue 16 (tTileCmd false)) 0).queue.length)
    ∧ (chOf tData 0).queue.length < 16 ∧ usesSet (tTileCmd false) = true ∧ (∃ b, pickBank tData 0 = some b)
    ∧ (Settled tNoBank ∧ pickBank tNoBank 0 = none)
    ∧ layoutBad (tTileCmd false) = true ∧ addrSpanFault tData 0x1FFF0 64 = some 0x20000 ∧ addrSpanFault tData 0x1FF00 64 = none
    ∧ spanBad (spadAddr tData) 0x1FFF0 64 = some 0x20000 :=
  ⟨⟨rfl, rfl, rfl, rfl, rfl, rfl, rfl⟩, by decide +kernel, by decide +kernel, ⟨⟨rfl, rfl, rfl, rfl, rfl, rfl, rfl⟩, by decide +kernel⟩,
    by decide +kernel, by decide +kernel, ⟨_, rfl⟩, ⟨⟨rfl, rfl, rfl, rfl, rfl, rfl, rfl⟩, by decide +kernel⟩, by decide +kernel, by decide +kernel,
    by decide +kernel, by decide +kernel⟩
/-- MessageResults: a good SEND, a bad one, a full mailbox; a message that matches and none; RECVP words that are good, bad and out of
bounds, with room and without. -/
def tMsg : Msg := ⟨7, 0, 3, []⟩
def tMail : State := tRun.upCore fun c => { c with mbox := [tMsg] }
theorem wit_messages : Settled tMail ∧ sendBad tRun (4#64 <<< 32) = false ∧ sendBad tRun 0 = true
    ∧ (Settled (tRun.upCore fun c => { c with outFull := true }) ∧ sendBad (tRun.upCore fun c => { c with outFull := true }) (4#64 <<< 32) = false)
    ∧ addrSpanFault tRun 0x1FFC0 128 = some 0x20000 ∧ addrSpanFault tRun 0x1FF80 128 = none
    ∧ (allMail tMail).findIdx? (msgMatches 0x30000) = some 0 ∧ (allMail tMail)[0]? = some tMsg
    ∧ (allMail tRun).findIdx? (msgMatches 0x30000) = none
    ∧ bufBad (64#64 <<< 32) = false ∧ bufBad (63#64 <<< 32) = true ∧ spanBad (spadAddr tRun) 0 64 = none
    ∧ spanBad (spadAddr tRun) 0x1FFC0 128 = some 0x20000
    ∧ (Settled (tRun.upCore fun c => { c with posted := List.replicate 8 ⟨0, 64, false, 0, 0, 0, 1⟩ })) ∧ tRun.core.posted.length < 8 :=
  ⟨⟨rfl, rfl, rfl, rfl, rfl, rfl, rfl⟩, by decide +kernel, by decide +kernel, ⟨⟨rfl, rfl, rfl, rfl, rfl, rfl, rfl⟩, by decide +kernel⟩,
    by decide +kernel, by decide +kernel, by decide +kernel, by decide +kernel, by decide +kernel, by decide +kernel, by decide +kernel, by decide +kernel,
    by decide +kernel, ⟨rfl, rfl, rfl, rfl, rfl, rfl, rfl⟩, by decide +kernel⟩
/-- CollectivePostsAndWeights: an argument line that passes, one outside every window, one whose page is asked for; a full list. -/
def okMulti (s : State) (l : List (Span × List Need × Need)) : Bool := match multiCheck s l with | .ok _ => true | _ => false
def tColl (a : W64) : List (Span × List Need × Need) := [((a, List.range 64), [.rd, .w], .w)]
theorem okMulti_iff {s l} (h : okMulti s l = true) : ∃ cs, multiCheck s l = .ok cs := by
  unfold okMulti at h
  split at h
  · exact ⟨_, ‹_›⟩
  · cases h
def faultOf : GCheck → Option (Cause × W64) | .fault c v => some (c, v) | _ => none
def isWait : GCheck → Bool | .wait _ => true | _ => false
theorem faultOf_iff {g : GCheck} {c v} (h : faultOf g = some (c, v)) : g = .fault c v := by
  cases g <;> simp_all [faultOf]
theorem isWait_iff {g : GCheck} (h : isWait g = true) : ∃ f, g = .wait f := by
  cases g <;> simp_all [isWait]
theorem wit_collective : (∃ cs, multiCheck tData (tColl 0x200040) = .ok cs) ∧ (∃ v, multiCheck tData (tColl 0x300000) = .fault .range v)
    ∧ (∃ f, multiCheck tRemote (tColl 0x200040) = .wait f) ∧ tData.core.posts.length < 8
    ∧ (Settled (tData.upCore fun c => { c with posts := List.replicate 8 ⟨false, 0, 0, 0, 0, 0, c.sys.win, false, 0, 0, true, 0, 0⟩ })) :=
  ⟨okMulti_iff (by decide +kernel), ⟨0x300000, faultOf_iff (by decide +kernel)⟩, isWait_iff (by decide +kernel), by decide +kernel, ⟨rfl, rfl, rfl, rfl, rfl, rfl, rfl⟩⟩
/-- GrottoCommandsAndAnswers: a controller that is disabled, one enabled with room, sizes that are refused and one that is not. -/
def tGrot : State := tRun.upDie fun d => { d with grotto := { d.grotto with en := true, sizeG := 1 } }
theorem wit_grotto : tRun.die.grotto.en = false ∧ tGrot.die.grotto.en = true ∧ tGrot.die.grotto.seqs.length < 65536
    ∧ 1 ≤ arenaFree tGrot.die.grotto ∧ seqFind tGrot 0 = none
    ∧ (let bad : W64 → Bool := fun w => w.toNat == 0 || decide (2 ^ 26 < w.toNat) || w.toNat % 512 != 0
       bad 512 = false ∧ bad 0x4000000 = false ∧ bad 0 = true ∧ bad 0x4000200 = true ∧ bad 513 = true) :=
  ⟨rfl, rfl, by decide +kernel, by decide +kernel, rfl, by decide +kernel⟩
/-- TaskCommandResults: room on the deque and none; records to take and to steal; words that name no core, an empty one and one with a
record; a counter that is aligned, one that is not, one outside every window, one whose page is asked for. -/
def tRec : Rec := tInfo.record
def tD : DequeRec := ⟨tRec, false, 0⟩
def tDeq (n m : Nat) : State := tRun.upCore fun c => { c with deque := List.replicate n tD, dequeOvf := (List.range m).map fun k => ⟨k, false, 0⟩ }
def tFull : State := (tDeq 32 512).upDie fun d => { d with disp := { d.disp with fifo := List.replicate 1024 ⟨{ tRec with w4 := 0 }, 0, false, 0, false, none⟩ } }
def tPeer : State := tRun.upDie fun d => { d with disp := { d.disp with peers := [{ resetPeer 5 with offline := false, deque := [tD] }] } }
def tJoin (a : W64) : GCheck := multiCheck tData [((a, List.range 8), [.rd, .w, .a], .a)]
theorem wit_tasks : (Settled (tDeq 1 0) ∧ spawnRoom (tDeq 1 0) = true ∧ (tDeq 1 0).core.deque.getLast? = some tD)
    ∧ (Settled (tDeq 0 1) ∧ (tDeq 0 1).core.dequeOvf.getLast? = some ⟨0, false, 0⟩ ∧ (tDeq 0 1).core.deque = [])
    ∧ (Settled tFull ∧ spawnRoom tFull = false) ∧ tRun.core.deque = [] ∧ tRun.core.dequeOvf = []
    ∧ stealFrom tRun 0x1FF = none
    ∧ (Settled tPeer ∧ stealFrom tPeer 5 = some [5] ∧ stealFrom tPeer 6 = some [6]
      ∧ offlineAt tPeer 5 = false ∧ (dequeOf tPeer 5).head? = some tD ∧ (dequeOf tPeer 6).head? = none)
    ∧ noEndPending tRun = true
    ∧ (∃ cs, tJoin 0x200040 = .ok cs) ∧ (∃ cs, tJoin 0x200044 = .ok cs) ∧ (∃ v, tJoin 0x300000 = .fault .range v)
    ∧ (∃ w, multiCheck tRemote [((0x200040, List.range 8), [.rd, .w, .a], .a)] = .wait w) :=
  ⟨⟨⟨rfl, rfl, rfl, rfl, rfl, rfl, rfl⟩, rfl, rfl⟩, ⟨⟨rfl, rfl, rfl, rfl, rfl, rfl, rfl⟩, rfl, rfl⟩,
    ⟨⟨rfl, rfl, rfl, rfl, rfl, rfl, rfl⟩, by decide +kernel⟩, rfl, rfl, rfl, ⟨⟨rfl, rfl, rfl, rfl, rfl, rfl, rfl⟩, rfl, rfl, by decide +kernel, rfl, rfl⟩, by decide +kernel,
    okMulti_iff (by decide +kernel), okMulti_iff (by decide +kernel), ⟨0x300000, faultOf_iff (by decide +kernel)⟩, isWait_iff (by decide +kernel)⟩

/-! ## B class -/

/-- StreamAfterBundle: entries that are known and entries that are not; a third bundle whose header can be read and one whose cannot. -/
def tLost : State := tRun.upCore fun c => { c with pcq := ⟨0x100000, 0x100004, 0x300000, 0, none, none, none⟩ }
def gotIs (o : FetchOut W32) (w : W32) : Bool := match o with | .got x => x == w | _ => false
theorem gotIs_iff {o : FetchOut W32} {w : W32} (h : gotIs o w = true) : o = .got w := by
  cases o <;> simp_all [gotIs]
def tCode : State := tRun.upDie fun d => { d with coh := { d.coh with
  verified := [0x2000], home := [⟨0x4000, 0, false, false, none⟩, ⟨0x4001, 0, false, false, none⟩] } }
theorem wit_stream : isNext (stream tCode).q1 = false ∧ isNext (stream tCode).q2 = false
    ∧ (formStream tCode (stream tCode)).f2 = none ∧ fetchWord tCode (formStream tCode (stream tCode)).q2 = .got 0
    ∧ (formStream tLost (stream tLost)).f2 = none ∧ fetchWord tLost (formStream tLost (stream tLost)).q2 = .fault .range 0 :=
  ⟨rfl, rfl, rfl, gotIs_iff (by decide +kernel), rfl, rfl⟩
/-- BarrierInstructions: a level a task may not name, one it may whose phase is not over, and one whose phase is. -/
def tOver : State := setBar 2 ⟨0, true, true, 0, true⟩ tRun
theorem wit_barrier : Settled tRun ∧ barIllegal tRun 6 = true ∧ barIllegal tRun 2 = false
    ∧ ((barOf tRun 2).arrived && (barOf tRun 2).complete) = false
    ∧ (Settled tOver ∧ barIllegal tOver 2 = false ∧ ((barOf tOver 2).arrived && (barOf tOver 2).complete) = true) :=
  ⟨wit_settled.1, rfl, rfl, rfl, ⟨rfl, rfl, rfl, rfl, rfl, rfl, rfl⟩, rfl, rfl⟩
/-- NopEndsTrapsAndEvents: both levels; the event latch set and not set, and the wait at its limit. -/
theorem wit_events : Settled tRun ∧ Settled tMon ∧ tRun.core.mon = false ∧ tMon.core.mon = true ∧ tRun.core.latch = false
    ∧ tRun.core.wfeCycles < 65536 ∧ Settled (tRun.upCore fun c => { c with latch := true })
    ∧ Settled (tRun.upCore fun c => { c with wfeCycles := 65536 }) :=
  ⟨wit_settled.1, wit_settled.2, rfl, rfl, rfl, by decide, ⟨rfl, rfl, rfl, rfl, rfl, rfl, rfl⟩, ⟨rfl, rfl, rfl, rfl, rfl, rfl, rfl⟩⟩

/-! ## Keys, the memory controller, parking (R15 to R27) -/

/-- A state with an argument. -/
def tA (f : EventArg → EventArg) (s : State) : State := { s with arg := f s.arg }
def tKey (busy : Bool) (cmd : BitVec 2) (dat : Vector W64 8) : State :=
  upKeys (fun k => { k with busy := busy, cmd := cmd, slot := 7, dat := dat, slots := [(7, 1), (8, 2)] }) tRun
/-- A line homed here and its place in DRAM, stored with an error-correcting code. -/
def tL : BitVec 50 := 0x8001
def tStored (d : DramLine) : State :=
  tA (fun a => { a with line := tL }) (tRun.upDie fun x => { x with dram := [(0x200040, false, { d with line := tL })] })
def tGood : DramLine := { codeLineOf false 0x1234567890 5 with line := tL }
def tPoor : DramLine := { invalidLine false 0x1234567890 with line := tL }
def tHomed (h : HomeLine) : State := tA (fun a => { a with line := tL }) (tRun.upDie fun d => { d with coh := { d.coh with home := [h] } })
def tHL (tag : BitVec 16) : HomeLine := ⟨tL, tag, false, false, none⟩
/-- KeyAndControllerSteps: an idle unit, one that is busy with each command; a line in DRAM with a good code and with a bad one; a line at
home, written whole and in part. -/
theorem wit_keys : (tKey false 0 (Vector.replicate 8 0)).die.keys.busy = false
    ∧ (let s := tKey true 3 (Vector.replicate 8 0); s.die.keys.busy = true ∧ s.die.keys.cmd = 3 ∧ s.die.keys.all = false)
    ∧ (let s := tKey true 1 ((Vector.replicate 8 0).set 0 9)
       s.die.keys.busy = true ∧ s.die.keys.cmd = 1 ∧ s.die.keys.all = false ∧ s.die.keys.slot ≠ 511) := by decide +kernel
theorem wit_controllerRead : (tStored tGood).die.mem.wf = true ∧ Quiet (tStored tGood) ∧ (tStored tGood).die.xlate.hpEn = false
    ∧ isLocal (tStored tGood) (lineIa tL) = true
    ∧ (bufferFind (tStored tGood).die.xlate (iaOffset (lineIa tL))).isSome = true ∧ homeFind (tStored tGood) tL = none
    ∧ lineHeld (tStored tGood) tL = false ∧ lineBad (tStored tGood) tL = false ∧ setFull (tStored tGood) tL = false
    ∧ (tStored tGood).die.coh.waiting = [] ∧ physOf (tStored tGood) (lineIa tL) = some (0x200040, false, 0)
    ∧ dramFind (tStored tGood) tL = some tGood ∧ (tStored tGood).arg.k < 2
    ∧ readCode false ⟨tL, tGood.cipher ^^^ 0, tGood.tag ^^^ (0 : W64).setWidth 16, tGood.check ^^^ (0 : W64).setWidth 48⟩ = some ({ tGood with line := 0 }, false) :=
  ⟨rfl, ⟨rfl, rfl, rfl⟩, rfl, rfl, rfl, rfl, rfl, rfl, by decide +kernel, rfl, rfl, rfl, by decide, by decide +kernel⟩
theorem wit_controllerError : Quiet (tStored tPoor) ∧ (tStored tPoor).die.xlate.hpEn = false ∧ isLocal (tStored tPoor) (lineIa tL) = true
    ∧ (bufferFind (tStored tPoor).die.xlate (iaOffset (lineIa tL))).isSome = true ∧ homeFind (tStored tPoor) tL = none
    ∧ lineHeld (tStored tPoor) tL = false ∧ lineBad (tStored tPoor) tL = false ∧ setFull (tStored tPoor) tL = false
    ∧ (tStored tPoor).die.coh.waiting = [] ∧ physOf (tStored tPoor) (lineIa tL) = some (0x200040, false, 0)
    ∧ dramFind (tStored tPoor) tL = some tPoor ∧ (tStored tPoor).arg.k < 2 ∧ readCode false tPoor = none ∧ (tStored tPoor).arg.mask ≠ BitVec.allOnes 64
    ∧ readCode false ⟨tL, tPoor.cipher ^^^ 0, tPoor.tag ^^^ (0 : W64).setWidth 16, tPoor.check ^^^ (0 : W64).setWidth 48⟩ = none :=
  ⟨⟨rfl, rfl, rfl⟩, rfl, rfl, rfl, rfl, rfl, rfl, by decide +kernel, rfl, rfl, rfl, by decide, by decide +kernel, by decide, by decide +kernel⟩
def tWhole : State := tA (fun a => { a with mask := BitVec.allOnes 64, data := 77 }) (tStored tPoor)
theorem wit_controllerWrite : tWhole.die.mem.wf = true ∧ isLocal tWhole (lineIa tL) = true ∧ tWhole.die.xlate.hpEn = false
    ∧ lineHeld tWhole tL = false ∧ physOf tWhole (lineIa tL) = some (0x200040, false, 0) ∧ homeFind tWhole tL = none
    ∧ (dramFind tWhole tL).isSome = true ∧ tWhole.arg.mask = BitVec.allOnes 64
    ∧ (bufferFind tWhole.die.xlate (iaOffset (lineIa tL))).isSome = true := ⟨rfl, rfl, rfl, rfl, rfl, rfl, rfl, rfl, rfl⟩
def tFill : State := tA (fun a => { a with n := 0x200000, m := 0x10000 }) (tStored tGood)
theorem wit_fastFill : tFill.die.mem.wf = true ∧ 0x200040 ∈ storedIn tFill tFill.arg.b tFill.arg.n tFill.arg.m
    ∧ dramGet tFill 0x200040 tFill.arg.b = some tGood ∧ homeFind tFill tL = none := ⟨rfl, by decide +kernel, rfl, rfl⟩
/-- ParkingSteps: an entry that is free and one in each of its phases, its own bank and another, with rows repaired and not. -/
def tPark (busy : Bool) (phase cmd : BitVec 2) (failing : List Nat) (nats : List Nat) (pc : Nat) : State :=
  tA (fun a => { a with n := 1, k := pc, x := 3, nats := nats }) (setPark 1 { resetPark with
    busy := busy, phase := phase, cmd := cmd, failing := failing, pc := 5, bank := 3, rows := if phase = 2 then 65536 else 0 } tRun)
theorem wit_parking : (let p := parkOf (tPark false 0 0 [] [] 5) 1; p.busy = false ∧ p.phase ≠ 2)
    ∧ (let p := parkOf (tPark false 2 2 [4, 5] [4] 5) 1; p.busy = false ∧ p.phase = 2 ∧ p.pc = 5 ∧ p.bank = (3 : W64).setWidth 4
        ∧ ∃ r ∈ p.failing, r ∉ (tPark false 2 2 [4, 5] [4] 5).arg.nats)
    ∧ (let p := parkOf (tPark false 2 2 [4] [4] 7) 1; p.busy = false ∧ p.phase = 2 ∧ p.pc ≠ 7
        ∧ ∀ r ∈ p.failing, r ∈ (tPark false 2 2 [4] [4] 7).arg.nats)
    ∧ (∀ k ∈ [(1 : BitVec 2), 2, 3], (parkOf (tPark true k 1 [] [] 5) 1).busy = true ∧ (parkOf (tPark true k 1 [] [] 5) 1).phase = k
        ∧ (∀ x ∈ (parkOf (tPark true k 1 [] [] 5) 1).lines, hbmRow x.1 < (parkOf (tPark true k 1 [] [] 5) 1).rows)
        ∧ (tPark true k 1 [] [] 5).arg.m = 0 ∧ ∀ i : Fin 4, i ≠ 1 → ((tPark true k 1 [] [] 5).die.park.get i).takes 0x200040 = false)
    ∧ (tPark true 2 1 [] [] 5).arg.nats = [] ∧ (tPark true 2 1 [] [9] 5).arg.nats ≠ [] := by decide +kernel
/-- R27: a second entry that names the bank another holds. -/
theorem wit_parkClash : parkClash (tPark false 2 2 [] [] 5) 0 5 3 = true ∧ (parkOf (tPark false 2 2 [] [] 5) 0).busy = false := ⟨by
  simp [parkClash]; right; exact ⟨1, by decide, by decide, by decide +kernel⟩, rfl⟩

/-! ## Translation and the home of a line (R34 to R62) -/

/-- A two-level chain of tables and the leaf e of the 2 MiB page at 0x400000. -/
def tTables (e : W64) : State :=
  tA (fun a => { a with ia := 0x400040 }) (tRun.upDie fun d => { d with
    mem := ((d.mem.writeBytes 0x300000 (toBytes 8 (2 ^ 63 + 2 ^ 45 + 0x301000))).writeBytes 0x301000
      (toBytes 8 (2 ^ 63 + 2 ^ 45 + 0x302000))).writeBytes 0x302010 (toBytes 8 e.toNat)
    xlate := { d.xlate with htbase := 0x300000 } })
/-- R34: a leaf of 2 MiB with PRD, at frame f. -/
def tBig (f : Nat) : W64 := BitVec.ofNat 64 (2 ^ 63 + 2 ^ 60 + 2 ^ 57 + f * 2 ^ 16)
def tIa (ia : BitVec 56) (s : State) : State := tA (fun a => { a with ia := ia }) s
def tAgent (n : BitVec 10) (s : State) : State := tA (fun a => { a with agent := n }) s
def tRp : State := tAgent 5 (tIa 0x200040 (upXlate (fun x => { x with buffer := [(0x20, setField (tLeaf 0x20) 44 1 1)] }) tRun))
/-- TranslationSteps: a page in the buffer, a leaf that a walk finds and one that is malformed; probes and their answers. -/
theorem wit_walk : (bufferFind tRp.die.xlate (iaOffset tRp.arg.ia)).isSome = true
    ∧ (bufferFind (tTables (tBig 0x40)).die.xlate (iaOffset (tTables (tBig 0x40)).arg.ia) = none
      ∧ tableWalk (tTables (tBig 0x40)) (iaOffset (tTables (tBig 0x40)).arg.ia) = .leaf (tBig 0x40) 0x302010)
    ∧ tableWalk (tTables (tBig 0x41)) (iaOffset (tTables (tBig 0x41)).arg.ia) = .bad
    ∧ tableWalk tRun (iaOffset (0x400040 : BitVec 56)) = .unmapped ∧ bufferFind tRun.die.xlate (iaOffset 0x400040) = none := by
  decide +kernel
/-- No entry that a walk reads needs a correction. -/
theorem tableFix_none {s : State} {off : BitVec 46} (h : ((walkReads s off 4 1 (tableRoot s)).all fun pa => (tableDram s pa).isNone) = true) :
    ∀ pa ∈ walkReads s off 4 1 (tableRoot s), tableFix pa s = s := by
  intro pa hp
  have := List.all_eq_true.mp h pa hp
  unfold tableFix
  split
  · rfl
  · simp_all
theorem wit_walkClean : ∀ e ∈ [tBig 0x40, tBig 0x41], (tTables e).die.xlate.change = none
    ∧ ∀ pa ∈ walkReads (tTables e) (iaOffset (tTables e).arg.ia) 4 1 (tableRoot (tTables e)), tableFix pa (tTables e) = tTables e := by
  intro e h
  simp only [List.mem_cons, List.not_mem_nil, or_false] at h
  rcases h with rfl | rfl <;> exact ⟨rfl, tableFix_none (by decide +kernel)⟩
theorem wit_homeProbe : isLocal tRp tRp.arg.ia = true ∧ changing tRp tRp.arg.ia = false ∧ tRp.arg.agent ≠ tRp.core.agent
    ∧ bufferFind tRp.die.xlate (iaOffset tRp.arg.ia) = some (setField (tLeaf 0x20) 44 1 1) ∧ entOk (setField (tLeaf 0x20) 44 1 1) = true
    ∧ (setField (tLeaf 0x20) 44 1 1).getLsbD 44 = true := by decide +kernel
def tAsked : State := tA (fun a => { a with ia := 0x400000000040, reply := .mapped 1 true false true })
  (tRun.upCore fun c => { c with probes := [(0x400000000040, none)] })
theorem wit_probeAnswer : tAsked.arg.b = false ∧ tAsked.arg.reply = .mapped 1 true false true ∧ (tAsked.arg.ia, none) ∈ tAsked.core.probes
    ∧ tAsked.core.awaits = [] ∧ tAsked.core.hints = []
    ∧ (tRun.upCore fun c => { c with probes := [(0x400000000040, some (.mapped 1 true false true))] }).core.probes
        = [(0x400000000040, some (.mapped 1 true false true))] := ⟨rfl, rfl, .head _, rfl, rfl, rfl⟩
/-- What the bundle needs of the page: nothing, a permission that the answer grants, and one that it does not. -/
def tNeeds (l : List (BitVec 56 × Need)) : State := tAsked.upCore fun c => { c with needs := l }
theorem wit_needs : (tNeeds []).core.needs = [] ∧ (tNeeds [(0x400000000040, .rd)]).core.needs = [((tNeeds []).arg.ia, .rd)]
    ∧ permits .rd true false true = true ∧ (tNeeds [(0x400000000040, .w)]).core.needs = [((tNeeds []).arg.ia, .w)]
    ∧ permits .w true false true = false := ⟨rfl, rfl, rfl, rfl, rfl⟩
def tChange (c : HtChange) : State := upXlate (fun x => { x with change := some c }) tRun
theorem wit_change : tRun.die.xlate.change = none ∧ (tChange ⟨false, 0, 0x20, 2⟩).die.xlate.change = some ⟨false, 0, 0x20, 2⟩
    ∧ (tChange ⟨true, 0, 0, 1⟩).die.xlate.change = some ⟨true, 0, 0, 1⟩ ∧ tRun.core.hints = [] ∧ 1 < changeAcks tRun false
    ∧ ((tChange ⟨false, 0, 0x20, 1⟩).die.xlate.change = some ⟨false, 0, 0x20, 1⟩
      ∧ ∀ pa ∈ walkReads (tChange ⟨false, 0, 0x20, 1⟩) (0x20#30 ++ 0#16 : BitVec (30 + 16)) 4 1 (tableRoot (tChange ⟨false, 0, 0x20, 1⟩)),
          tableFix pa (tChange ⟨false, 0, 0x20, 1⟩) = tChange ⟨false, 0, 0x20, 1⟩) :=
  ⟨rfl, rfl, rfl, rfl, by decide +kernel, rfl, tableFix_none (by decide +kernel)⟩
/-- An access of the running bundle to bytes. -/
def tAcc (op : GOp) (cells : List (Nat × Nat)) : GAcc := ⟨op, cells, false, false, 0, 1, none⟩
def tUse (cells : List (Nat × Nat)) : State :=
  tA (fun a => { a with ia := 0x400000200000 }) (tRun.upCore fun c => { c with
    filter := [⟨0x400000200000, 0, true, true, false⟩], accs := [tAcc (.load 0) cells], deferInv := [⟨0x400000200000, 0, false⟩] })
theorem wit_invalidate : pageInUse (tUse [(0, 0x400000200040)]) ⟨0x400000200000, 0, false⟩ = true
    ∧ pageInUse (tUse [(0, 0x400000300040)]) ⟨0x400000200000, 0, false⟩ = false
    ∧ isLocal (tUse []) 0x400000200000 = false ∧ (tUse []).core.hints = [] ∧ (tUse []).core.deferInv = [⟨0x400000200000, 0, false⟩] := by
  decide +kernel
/-- A change of a page that an access uses, and of one that none does. -/
theorem wit_changeInUse : pageInUse (tRun.upCore fun c => { c with accs := [tAcc (.load 0) [(0, 0x200040)]] }) ⟨0x200000, 0, false⟩ = true
    ∧ pageInUse tRun ⟨0x200000, 0, false⟩ = false := by decide +kernel
def tMove : State := tA (fun a => { a with ia := 0x200040, n := 0x55 }) tRun
theorem wit_migration : isLocal tMove tMove.arg.ia = true ∧ bufferFind tMove.die.xlate (iaOffset tMove.arg.ia) = some (tLeaf 0x20)
    ∧ entOk (tLeaf 0x20) = true ∧ entPinw (tLeaf 0x20) = false ∧ entMlock (tLeaf 0x20) = false ∧ tMove.arg.b = false
    ∧ tMove.die.xlate.migration = none ∧ tMove.arg.k ≠ 1 ∧ tMove.arg.m = 0
    ∧ entOk (withFrame (tLeaf 0x20) false (BitVec.ofNat 24 tMove.arg.n)) = true
    ∧ (let s := upXlate (fun x => { x with buffer := [(0x20, setField (tLeaf 0x20) 59 1 1)] }) tMove
       bufferFind s.die.xlate (iaOffset s.arg.ia) = some (setField (tLeaf 0x20) 59 1 1) ∧ entOk (setField (tLeaf 0x20) 59 1 1) = true ∧ entPinw (setField (tLeaf 0x20) 59 1 1) = true)
    ∧ (let s := { tRun with cycle := 2 ^ 20 }; s.die.xlate.hpSince + 2 ^ s.die.xlate.hpEpoch.toNat ≤ s.cycle) := by decide +kernel

/-- A request of agent 5 for the line tL, with a tag at its home. -/
def tReq : Coh := ⟨5, 5, 3, none, tL, false, false, false, false, false, false, none⟩
def tHome (tag : BitVec 16) (q : Coh) : State :=
  tA (fun a => { a with coh := q, line := tL, m := 8 }) (tRun.upDie fun d => { d with coh := { d.coh with home := [tHL tag] } })
theorem wit_clean (tag : BitVec 16) (h : tag ∈ [mkTag 0 0, mkTag 5 1, mkTag 7 4, mkTag 3 1, mkTag 3 4]) :
    CleanHome (tHome tag tReq) tL ∧ Admitted (tHome tag tReq) tReq := by
  simp only [List.mem_cons, List.not_mem_nil, or_false] at h
  rcases h with rfl | rfl | rfl | rfl | rfl <;>
    exact ⟨⟨by decide, rfl, by decide +kernel, rfl, by decide +kernel, rfl, rfl, tLeaf 0x20, by decide +kernel, by decide +kernel, by decide +kernel⟩, ⟨⟨by decide, rfl, by decide +kernel, rfl, by decide +kernel, rfl, rfl, tLeaf 0x20, by decide +kernel, by decide +kernel, by decide +kernel⟩,
      by decide, rfl, by decide +kernel, by decide +kernel, rfl⟩⟩
/-- HomeRequestSteps: the tag of a line that none holds, one that agent 5 shares, one that agents 7 and 3 hold. -/
theorem wit_homeTags : (tHome 0 tReq).die.mem.wf = true ∧ homeTag (tHome 0 tReq) tL = 0 ∧ (tHome 0 tReq).arg.b = false
    ∧ (tHome 0 tReq).arg.n = 0 ∧ (tHome 0 tReq).arg.m = 8 ∧ (tHome 0 tReq).arg.k = 0
    ∧ homeTag (tHome (mkTag 5 1) tReq) tL = mkTag 5 1 ∧ homeTag (tHome (mkTag 7 4) tReq) tL = mkTag 7 4 ∧ (7 : BitVec 10) ≠ tReq.req
    ∧ homeTag (tHome (mkTag 3 1) tReq) tL = mkTag 3 1 ∧ homeTag (tHome (mkTag 3 4) tReq) tL = mkTag 3 4
    ∧ (tHome 0 tReq).core.agent ≠ 3 ∧ chanFull (tHome 0 tReq) 0 1 = false ∧ (tHome 0 tReq).arg.k = 0 ∧ (tHome 0 tReq).die.coh.txns = []
    ∧ (tHome 0 tReq).die.coh.waiting = [] := by decide +kernel
def tBusySlice : State :=
  let k := slice48 (homeSlice (lineIa tL))
  upCoh (fun c => { c with next := c.next.set k 4 }) (tHome 0 tReq)
theorem wit_ticket : isLocal tBusySlice (lineIa tL) = true ∧ tBusySlice.arg.coh.src ≠ tBusySlice.core.agent ∧ tBusySlice.arg.coh.ticket = none
    ∧ (bufferFind tBusySlice.die.xlate (iaOffset (lineIa tL))).isSome = true
    ∧ tBusySlice.die.coh.next.get (slice48 (homeSlice (lineIa tL))) ≠ tBusySlice.die.coh.serve.get (slice48 (homeSlice (lineIa tL))) := by
  decide +kernel
def tBack : Coh := { tReq with src := 7, dirty := true, data := some 0xABCD }
theorem wit_writeBack : (tHome (mkTag 7 4) tBack).die.mem.wf = true ∧ Quiet (tHome (mkTag 7 4) tBack)
    ∧ isLocal (tHome (mkTag 7 4) tBack) (lineIa tL) = true ∧ lineBusy (tHome (mkTag 7 4) tBack) tL = false
    ∧ homeTag (tHome (mkTag 7 4) tBack) tL = mkTag tBack.src.toNat 4 := ⟨rfl, ⟨rfl, rfl, rfl⟩, rfl, rfl, rfl⟩
def tTxn (k : ReqKind) (acks : Nat) : Txn := { txnOf k tReq with acks := acks, ackFrom := if acks = 2 then [3, 4] else [] }
def tInProgress (acks : Nat) : State := upCoh (fun c => { c with txns := [tTxn .readOwn acks] }) (tHome (mkTag 3 1) { tReq with src := 3 })
theorem wit_invAck : (∀ n ∈ [0, 2], Quiet (tInProgress n) ∧ isLocal (tInProgress n) (lineIa tL) = true
    ∧ (tInProgress n).die.coh.txns = [tTxn .readOwn n] ∧ (tTxn .readOwn n).line = tL
    ∧ (tTxn .readOwn n).fwdTo ≠ some (tInProgress n).arg.coh.src) ∧ (3 ∈ (tTxn .readOwn 2).ackFrom ∧ 1 < (tTxn .readOwn 2).acks)
    ∧ (3 : BitVec 10) ∉ (tTxn .readOwn 0).ackFrom := by
  refine ⟨?_, ⟨by decide, by decide⟩, by decide⟩
  intro n h
  simp only [List.mem_cons, List.not_mem_nil, or_false] at h
  rcases h with rfl | rfl <;> exact ⟨⟨rfl, rfl, rfl⟩, rfl, rfl, rfl, by decide⟩
/-- A line of a page that no entry maps, with a request that waits for it; a set whose sixteen lines are all held. -/
def tUnmapped : State := tA (fun a => { a with line := 0x10000 }) (upCoh (fun c => { c with waiting := [{ tTxn .readShared 0 with line := 0x10000 }] }) tRun)
theorem wit_waiting : Quiet tUnmapped ∧ isLocal tUnmapped (lineIa 0x10000) = true ∧ lineBusy tUnmapped 0x10000 = false
    ∧ dramOnly tUnmapped 0x10000 = false ∧ wayBarred tUnmapped 0x10000 = false
    ∧ tUnmapped.die.coh.waiting = [{ tTxn .readShared 0 with line := 0x10000 }] ∧ (tTxn .readShared 0).src ≠ tUnmapped.core.agent
    ∧ homeEntry tUnmapped (iaOffset (lineIa 0x10000)) = none ∧ setFull tUnmapped 0x10000 = false ∧ tUnmapped.arg.b = false :=
  ⟨⟨rfl, rfl, rfl⟩, rfl, rfl, rfl, by decide +kernel, rfl, by decide, by decide +kernel, by decide +kernel, rfl⟩
/-- A read that waits for a line which is free now, and for one that another transaction holds. -/
def tQueuedRead (busy : Bool) : State := upCoh (fun c => { c with
  waiting := [tTxn .readShared 0], txns := if busy then [tTxn .readOwn 2] else [] }) (tHome 0 tReq)
theorem wit_waitingRead : (∀ b, Quiet (tQueuedRead b) ∧ isLocal (tQueuedRead b) (lineIa tL) = true ∧ dramOnly (tQueuedRead b) tL = false
      ∧ lineBad (tQueuedRead b) tL = false ∧ wayBarred (tQueuedRead b) tL = false ∧ (tQueuedRead b).die.xlate.migration = none
      ∧ (∃ e, bufferFind (tQueuedRead b).die.xlate (iaOffset (lineIa tL)) = some e ∧ entOk e = true ∧ entTier e = false)
      ∧ (tQueuedRead b).die.coh.waiting = [tTxn .readShared 0] ∧ (tQueuedRead b).arg.line = tL ∧ (tTxn .readShared 0).src ≠ (tQueuedRead b).core.agent
      ∧ lineBusy (tQueuedRead b) tL = b) ∧ homeTag (tQueuedRead false) tL = 0 := by
  refine ⟨?_, by decide +kernel⟩
  intro b
  cases b <;> exact ⟨⟨rfl, rfl, rfl⟩, by decide +kernel, by decide +kernel, rfl, by decide +kernel, rfl, ⟨tLeaf 0x20, by decide +kernel, by decide +kernel, by decide +kernel⟩, rfl, rfl, by decide +kernel, by decide +kernel⟩
/-- Sixteen lines of the set of tL, with their ways; that of way 0 is in a mapped page. -/
def tSetLines : List (BitVec 50) := [103, 118, 205, 220, 256, 307, 358, 409, 460, 511, 583, 598, 613, 628, 787, 817].map fun i =>
  BitVec.ofNat 50 (2048 * i + 1)
def tFullSet (tag : BitVec 16) : State := tA (fun a => { a with line := tL }) (upXlate (fun x => { x with buffer := (0xCE, tLeaf 0xCE) :: x.buffer })
  (upCoh (fun c => { c with home := tSetLines.map fun l => ⟨l, tag, false, false, none⟩, ways := tSetLines.zipIdx }) tRun))
theorem wit_fullSet : Quiet (tFullSet (mkTag 7 4)) ∧ (tFullSet 0).die.coh.waiting = [] ∧ wayBarred (tFullSet (mkTag 7 4)) tL = true
    ∧ (tFullSet 0).arg.b = false := ⟨⟨rfl, rfl, rfl⟩, rfl, by decide +kernel, rfl⟩
theorem wit_victim : Quiet (tFullSet 0) ∧ setFull (tFullSet 0) tL = true ∧ victim (tFullSet 0) tL = some 0x33801
    ∧ isLocal (tFullSet 0) (lineIa 0x33801) = true ∧ (homeFind (tFullSet 0) 0x33801).isSome = true
    ∧ (physOf (tFullSet 0) (lineIa 0x33801)).isSome = true :=
  ⟨⟨rfl, rfl, rfl⟩, by decide +kernel, by decide +kernel, rfl, by decide +kernel, by decide +kernel⟩
theorem wit_homeEviction : isLocal (tHome 0 tReq) (lineIa tL) = true ∧ physOf (tHome 0 tReq) (lineIa tL) = some (0x200040, false, 0)
    ∧ lineHeld (tHome 0 tReq) tL = false ∧ barred (tHome 0 tReq) tL = false ∧ homeFind (tHome 0 tReq) tL = some (tHL 0)
    ∧ (bufferFind (tHome 0 tReq).die.xlate (iaOffset (lineIa tL))).isSome = true ∧ (tHome 0 tReq).die.xlate.hpEn = false :=
  ⟨rfl, rfl, rfl, by decide +kernel, rfl, rfl, rfl⟩
/-- R286: a strong access of a core of agent 5 that is checked here, against a record of its own and of another core. -/
def tStrong (who : Nat) : State := tA (fun a => { a with b := true, n := 3, k := 8, m := 8 })
  (upHome tL (fun h => { h with mixed := some (8, 4, who) }) (tHome 0 tReq))
theorem wit_strong : (tStrong 1).arg.b = true ∧ (homeFind (tStrong (coreKey 5 3)) tL).isSome = true ∧ isLocal (tStrong 1) (BitVec.ofNat 56 ((lineIa tL).toNat + 8)) = true
    ∧ mixedWith (tStrong (coreKey 5 3)) (coreKey 5 3) ((lineIa tL).toNat + 8) 8 = false
    ∧ mixedWith (tStrong (coreKey 5 4)) (coreKey 5 3) ((lineIa tL).toNat + 8) 8 = true := by decide +kernel
def tLate : State := { upCoh (fun c => { c with next := c.next.set 0 1 }) tRun with cycle := 65536 }
theorem wit_ticketSkip : tLate.die.coh.next.get (slice48 tLate.arg.n) ≠ tLate.die.coh.serve.get (slice48 tLate.arg.n)
    ∧ tLate.die.coh.serveSince.get (slice48 tLate.arg.n) + 65536 ≤ tLate.cycle
    ∧ tRun.die.coh.next.get (slice48 tRun.arg.n) = tRun.die.coh.serve.get (slice48 tRun.arg.n) := by decide +kernel

/-! ## The local slice (R47, R57) -/

/-- A line of agent 1, with what the local slice holds of it and a message about it. -/
def tR : BitVec 50 := 0x10000008001
def tHeld (ls : List (BitVec 50 × LState)) (q : Coh) : State :=
  tA (fun a => { a with coh := q, line := tR }) (tRun.upDie fun d => { d with
    coh := { d.coh with localLines := ls }, links := { d.links with configured := [0, 1] } })
def tFor (share : Bool) : Coh := { tReq with src := 1, line := tR, share := share }
/-- HolderSteps: lines held in each state, and none. -/
theorem wit_forward : isLocal (tHeld [] (tFor true)) (lineIa tR) = false ∧ requestOf (tHeld [] (tFor true)) tR = none
    ∧ (tFor true).unc = false ∧ (tFor true).share = true ∧ (tFor false).share = false ∧ localState (tHeld [] (tFor true)) tR = none
    ∧ localState (tHeld [(tR, .modified)] (tFor true)) tR = some .modified
    ∧ localState (tHeld [(tR, .exclusive)] (tFor true)) tR = some .exclusive
    ∧ localState (tHeld [(tR, .shared)] (tFor true)) tR = some .shared := ⟨rfl, rfl, rfl, rfl, rfl, rfl, rfl, rfl, rfl⟩
def tShared : State := (tHeld [(tR, .shared)] (tFor true)).upCore fun c => { c with l1 := [(tR, .shared)] }
theorem wit_invalidateLine : isLocal tShared (lineIa tR) = false ∧ localState tShared tR = some .shared ∧ ∃ x ∈ tShared.core.l1, x.1 = tR :=
  ⟨rfl, rfl, _, .head _, rfl⟩
/-- A request of this agent for the line, and what answers it. -/
def tAsk (k : ReqKind) : Txn := { txnOf k (tFor false) with txn := 3 }
def tAwaited (k : ReqKind) (q : Coh) : State := upCoh (fun c => { c with requests := [tAsk k] }) (tHeld [] q)
def tGiven : Coh := { tFor false with done := true, data := some 0x77 }
theorem wit_data : (∀ k ∈ [ReqKind.readShared, ReqKind.readOwn], (tAwaited k tGiven).die.mem.wf = true ∧ Quiet (tAwaited k tGiven)
    ∧ isLocal (tAwaited k tGiven) (lineIa tR) = false ∧ (tAwaited k tGiven).die.coh.requests = [tAsk k]
    ∧ (tAwaited k tGiven).die.coh.heldFwds = [] ∧ (tAsk k).line = tR ∧ (tAsk k).txn = tGiven.txn ∧ (tAsk k).inval = false
    ∧ tGiven.unc = false ∧ (tAsk k).kind = k ∧ (tAwaited k tGiven).arg.b = false) ∧ (tHeld [] tGiven).die.coh.requests = []
    ∧ (tHeld [] tGiven).die.coh.lateFwds = [] := by
  refine ⟨?_, rfl, rfl⟩
  intro k h
  simp only [List.mem_cons, List.not_mem_nil, or_false] at h
  rcases h with rfl | rfl <;> exact ⟨rfl, ⟨rfl, rfl, rfl⟩, rfl, rfl, rfl, rfl, rfl, rfl, rfl, rfl, rfl⟩
def tTurned : State := tA (fun a => { a with n := 2 }) (tAwaited .readShared { tFor false with ticket := some 9 })
theorem wit_errorTicket : Quiet tTurned ∧ tTurned.arg.b = false ∧ tTurned.arg.n = 2 ∧ tTurned.die.coh.requests = [tAsk .readShared]
    ∧ (tAsk .readShared).txn = tTurned.arg.coh.txn ∧ tTurned.arg.coh.ticket = some 9 := ⟨⟨rfl, rfl, rfl⟩, rfl, rfl, rfl, rfl, rfl⟩
def tResend (due : Nat) : State := upCoh (fun c => { c with resends := [⟨tR, 9, due⟩] }) (tAwaited .readShared (tFor false))
theorem wit_resend : (tResend 0).die.coh.requests = [tAsk .readShared] ∧ (tResend 0).die.coh.resends = [⟨tR, 9, 0⟩] ∧ 0 ≤ (tResend 0).cycle
    ∧ (tResend 9).cycle < 9 ∧ (tResend 0).arg.b = false := ⟨rfl, rfl, by decide, by decide, rfl⟩
def tAwait : Await := { id := 4, mon := false, vec := false, reg := 6, mask := 0, value := none, part := 0, load := true, va := 0x200040, bytes := []
                        size := 8, sext := false, acq := false, slot := 6, syl := 0, iaddr := 0x100000, probe := none, grot := none, held := none }
def tFailed : State := tA (fun a => { a with n := 1 }) ((tAwaited .readShared (tFor false)).upCore fun c =>
  { c with accs := [tAcc (.load 4) [(0, 0x400000200040)]], awaits := [tAwait] })
theorem wit_errorLoad : tFailed.arg.b = false ∧ tFailed.arg.n = 1 ∧ tFailed.die.coh.requests = [tAsk .readShared]
    ∧ (tAsk .readShared).eng = false ∧ tFailed.core.prefs = [] ∧ tFailed.core.hints = []
    ∧ tFailed.core.accs = [tAcc (.load 4) [(0, 0x400000200040)]] ∧ tFailed.core.awaits = [tAwait]
    ∧ (tAcc (.load 4) [(0, 0x400000200040)]).line = tR ∧ tFailed.core.asyncs.memErr = [] ∧ (tAcc (.load 4) []).rel = false :=
  ⟨rfl, rfl, rfl, rfl, rfl, rfl, rfl, rfl, by decide +kernel, rfl, rfl⟩
theorem wit_localRequests : isLocal (tHeld [] tReq) (lineIa (tHeld [] tReq).arg.line) = false ∧ localState (tHeld [] tReq) tR = none
    ∧ (tHeld [] tReq).die.coh.requests = [] ∧ Quiet (tHeld [] tReq) ∧ farTier2 (tHeld [] tReq) (lineIa tR) = false
    ∧ setFull (tHeld [] tReq) tR = false ∧ (tHeld [] tReq).die.coh.lateFwds = [] ∧ (tHeld [] tReq).die.coh.later = [] ∧ armedLine (tHeld [(tR, .modified)] tReq) tR = false
    ∧ (let s := (tHeld [(tR, .modified)] tReq).upDie fun d => { d with coll := { d.coll with arms := [⟨⟨true, 0, 0, 0, 0, 0, tWin, true, 0, 0, true,
        0, 0⟩, 0x400000200040, false⟩] } }; armedLine s tR = true)
    ∧ configured (tHeld [] tReq) (iaAgent (lineIa tR)) = true ∧ chanFull (tHeld [] tReq) (tHeld [] tReq).arg.n 1 = false :=
  ⟨rfl, rfl, rfl, ⟨rfl, rfl, rfl⟩, by decide +kernel, by decide +kernel, rfl, rfl, by decide +kernel, by decide +kernel, by decide +kernel,
    by decide +kernel⟩
/-- A write of an engine that waited for room. -/
def tLater : State := tA (fun a => { a with b := true }) (upCoh (fun c => { c with later := [{ tAsk .ownUnc with eng := true, acc := some 0 }] }) (tHeld [] tReq))
theorem wit_later : tLater.arg.b = true ∧ tLater.die.coh.requests = [] ∧ tLater.die.coh.later = [{ tAsk .ownUnc with eng := true, acc := some 0 }]
    ∧ isLocal tLater (lineIa (tAsk .ownUnc).line) = false ∧ configured tLater (iaAgent (lineIa (tAsk .ownUnc).line)) = true
    ∧ chanFull tLater (tAsk .ownUnc).chan 1 = false := ⟨rfl, rfl, rfl, rfl, by decide +kernel, by decide +kernel⟩
/-- A code line that is verified and held, one verified that the L2 does not hold, one whose tag's page is asked for, and one whose lines have
not come. -/
def tCodeLine : State := tA (fun a => { a with n := 0x2000 }) tCode
def tSentOnce : State := upCoh (fun c => { c with home := [], onceLines := [0x4000, 0x4001] }) tCodeLine
def tNoTagPage : State := upCoh (fun c => { c with verified := [] }) tCodeLine
theorem wit_codeLine : (codeLine tCodeLine (BitVec.ofNat 56 (0x2000 * 128)) = .got () ∧ codeHeld tCodeLine 0x2000 = true)
    ∧ (codeLine tSentOnce (BitVec.ofNat 56 (0x2000 * 128)) = .got () ∧ codeHeld tSentOnce 0x2000 = false)
    ∧ codeLine tNoTagPage (BitVec.ofNat 56 (0x2000 * 128)) = .probe (tagIa 0x2000)
    ∧ (codeLine tRun (BitVec.ofNat 56 0) ≠ .got () ∧ ∀ ia, codeLine tRun (BitVec.ofNat 56 0) ≠ .probe ia)
    ∧ (0x2000 : BitVec 49) ∈ tCodeLine.die.coh.verified ∧ (0 : BitVec 49) ∉ tRun.die.coh.verified := by
  refine ⟨⟨by decide +kernel, by decide +kernel⟩, ⟨by decide +kernel, by decide +kernel⟩, by decide +kernel, ⟨by decide +kernel, ?_⟩,
    by decide +kernel, by decide +kernel⟩
  intro ia h
  have e : codeLine tRun (BitVec.ofNat 56 0) = .line 0 false := by decide +kernel
  rw [e] at h
  cases h

/-! ## Engines of the core (R72 to R93, R180, R245) -/

/-- CoreEngineSteps: a granule in release and one in clearing; messages that fit and that do not; buffers that hold what comes. -/
def tGran (g : Granule) : State := tA (fun a => { a with n := 5 }) (tRun.upCore fun c => { c with
  granules := c.granules.set 5 g, freeing := [[5]], spad := c.spad.writeBytes 0x5FFFE (toBytes 8 0x1122334455667788) })
theorem wit_granules : releasable (tGran .releasing) = [[5]] ∧ (tGran .releasing).arg.b = false ∧ (tGran .clearing).arg.n < 60
    ∧ (tGran .clearing).core.granules.getD (tGran .clearing).arg.n .held = .clearing ∧ (tGran .clearing).core.spad.wf = true
    ∧ (tGran .releasing).core.granules.getD (tGran .releasing).arg.n .held ≠ .clearing := by decide +kernel
def tBoxInfo : TaskInfo := { tInfo with gang := true, gsize := 2, domain := 0 }
def tBox (n m : Nat) : State := tA (fun a => { a with msg := tMsg }) (tRun.upCore fun c => { c with
  task := some tBoxInfo, mbox := List.replicate n tMsg, spill := List.range m })
theorem wit_delivery : (∀ n ∈ [0, 15], (tBox n 0).core.task = some tBoxInfo ∧ tBoxInfo.gang = true ∧ tBoxInfo.rank = BitVec.ofNat 16 (tBox n 0).arg.n
      ∧ tBoxInfo.domain = (tBox n 0).arg.msg.gang ∧ overflowHas (tBox n 0) (tBox n 0).arg.msg.gang (BitVec.ofNat 16 (tBox n 0).arg.n) = false
      ∧ (tBox n 0).core.spill = [] ∧ (tBox n 0).core.mbox.length < 16 ∧ (tBox n 0).core.spillMove = none)
    ∧ 80 ≤ (tBox 16 64).core.mbox.length + (tBox 16 64).core.spill.length := by decide +kernel
def tMailOut (g : List GAcc) (full : Bool) : State := tA (fun a => { a with b := full }) (tRun.upCore fun c => { c with
  outMail := [⟨true, 3, tMsg, 1⟩], accs := g })
theorem wit_messageOut : (tMailOut [] true).core.outMail = [⟨true, 3, tMsg, 1⟩] ∧ (3 : BitVec 16) ≠ myRank (tMailOut [] true)
    ∧ (∃ g ∈ (tMailOut [tAcc (.load 0) []] false).core.accs, g.seq ≤ 1) ∧ (∀ g ∈ (tMailOut [] true).core.accs, 1 < g.seq)
    ∧ (tMailOut [] true).arg.b = true ∧ (tMailOut [] false).arg.b = false ∧ (tMailOut [] true).arg.k = 0
    ∧ engWritesOut (tMailOut [] true) 1 = false :=
  ⟨rfl, by decide, ⟨_, .head _, by decide⟩, nofun, rfl, rfl, rfl, rfl⟩
def tBuf : PostedBuf := ⟨0x100, 8, false, 4, 7, 200, 255⟩
def tPosted (n : Nat) : State := tA (fun a => { a with n := 4, m := 7, bytes := List.replicate n 9 }) (setSem 200 0xFFF0 (tRun.upCore fun c => { c with task := some tBoxInfo, posted := [tBuf] }))
theorem wit_posted : (∀ n ∈ [8, 9], bufFor (tPosted n) (BitVec.ofNat 16 (tPosted n).arg.n) (BitVec.ofNat 16 (tPosted n).arg.m) = some tBuf)
    ∧ amGang (tPosted 8) = true ∧ myDomain (tPosted 8) = (tPosted 8).arg.x.setWidth 16
    ∧ (tPosted 8).arg.bytes.length ≤ tBuf.len.toNat ∧ tBuf.len.toNat < (tPosted 9).arg.bytes.length := by decide +kernel
def tMxE (op : MxOp) (live : Bool) : MxEntry := ⟨op, 0, 0, 0, tRun.core.sys.spw, false, [], live⟩
def tMxQ : State := tRun.upCore fun c => { c with mxQueue := [tMxE (.zero false) true] }
def tMxR (live : Bool) : State := tRun.upCore fun c => { c with mxRun := some (tMxE (.zero false) live) }
theorem wit_matrixSteps : tMxQ.core.mxRun = none ∧ tMxQ.core.mxQueue = tMxE (.zero false) true :: []
    ∧ BitVec.ofNat 9 (packageCore tMxQ) ∉ tMxQ.die.boot.gated
    ∧ BitVec.ofNat 9 (packageCore tMxQ) ∈ (upBoot (fun b => { b with gated := [0] }) tMxQ).die.boot.gated
    ∧ (tMxR true).core.mxRun = some (tMxE (.zero false) true) ∧ (tMxR false).core.mxRun = some (tMxE (.zero false) false)
    ∧ tRun.arg.b = false ∧ (tMxR true).core.mxLeft = 0 ∧ ({ tMxR true with core := { (tMxR true).core with mxLeft := 3 } }).core.mxLeft ≠ 0 := by
  decide +kernel
/-- R185: another core that steals from this one's deque. -/
theorem wit_stolen : (tA (fun a => { a with b := true, m := 3 }) (tDeq 1 0)).core.deque = [tD] := rfl

/-- A command at the head of channel 0 with a layout of one row of 600 bytes from VA 0x200040, to or from scratchpad 0x100. -/
def tLayout : Vector W64 12 := (((Vector.replicate 12 0).set 0 0x200040).set 1 0x16).set 2 600 |>.set 7 599
def tCmd (op : BitVec 7) (f : Cmd → Cmd) : Cmd := f { newCmd tRun op 0 0 0 0x05030000 0x100 0 with layout := tLayout }
def tChan (c : Cmd) (s : State) : State := setCh 0 (fun h => { h with queue := [c] }) s
def tIn : Cmd := tCmd 4 fun c => { c with started := true, checked := true }
def tOut : Cmd := tCmd 5 fun c => { c with started := true, checked := true }
/-- CopySteps: a command whose wait is not met, one whose layout is bad, a message, pieces ready and not, a head that is done. -/
theorem wit_copyStart : (let c := tCmd 4 fun c => { c with ext := 0x100 }
      c.checked = false ∧ c.started = false ∧ c.record = none ∧ layoutBad c = false ∧ extMet (tChan c tRun) c.ext = false ∧ (tChan c tRun).arg.b = false
        ∧ (chOf (tChan c tRun) (BitVec.ofNat 2 (tChan c tRun).arg.n)).queue = [c]
        ∧ (chOf (tChan c tRun) (BitVec.ofNat 2 (tChan c tRun).arg.n)).stop = none)
    ∧ (let c := tCmd 4 fun c => { c with started := true, layout := tLayout.set 1 0 }
      c.checked = false ∧ c.started = true ∧ c.isChain = false ∧ layoutBad c = true ∧ c.live = true)
    ∧ (let c := tCmd 8 fun c => { c with started := true, bad := true }
      c.checked = false ∧ c.isChain = false ∧ c.live = true ∧ operandBad c = true)
    ∧ (let c := tCmd 9 fun c => { c with e2 := 64#64 <<< 32 }
      c.checked = false ∧ c.record = none ∧ extMet (tChan c tRun) c.ext = true ∧ c.isMsg = true
        ∧ (layoutBad c || operandBad c) = false
        ∧ (!c.ord.getLsbD 0 || copyOrdered (tChan c tRun) c c.ord) = true) := by decide +kernel
/-- The same with a row of 24 bytes. -/
def tSmall (c : Cmd) : Cmd := { c with layout := (tLayout.set 2 24).set 7 23 }
theorem wit_copyPieces : (∀ c ∈ [tSmall tIn, tSmall tOut], (tLines (tChan c tData)).arg.m = 0 ∧ (tLines (tChan c tData)).arg.b = false
      ∧ engBad (tLines (tChan c tData)) (pieceReads c 0) = false ∧ pieceReady (tLines (tChan c tData)) [] c 0 = true)
    ∧ (tSmall tIn).isIn = true ∧ (tSmall tOut).isOut = true ∧ pieceReady (tChan (tSmall tIn) tData) [] { tSmall tIn with landed := [0] } 0 = false
    ∧ (let s := upCoh (fun k => { k with badLines := [⟨tL, 1, true⟩] }) (tLines (tChan (tSmall tIn) tData))
       let c := tSmall tIn
       engBad s (pieceReads c 0) = true ∧ pieceReady s [] c 0 = true ∧ c.isMsg = false ∧ c.isState = false ∧ c.live = true) := by decide +kernel
theorem wit_copyComplete : (let c := { tIn with landed := [1, 0] }; c.isChain = false ∧ c.checked = true ∧ allLanded c = true
      ∧ copyReleased (tChan c tData) c c.ord = true) ∧ allLanded { tIn with landed := [1] } = false := by decide +kernel
def tRecAt (own : Nat) : State := (tLines tRun).upDie fun d => { d with
  mem := d.mem.writeBytes 0x200040 (toBytes 8 (own * 2 ^ 63 + 0x1234)) }
def tChainCmd (e1 : W64) : Cmd := tCmd 6 fun c => { c with started := true, e1 := e1, phys := true }
theorem wit_chain : (let c := tChainCmd 0x200040; c.isChain = true ∧ c.started = true ∧ c.checked = false ∧ c.record = none ∧ c.phys = true
      ∧ c.e1 ≠ 0 ∧ c.e1.toNat % 64 = 0 ∧ cmdWindow c c.e1 (c.e1 + 63) .rd = some 0x200040 ∧ cmdWindow c c.e1 (c.e1 + 63) .w = some 0x200040
      ∧ engBad (tChan c (tRecAt 1)) ((List.range 64).map fun i => (0x200040 + i) % 2 ^ 56) = false
      ∧ engMissing (tChan c (tRecAt 1)) (chanNo c) c.seq ((List.range 64).map fun i => (0x200040 + i) % 2 ^ 56) = []
      ∧ isLocal (tChan c (tRecAt 1)) 0x200040 = true
      ∧ (BitVec.ofNat 64 ((tChan c (tRecAt 1)).die.mem.readNum 0x200040 8)).getLsbD 63 = true
      ∧ (BitVec.ofNat 64 ((tChan c (tRecAt 0)).die.mem.readNum 0x200040 8)).getLsbD 63 = false
      ∧ copyOrdered (tChan c (tRecAt 1)) c 0 = true) ∧ (tChainCmd 0).e1 = 0 ∧ (tChainCmd 0x200041).e1.toNat % 64 ≠ 0
      ∧ (tChainCmd 0x200041).live = true := by decide +kernel
def tRecord : Rec := ⟨0, 0x200080, 0, 0, 0, 0, 0, 0⟩
theorem wit_chainNext : (let c := tCmd 6 fun c => { c with started := true, checked := true, e1 := 0x200040, phys := true, record := some tRecord, landed := [0] }
      let s := tChan c (tRecAt 1)
      c.isChain = true ∧ c.checked = true ∧ c.record = some tRecord ∧ allLanded c = true ∧ copyReleased s c (moveOrd c) = true
        ∧ cmdIa c .w (c.e1, c.e1 + 63) c.e1 = some 0x200040 ∧ engWritable s (lineOf (BitVec.ofNat 56 0x200040)) = true
        ∧ engRoom s (chanNo c) [0x200040] = true) := by decide +kernel
/-- A CPYST of two chunks for sequence 7 of the other die's controller. -/
def tToOther : Cmd := tCmd 8 fun c => { c with started := true, checked := true, e1 := BitVec.ofNat 64 (2 ^ 63 + 2 * 2 ^ 47 + 5 * 2 ^ 30 + 4), e2 := 0x10007 }
theorem wit_stateChunk : tToOther.isState = true ∧ stIn tToOther = true ∧ pieceReady (tChan tToOther tRun) [] tToOther 0 = true
    ∧ handleAgent tToOther.e2 = otherDie (tChan tToOther tRun) ∧ (tChan tToOther tRun).arg.m = 0 ∧ (tChan tToOther tRun).arg.x = 0
    ∧ tToOther.refused = none ∧ tToOther.sent.contains 0 = false ∧ ({ tToOther with sent := [0] }).sent.contains 0 = true := by decide +kernel

/-- CollectiveSteps: posts, an armed flag of zero and of another value, collectives at each point of their course. -/
def tPost (arm : Bool) (desc flag : W64) : CollPost := ⟨arm, desc, flag, 0x05030000, 0, 0, tWin, true, 0, 0, true, 0, 0⟩
def tPosts (p : CollPost) (flag : Nat) : State := ((tLines tRun).upCore fun c => { c with posts := [p] }).upDie fun d =>
  { d with mem := d.mem.writeBytes 0x200080 (toBytes 8 flag) }
theorem wit_posts : (tPosts (tPost false 0x200040 0) 0).core.posts = tPost false 0x200040 0 :: [] ∧ (tPost false 0x200040 0).arm = false
    ∧ (∀ n ∈ [0, 6], let p := tPost true 0x200040 0x200080; let s := tPosts p n
       extMet s p.ext = true ∧ s.die.coll.arms = [] ∧ postIa p p.flag (p.flag + 7) .rd = some 0x200080 ∧ lineBad s (lineOf 0x200080) = false
        ∧ lineReadable s (lineOf 0x200080) = true ∧ s.die.mem.readNum 0x200080 8 = n
        ∧ postOrdered s p true = true) := by decide +kernel
def tArm (changed : Bool) : Arm := ⟨tPost true 0x200040 0x200080, 0x200080, changed⟩
def tArmed (changed : Bool) : State := upColls (fun e => { e with arms := [tArm changed] }) (tPosts (tPost true 0x200040 0x200080) 6)
theorem wit_armed : (tArmed true).die.coll.arms = [tArm true] ∧ (tArmed true).arg.n = 0 ∧ (tArm false).changed = false ∧ (tArm true).changed = true
    ∧ lineBad (tArmed true) (lineOf (tArm true).flagIa) = false ∧ lineReadable (tArmed true) (lineOf (tArm true).flagIa) = true
    ∧ lineBad (upCoh (fun c => { c with badLines := [⟨0x8002, 1, false⟩] }) (tArmed true)) (lineOf (tArm true).flagIa) = true
    ∧ (tArmed true).die.mem.readNum (tArm true).flagIa.toNat 8 ≠ 0 ∧ postOrdered (tArmed true) (tArm true).post true = true := by decide +kernel
def tColls (c : Coll) : State := upColls (fun e => { e with colls := [c], groups := [(2, ⟨2#64 <<< 32 ||| 1#64 <<< 63, 0, [0, 5]⟩)] }) (tLines tRun)
def tPeerPost : PeerPost := ⟨5, tRec, [], 0⟩
def tRunning (agree : Bool) : Coll :=
  ⟨some 2, some (tPost false 0x200040 0), some ⟨0, 0, 0, 0, 0, 0, 0, 0⟩, true, [], none,
    [⟨5, ⟨0, 0, 0, 0, 0, 0, 0, 0⟩, [], if agree then 0 else 1⟩], false, none, 0, [], false, false, false, []⟩
theorem wit_collectiveStart : (let c := { newColl (tPost false (1#64 <<< 60) 0) with entry := none }; let s := tColls c
      s.arg.b = false ∧ s.arg.n = 0 ∧ s.die.coll.colls = c :: [] ∧ c.post = some (tPost false (1#64 <<< 60) 0) ∧ c.checked = false ∧ c.desc = none
        ∧ c.fail = none ∧ postAcquired s (tPost false (1#64 <<< 60) 0) = true ∧ postSpan (tPost false (1#64 <<< 60) 0) (1#64 <<< 60) 64 .rd = none)
    ∧ (∀ a ∈ [true, false], let c := tRunning a; let s := tColls c
       c.checked = true ∧ c.desc = some ⟨0, 0, 0, 0, 0, 0, 0, 0⟩ ∧ c.entry.bind (groupOf s) = some ⟨2#64 <<< 32 ||| 1#64 <<< 63, 0, [0, 5]⟩
        ∧ c.fail = none ∧ c.running = false ∧ allPosted ⟨2#64 <<< 32 ||| 1#64 <<< 63, 0, [0, 5]⟩ s.core.agent c = true
        ∧ postsAgree ⟨2#64 <<< 32 ||| 1#64 <<< 63, 0, [0, 5]⟩ ⟨0, 0, 0, 0, 0, 0, 0, 0⟩ c = a
        ∧ (s.die.coll.colls.filter (·.running)).length < 8)
    ∧ tRun.die.coll.colls = [] := by decide +kernel
def tFailing : Coll := { newColl (tPost false 0x200040 0) with fail := some 4, checked := true }
theorem wit_collectiveEnd : (let s := tColls tFailing; let p := tPost false 0x200040 0
      s.die.mem.wf = true ∧ s.arg.b = false ∧ s.arg.n = 0 ∧ s.die.coll.colls = [tFailing] ∧ tFailing.post = some p ∧ tFailing.fail = some 4
        ∧ tFailing.checked = true ∧ postOrdered s p (p.ord.getLsbD 1) = true ∧ engAllWritable s (w7Ias p) = true ∧ p.live = true ∧ p.slotVa = 0
        ∧ tFailing.done = false ∧ postIa p p.desc (p.desc + 63) .w = some 0x200040 ∧ (0x200040 : BitVec 56).toNat % 64 = 0
        ∧ isLocal s 0x200040 = true ∧ lineBad s (lineOf 0x200040) = false)
    ∧ (let c := { tRunning true with running := true }; c.running = true ∧ c.fail = none ∧ c.entry = some (BitVec.ofNat 8 2) ∧ c.done = false
        ∧ c.wrote = false) := by decide +kernel
/-- A running collective that reads one element of its source. -/
def tDesc : Rec := ⟨0, 0x2000C0, 0x200140, 1, 0, 0, 0, 0⟩
def tReading : Coll := { tRunning true with running := true, desc := some tDesc, members := [0, 5] }
theorem wit_collectiveRead : ((postSpan (tPost false 0x200040 0) 0x2000C0 (dSrcLen tDesc (membersOf (tColls tReading) tReading).length) .rd).map
      fun src => (engBad (tColls tReading) src, engMissing (tColls tReading) 0 0 src)) = some (false, []) ∧ tReading.mine = none
    ∧ tReading.post = some (tPost false 0x200040 0) ∧ tReading.entry.bind (groupOf (tColls tReading)) = some ⟨2#64 <<< 32 ||| 1#64 <<< 63, 0, [0, 5]⟩ := by
  decide +kernel
/-- A piece of another member's source array that is not whole yet. -/
def tPieces : Coll := { tReading with peers := [⟨5, tDesc, [], 0⟩] }
theorem wit_collectivePiece : (let s := tA (fun a => { a with b := true, k := 2, n := 2, agent := 5, bytes := [1] }) (tColls tPieces)
    s.die.coll.colls = [tPieces] ∧ tPieces.entry = some (BitVec.ofNat 8 s.arg.n) ∧ tPieces.peers = [⟨5, tDesc, [], 0⟩]
      ∧ (5 : BitVec 10) = s.arg.agent ∧ ([] : List Byte).length < dSrcLen tDesc (membersOf s tPieces).length) := by decide +kernel

/-! ## Tasks, contexts and traps (R152, R264 to R273, R333 to R358) -/

/-- TaskSteps: awaited results, ends that are due, waits at their bounds, barriers alone and in a gang. -/
def tArrives (vec : Bool) (reg : BitVec 6) : Await :=
  { tAwait with id := 0, load := false, vec := vec, reg := reg, value := some 0x1_0000_0000_0000_0007, mask := 3 }
def tScore (vec : Bool) (reg : BitVec 6) : State := tRun.upCore fun c => { c with awaits := [tArrives vec reg] }
def tEnd (e : EndKind) : State := tMon.upCore fun c => { c with mEnd := e, snap := [⟨.s 9, 5, lowMask 8, 3, 6, 0, 1⟩] }
def tEnding : State := tRun.upSys fun y => { y with tstate := setField y.tstate 18 2 2 }
theorem wit_arrivals : (∀ v ∈ [true, false], (tScore v 6).arg.b = false ∧ (tScore v 6).core.awaits = [tArrives v 6]
      ∧ (tArrives v 6).id = (tScore v 6).arg.k ∧ (tArrives v 6).value = some 0x1_0000_0000_0000_0007
      ∧ (tArrives v 6).mon = (tScore v 6).core.mon ∧ (tArrives v 6).vec = v)
    ∧ (∀ a ∈ (tA (fun a => { a with k := 1 }) (tScore true 6)).core.awaits, a.id ≠ 1) := by decide +kernel
theorem wit_ends : (∀ e ∈ [EndKind.halt, .eret], (tEnd e).arg.b = false ∧ (tEnd e).core.run = .running ∧ (tEnd e).core.mon = true
      ∧ (tEnd e).core.mEnd = e ∧ (tEnd e).core.mDue = 0 ∧ (tEnd e).core.task = some tInfo ∧ (tEnd e).core.pipe = [])
    ∧ (tEnding.arg.b = false ∧ tEnding.core.run = .running ∧ tEnding.core.mEnd = .none ∧ tEnding.core.mon = false ∧ pendEnd tEnding = 2
      ∧ pendDue tEnding = 0 ∧ tEnding.core.task = some tInfo ∧ tEnding.core.leaving = []) := by decide +kernel
def tWaits (w : WaitKind) (n : Nat) : State := tRun.upCore fun c => { c with waiting := w, wfeCycles := n, barCycles := n, waitArg := 2, waitCycles := n }
theorem wit_waits : (tWaits .wfe 65536).core.waiting = .wfe ∧ 65536 ≤ (tWaits .wfe 65536).core.wfeCycles ∧ (tWaits .wfe 65535).core.wfeCycles < 65536
    ∧ (tRun.upSys fun y => { y with tstate := setField y.tstate 32 32 1 }).core.sys.tstate.extractLsb' 32 32 = 1
    ∧ (let s := tWaits .bar (2 ^ 38 + 1); s.core.task = some tInfo ∧ tInfo.gang = false ∧ s.core.waiting = .bar ∧ s.core.sys.bartimeout ≠ 0
        ∧ s.core.sys.bartimeout.toNat < s.core.barCycles)
    ∧ tRun.core.waiting ≠ .bar ∧ tRun.die.disp.parked = [] := by decide +kernel
/-- The task as the member of rank 1 of a gang of two, at a barrier. -/
def tMember : TaskInfo := { tInfo with gang := true, glevel := 1, gsize := 2, domain := 3, rank := 1 }
def tBar (x : TaskInfo) (asked : Bool) : State := tA (fun a => { a with k := 2 })
  (setBar 2 ⟨0, false, asked, 0, false⟩ (tRun.upCore fun c => { c with task := some x }))
theorem wit_barrierSteps : (∀ x ∈ [tInfo, tMember], (tBar x true).arg.b = false ∧ (tBar x true).core.task = some x
      ∧ arrivalReady (tBar x true) (BitVec.ofNat 3 (tBar x true).arg.k) = true ∧ arrivalReady (tBar x false) 2 = false
      ∧ aloneAt x 2 = !x.gang) ∧ (tBar tMember true).die.disp.arrivals = [] := by decide +kernel
def tPhase (ms : List (BitVec 16)) : State := upDisp (fun d => { d with arrivals := [⟨3, 2, 0, 2, ms⟩] })
  (setBar 2 ⟨0, true, false, 0, false⟩ (tBar tMember false))
theorem wit_phase : (∀ ms ∈ [[1], [1, 0]], (tPhase ms).die.disp.arrivals = [⟨3, 2, 0, 2, ms⟩] ∧ (tPhase ms).arg.n = 0
      ∧ (tPhase ms).core.saveArea = none ∧ (tPhase ms).die.disp.slots = [] ∧ gangOf (tPhase ms) 3 = none
      ∧ (tPhase ms).core.task = some tMember ∧ inPhase ⟨3, 2, 0, 2, ms⟩ tMember = true) := by decide +kernel

/-- ContextSteps: a task to save, one with a position, sequences that are gone and not, contexts in the save area and in a slot. -/
def tPre (k : BitVec 3) : State := tRun.upCore fun c => { c with asyncs := { c.asyncs with preempt := some (k, true) }, taskGranules := [0, 1] }
theorem wit_save : (∀ k ∈ [(1 : BitVec 3), 3], boundary (tPre k) = some .contextSave ∧ (tPre k).core.task = some tInfo ∧ (tPre k).core.joinReq = none
      ∧ (tPre k).core.asyncs.preempt = some (k, true) ∧ (tPre k).core.pipe = [] ∧ (tPre k).core.awaits = [] ∧ (tPre k).core.mxRun = none
      ∧ (∀ j : BitVec 2, (chOf (tPre k) j).queue = []) ∧ (tPre k).core.saveArea = none)
    ∧ boundary tRun ≠ some .contextSave ∧ mentryOk (tPre 1).core.sys.mentry = true ∧ mentryOk (tPre 3).core.sys.mentry = true
    ∧ (let s := (tPre 1).upSys fun y => { y with mentry := 0 }
       boundary s = some .contextSave ∧ s.core.task = some tInfo ∧ s.core.joinReq = none ∧ s.core.asyncs.preempt = some (1, true)
        ∧ mentryOk s.core.sys.mentry = false) := by
  refine ⟨?_, by decide +kernel, by decide, by decide, by decide +kernel⟩
  intro k h
  simp only [List.mem_cons, List.not_mem_nil, or_false] at h
  rcases h with rfl | rfl <;> decide +kernel
/-- A sequence of this die with a snapshot at position 9. -/
def tSeq : Seq := ⟨0, 0, 1, [], [], [⟨9, false, []⟩]⟩
def tPosInfo : TaskInfo := { tInfo with record := { tRec with w4 := 0x10000, w5 := 0 } }
def tPosPre : State := ((tPre 1).upCore fun c => { c with task := some tPosInfo }).upDie fun d => { d with
  grotto := { d.grotto with seqs := [tSeq] } }
def tAtBar : Parked := ⟨tPosInfo.record, .bar, 2, 0, 0, false, none⟩
def tRolling (k : Option Parked) : Restart := ⟨tPosInfo.record, true, false, none, k⟩
def tRestarts (k : Option Parked) (seqs : List Seq) : State :=
  (upDisp (fun d => { d with restarts := [tRolling k] }) tRun).upDie fun d => { d with grotto := { d.grotto with seqs := seqs } }
def tRestart (seqs : List Seq) : State := tRestarts none seqs
theorem wit_position : boundary tPosPre = some .positionPreempt ∧ tPosPre.core.task = some tPosInfo
    ∧ tPosPre.core.asyncs.preempt = some (1, true) ∧ mentryOk tPosPre.core.sys.mentry = true ∧ (tRolling none).park = none ∧ tPosPre.arg.b = false ∧ posFar tPosPre tPosInfo.record = false
    ∧ (∀ q ∈ [[], [tSeq]], (tRestart q).die.disp.restarts = tRolling none :: [] ∧ posFar (tRestart q) tPosInfo.record = false ∧ statesDue (tRestart q) = false
        ∧ (tRestart q).arg.b = false)
    ∧ statesDue (tChan { tToOther with live := false } (tRestart [])) = true ∧ newestWord (tRestart []) tPosInfo.record.w5 = none
    ∧ newestWord (tRestart [tSeq]) tPosInfo.record.w5 = some 0x900000000
    ∧ (let s1 := (grPerform 0x2B 0x900000000 0 (tRestart [tSeq])).2
       (grPerform 0x2B 0x900000000 0 (tRestart [tSeq])).1.isSome = true ∧ neverRun s1 tPosInfo.record = none ∧ s1.die.disp.returns = []
        ∧ fifoFull s1 (recPrio tPosInfo.record) = false) := by decide +kernel
theorem wit_positionParked : (tRestarts (some tAtBar) [tSeq]).die.disp.restarts = tRolling (some tAtBar) :: [] ∧ (tRolling (some tAtBar)).park = some tAtBar
    ∧ (tRestarts (some tAtBar) [tSeq]).arg.b = false ∧ posFar (tRestarts (some tAtBar) [tSeq]) tPosInfo.record = false
    ∧ statesDue (tRestarts (some tAtBar) [tSeq]) = false ∧ newestWord (tRestarts (some tAtBar) [tSeq]) tPosInfo.record.w5 = some 0x900000000
    ∧ (grPerform 0x2B 0x900000000 0 (tRestarts (some tAtBar) [tSeq])).1.isSome = true := by decide +kernel
/-- A task with a position at the other die's controller, and one asked about. -/
def tFarPos : State := tPosPre.upCore fun c => { c with
  task := some { tPosInfo with record := { tPosInfo.record with w5 := 0x10000 } } }
theorem wit_farPosition : boundary tFarPos = some .positionPreempt ∧ posFar tFarPos { tPosInfo.record with w5 := 0x10000 } = true
    ∧ tFarPos.core.posr = none ∧ mentryOk tFarPos.core.sys.mentry = true
    ∧ (let s := tFarPos.upCore fun c => { c with posr := some (some true) }
       boundary s = some .positionPreempt ∧ s.core.posr = some (some true)) := by decide +kernel
def tCtx (gr : List Nat) (inCore : Bool) : Ctx := { ctxOf (tPre 1) tInfo inCore with granules := gr }
/-- A slot in the memory of agent 1. -/
def tSlotVa : W64 := 0x400000400000
def tSaved (accs : List GAcc) : State := tA (fun a => { a with x := tSlotVa }) (tRun.upCore fun c => { c with
  saveArea := some (tSlotVa, tCtx [] true), accs := accs })
theorem wit_slotLength : (imgBytesOf tSlotVa (carried (tSaved []) (tCtx [] true))).length < 2 ^ 40 := by decide +kernel
/-- The lines of the slot are of another agent. -/
theorem wit_slotRemote : ∀ l ∈ linesOf ((slotCells (tSaved []) tSlotVa (tCtx [] true)).map (·.1)), isLocal (tSaved []) (lineIa l) = false := by
  intro l hl
  have hm : ∃ a ∈ (slotCells (tSaved []) tSlotVa (tCtx [] true)).map (·.1), lineOf (BitVec.ofNat 56 a) = l := by
    unfold linesOf at hl
    exact List.mem_map.mp (List.mem_eraseDups.mp hl)
  obtain ⟨a, ha, rfl⟩ := hm
  obtain ⟨c, hc, rfl⟩ := List.mem_map.mp ha
  have hs : slotCells (tSaved []) tSlotVa (tCtx [] true)
      = slotAt tSlotVa ((imgBytesOf tSlotVa (carried (tSaved []) (tCtx [] true))).zipIdx.map fun b => (b.2, b.1)) := by
    show slotAt _ (_ ++ [] ++ []) = _
    rw [List.append_nil, List.append_nil]
  rw [hs] at hc
  obtain ⟨d, hd, rfl⟩ := List.mem_map.mp hc
  obtain ⟨b, hb, rfl⟩ := List.mem_map.mp hd
  have hi : b.2 < 2 ^ 40 := by
    have := (List.mem_zipIdx hb).2.1
    have := wit_slotLength
    omega
  have hv : tSlotVa.toNat = 0x400000400000 := rfl
  have hx : (tSlotVa.toNat + b.2) % 2 ^ 56 = 0x400000400000 + b.2 := by omega
  show isLocal (tSaved []) (lineIa (lineOf (BitVec.ofNat 56 ((tSlotVa.toNat + b.2) % 2 ^ 56)))) = false
  rw [hx]
  have ha : iaAgent (lineIa (lineOf (BitVec.ofNat 56 (0x400000400000 + b.2)))) = 1 := by
    apply BitVec.eq_of_toNat_eq
    simp only [iaAgent, lineIa, lineOf, BitVec.extractLsb'_toNat, BitVec.toNat_append, BitVec.toNat_ofNat, Nat.shiftRight_eq_div_pow,
      Nat.shiftLeft_eq]
    simp
    omega
  unfold isLocal
  rw [ha]
  rfl
theorem wit_writeout : (tSaved []).core.saveArea = some ((tSaved []).arg.x, tCtx [] true) ∧ (tCtx [] true).inCore = true
    ∧ (∀ z ∈ (tSaved []).die.disp.slots, z.1 ≠ (tSaved []).arg.x)
    ∧ ctxPerformed (tSaved []) (tCtx [] true) = true ∧ ctxPerformed (tSaved [{ tAcc (.load 0) [] with seq := 0 }]) (tCtx [] true) = false
    ∧ (∀ l : BitVec 3, ((tCtx [] true).bars.get l.toFin).asked = true → ((tCtx [] true).bars.get l.toFin).arrived = true)
    ∧ (∀ l ∈ linesOf ((slotCells (tSaved []) (tSaved []).arg.x (tCtx [] true)).map (·.1)), lineBad (tSaved []) l = false)
    ∧ engAllWritable (tSaved []) ((slotCells (tSaved []) (tSaved []).arg.x (tCtx [] true)).map (·.1)) = true
    ∧ ctxFind tRun tRun.arg.x = none :=
  ⟨rfl, rfl, by decide +kernel, by decide +kernel, by decide +kernel, by decide +kernel, fun _ _ => rfl,
    List.all_eq_true.mpr fun l h => by
      unfold engWritable
      rw [wit_slotRemote l h]
      rfl, rfl⟩
def tSpill (x : TaskInfo) : State := tRun.upCore fun c => { c with
  spill := [0], spillMove := some (x, 0x400000), saveArea := some (0x400000, tCtx [] true) }
theorem wit_spill : (tSpill tInfo).core.spillMove = some (tInfo, 0x400000) ∧ tInfo.gang = false
    ∧ (tSpill tInfo).core.saveArea = some (0x400000, tCtx [] true) ∧ (tSpill tMember).core.spillMove = some (tMember, 0x400000)
    ∧ tMember.gang = true ∧ gangOf (tSpill tMember) tMember.domain = none := ⟨rfl, rfl, rfl, rfl, rfl, rfl⟩
/-- The image of the saved task as it stands in the save area. -/
def tImage : Memory := ((imgBytesOf 0x400000 (tCtx [0, 1] true)).zipIdx.filter fun b => b.1 != 0).map fun b => (0x3C0000 + b.2, b.1)
def tRestore (accs : List GAcc) (left : Option Nat) : State := (tRun.setSpad tImage).upCore fun c => { c with
  run := .idle, task := none, restoring := some ({ tRec with w7 := 0x400000 }, false), restoreLeft := left
  saveArea := some (0x400000, tCtx [0, 1] true), accs := accs }
theorem wit_restore : (∀ n ∈ [none, some 5, some 0], let s := tRestore [] n
      s.core.restoring = some ({ tRec with w7 := 0x400000 }, false) ∧ s.core.accs = [] ∧ engWriting s = false ∧ s.core.spillMove = none
        ∧ s.core.mxQueue = [] ∧ s.core.mxRun = none ∧ s.core.restoreLeft = n
        ∧ s.core.saveArea = some (({ tRec with w7 := 0x400000 } : Rec).w7, tCtx [0, 1] true))
    ∧ (tRestore [tAcc (.load 0) []] none).core.accs ≠ [] ∧ (tCtx [0, 1] true).step = stepId.setWidth 16 ∧ (tCtx [0, 1] true).granules ≠ []
    ∧ (tCtx [0, 1] true).awaits = [] ∧ (tCtx [0, 1] true).spill = []
    ∧ gangOf (tRestore [] (some 0)) (tCtx [0, 1] true).task.domain = none := by decide +kernel
theorem wit_restoreImage : imgSame (tRestore [] (some 0)).core.spad 0x3C0000 (imgBytesOf 0x400000 (tCtx [0, 1] true)) = true := by decide +kernel

/-- TrapAndMonitorSteps: traps at both levels, with and without a usable MENTRY; causes that pend; a stopped channel. -/
def tPending (f : Asyncs → Asyncs) : State := tRun.upCore fun c => { c with asyncs := f c.asyncs }
def tNoEntry : State := tRun.upSys fun y => { y with mentry := 0 }
theorem wit_traps : Settled tRun ∧ tRun.core.mon = false ∧ mentryOk tRun.core.sys.mentry = true ∧ Settled tMon ∧ tMon.core.mon = true
    ∧ Settled tNoEntry ∧ mentryOk tNoEntry.core.sys.mentry = false
    ∧ boundary (tPending fun a => { a with memErr := [⟨0x200040, 0x40, 0x100000, 1⟩] }) = some .trapEntry
    ∧ (let s := tPending fun _ => { resetAsyncs with mailbox := true, timer := true }
       boundary s = some .trapEntry ∧ s.core.asyncs = { resetAsyncs with mailbox := true, timer := true })
    ∧ boundary tRun ≠ some .trapEntry :=
  ⟨wit_settled.1, rfl, rfl, wit_settled.2, rfl, ⟨rfl, rfl, rfl, rfl, rfl, rfl, rfl⟩, rfl, rfl, ⟨rfl, rfl⟩, by decide⟩
def tHalted (stop : Option (BitVec 4)) (popped : Nat) : State := setCh 0 (fun h => { h with queue := [tIn], stop := stop, popped := popped }) tRun
theorem wit_queueWords : (∀ n ∈ [0, 2], (chOf (tHalted (some 4) n) (BitVec.ofNat 2 (tHalted (some 4) n).arg.n)).queue = tIn :: []
      ∧ (chOf (tHalted (some 4) n) 0).stop = some 4 ∧ (chOf (tHalted (some 4) n) 0).popped = n)
    ∧ (chOf (tHalted none 0) 0).stop = none ∧ (chOf (tHalted (some 4) 0) 0).partialWords = []
    ∧ (tA (fun a => { a with record := { tRec with w0 := 1#64 <<< 56 } }) tRun).arg.record.w0.getLsbD 56 = true
    ∧ (∀ r ∈ (tEnd .halt).core.snap, 0 < r.pcs) := by decide +kernel
theorem wit_entryAndHalt : (tRun.upCore fun c => { c with run := .reset }).core.run = .reset ∧ tRun.core.run ≠ .reset
    ∧ tRun.core.task = some tInfo ∧ tRun.core.asyncs.debugHalt = none ∧ tMember.gang = true := by decide +kernel
/-- A gang of two in domain 3, with its members queued and their cores reserved. -/
def tGang (queued reserved : List (BitVec 16)) : Gang := ⟨BitVec.ofNat 64 (2 * 2 ^ 48 + 3 * 2 ^ 32), 0, queued, none, reserved, false, [], [], [], 0, none⟩
def tGangs (g : Gang) (s : State) : State := tA (fun a => { a with n := 3 }) (upDisp (fun d => { d with gangs := [g] }) s)
theorem wit_held : (let s := tGangs (tGang [] []) (tRun.upCore fun c => { c with task := some tMember })
      gangOf s tMember.domain = some (tGang [] []) ∧ gangOf s (BitVec.ofNat 16 s.arg.n) = some (tGang [] [])) := by decide +kernel
/-- A gang with room for one message more in its overflow, and one message spilled. -/
theorem wit_spillGang : (let g : Gang := { tGang [] [] with w0 := (tGang [] []).w0 ||| 4, overflow := [⟨0, 0, tMsg⟩] }
      let s := upDisp (fun d => { d with gangs := [g] }) (tSpill tMember)
      s.core.spillMove = some (tMember, 0x400000) ∧ tMember.gang = true ∧ gangOf s tMember.domain = some g
        ∧ g.overflow.length + s.core.spill.length ≤ (g.w0.extractLsb' 0 16).toNat) := by decide +kernel

/-! ## The dispatcher (R292 to R309) -/

/-- A core that waits for work, with granules 2 to 59 free, and windows for the code at 0x100000. -/
def tIdle : State := (tRun.upCore fun c => { c with run := .idle, task := none, granules := (Vector.replicate 64 .free), offline := false }).upDie
  fun d => { d with disp := { d.disp with windows := [(0x100000, 0x110000, tWin)] } }
/-- A record of priority 40 that asks for two granules. -/
def tTask : Rec := ⟨0x100000, 11, 12, 13, 0x228, 15, 0, 0⟩
def tFifo (r : Rec) : FifoRec := ⟨r, 0, false, recPrio r, false, none⟩
def tQueued (rs : List Rec) (s : State) : State := upDisp (fun d => { d with fifo := rs.map tFifo }) s
def tRecArg (r : Rec) : State := tA (fun a => { a with record := r }) tIdle
/-- DispatcherSteps: notices, malformed records, records that ask too much, records that fit, and a full level. -/
theorem wit_arriving : (tRecArg { tTask with w0 := 0 }).arg.b = false ∧ tTask.w0 ≠ 0
    ∧ (tRecArg tTask).arg.k = 0 ∧ (tRecArg tTask).arg.nats = [] ∧ (tRecArg tTask).die.disp.returns = []
    ∧ haltedRec (tRecArg tTask) tTask = false
    ∧ recMalformed (tRecArg tTask) { tTask with w4 := 0x80 } = true ∧ haltedRec (tRecArg tTask) { tTask with w4 := 0x80 } = false
    ∧ (recMalformed (tRecArg tTask) { tTask with w4 := 0x3D28 } = false ∧ 60 < recGran { tTask with w4 := 0x3D28 })
    ∧ (recMalformed (tRecArg tTask) tTask = false ∧ recGran tTask ≤ 60 ∧ fifoFull (tRecArg tTask) (recPrio tTask) = false)
    ∧ fifoFull (tQueued (List.replicate 1024 tTask) tIdle) (recPrio tTask) = true := by decide +kernel
def tReturned (n : Nat) (toHead : Bool) : State :=
  upDisp (fun d => { d with returns := [{ tFifo tTask with toHead := toHead }] }) (tQueued (List.replicate n tTask) tIdle)
theorem wit_returns : (∀ n ∈ [1, 1024], (tReturned n true).die.disp.returns = [{ tFifo tTask with toHead := true }])
    ∧ fifoSpace (tReturned 1024 true) (recPrio tTask) = false ∧ fifoSpace (tReturned 1 true) (recPrio tTask) = true := by decide +kernel
theorem wit_takes : (let s := tQueued [tTask] tIdle
      s.arg.b = false ∧ coreFree s = true ∧ choose (ageAll (expireAffinity s)) s.core.cid.toNat = some (.fifo (tFifo tTask), ⟨tTask, true, 0⟩)
        ∧ s.core.reserved = none ∧ neverRun s tTask = none ∧ tTask.w7 = 0
        ∧ windowSet s (tFifo tTask).win tTask = some tWin ∧ allocRuns s (recGran tTask) = some [(0, 2)] ∧ gangOf s (recDomain tTask) = none)
    ∧ tRun.arg.b = false ∧ coreFree tRun = false := by decide +kernel
def tWaiting : Rec := { tTask with w7 := 0x400000 }
def tSlot : State := (tQueued [tWaiting] tIdle).upDie fun d => { d with disp := { d.disp with slots := [(0x400000, tCtx [0, 1] true)] } }
theorem wit_takesContext : tSlot.arg.b = false ∧ coreFree tSlot = true
    ∧ choose (ageAll (expireAffinity tSlot)) tSlot.core.cid.toNat = some (.fifo (tFifo tWaiting), ⟨tWaiting, true, 0⟩)
    ∧ tSlot.core.reserved = none ∧ gangOf tSlot (recDomain tWaiting) = none ∧ neverRun tSlot tWaiting = none ∧ tWaiting.w7 ≠ 0 := by decide +kernel
def tNotice : State := tIdle.upCore fun c => { c with deque := [⟨{ tTask with w0 := 0 }, true, 0⟩] }
theorem wit_takesNotice : tNotice.arg.b = false ∧ coreFree tNotice = true
    ∧ choose (ageAll (expireAffinity tNotice)) tNotice.core.cid.toNat = some (.own, ⟨{ tTask with w0 := 0 }, true, 0⟩)
    ∧ tNotice.core.reserved = none ∧ gangOf tNotice (recDomain tTask) = none := by decide +kernel
def tQuantum (rs : List Rec) : State := tQueued rs (tRun.upCore fun c => { c with quantumUsed := 2 ^ 20, bundlesSince := 256 })
theorem wit_ageing : (tA (fun a => { a with b := true }) tIdle).arg.b = true ∧ tIdle.arg.b = false := ⟨rfl, rfl⟩
def tMine : Running := ⟨tRun.core.cid.toNat, 40, false, 0, false, false, 0⟩
theorem wit_quantum : quantumDue tRun = [] ∧ (∀ rs ∈ [[], [{ tTask with w4 := 0x28 }]], (tQuantum rs).arg.b = false ∧ quantumDue (tQuantum rs) = tMine :: [])
    ∧ (tQuantum []).die.disp.fifo = [] ∧ tMine.cid = (tQuantum []).core.cid.toNat ∧ tMine.gang = false
    ∧ (tQuantum [{ tTask with w4 := 0x28 }]).core.asyncs.preempt = none
    ∧ (let s' := ageAll (expireAffinity (tQuantum [{ tTask with w4 := 0x28 }]))
       ∃ f ∈ s'.die.disp.fifo, affine s' f tMine.cid = true ∧ servesOn s' tMine.cid f.record = true ∧ tMine.prio ≤ f.eff
         ∧ spent s' f.record = false) := by decide +kernel
def tParking (w : WaitKind) : State := tQueued [{ tTask with w4 := 0x28 }] (tWaits w 65536)
def tSleeper (w : WaitKind) : Parked := ⟨{ tWaiting with w4 := 0x28 }, w, 2, 0, 0, false, none⟩
def tAsleep (w : WaitKind) (complete : Bool) : State := upDisp (fun d => { d with
  parked := [tSleeper w]
  slots := [(0x400000, { tCtx [0, 1] true with bars := (Vector.replicate 8 ⟨0, true, false, 0, complete⟩) })] }) tIdle
theorem wit_parkWake : parkDue (tParking .recv) = true ∧ parkDue tRun = false
    ∧ (∀ c ∈ [true, false], (tAsleep .bar c).die.disp.parked = [tSleeper .bar]
        ∧ wakeable (tAsleep .bar c) (tSleeper .bar) = c)
    ∧ recMalformed (tAsleep .bar true) { tWaiting with w4 := 0x28 } = false ∧ recGran { tWaiting with w4 := 0x28 } ≤ 60
    ∧ (tAsleep .bar true).die.disp.returns = [] ∧ fifoFull (tAsleep .bar true) (recPrio { tWaiting with w4 := 0x28 }) = false := by decide +kernel
/-- Members of ranks 0 and 1 of the gang of domain 3. -/
def tMemb (k : Nat) (w7 : W64) : Rec := { tTask with w4 := BitVec.ofNat 64 (k * 2 ^ 48 + 3 * 2 ^ 32 + 2 ^ 19 + 2 ^ 17 + 63 * 2 ^ 24 + 0x28), w7 := w7 }
def tPlacing : State := tGangs (tGang [0, 1] [0]) (tQueued [tMemb 1 0] tIdle)
theorem wit_placing : gangOf tPlacing (BitVec.ofNat 16 tPlacing.arg.n) = some (tGang [0, 1] [0]) ∧ (tGang [0, 1] [0]).placed = false
    ∧ gangQueued tPlacing (tGang [0, 1] [0]) = true ∧ gangFirst tPlacing (tGang [0, 1] [0]) = true ∧ tPlacing.arg.nats = []
    ∧ tPlacing.die.disp.fifo = [tFifo (tMemb 1 0)] ∧ recGang (tMemb 1 0) = true ∧ recDomain (tMemb 1 0) = BitVec.ofNat 16 tPlacing.arg.n
    ∧ recRank (tMemb 1 0) ∉ (tGang [0, 1] [0]).reservedRanks ∧ aclCluster tPlacing (tMemb 1 0) = none ∧ coreFree tPlacing = true
    ∧ tPlacing.core.reserved = none ∧ canServe tPlacing (tMemb 1 0) = true ∧ gangLevel (tGang [0, 1] [0]) ≠ 1 := by decide +kernel
def tStarting (mine : Bool) : State := upDisp (fun d => { d with peers := [] }) <| tGangs (tGang [1] [1]) (tQueued [tMemb 1 0x400000] (tIdle.upCore fun c => { c with
  reserved := if mine then some (3, 1) else none }))
theorem wit_starting : gangReady (tGang [0, 1] [0]) = false ∧ gangReady (tGang [1] [1]) = true ∧ (tStarting false).core.reserved = none
    ∧ (∀ c ∈ reservedCores (ageAll (expireAffinity (tStarting false))) 3, outranked (ageAll (expireAffinity (tStarting false))) 3 c.1 = false)
    ∧ (let s := upDisp (fun d => { d with peers := [{ resetPeer 5 with offline := false, reserved := some (3, 1) }] }) (tGangs (tGang [1] [1]) (tQueued [tMemb 1 0] tIdle))
       s.core.reserved = none ∧ gangOf s 3 = some (tGang [1] [1]) ∧ reservedCores (ageAll (expireAffinity s)) 3 ≠ []
        ∧ ∀ c ∈ reservedCores (ageAll (expireAffinity s)) 3, outranked (ageAll (expireAffinity s)) 3 c.1 = false
          ∧ ∀ f ∈ gangRecs (ageAll (expireAffinity s)) 3, recRank f.record = c.2 → leftCore (ageAll (expireAffinity s)) f.record = true)
    ∧ (tStarting true).die.disp.peers = []
    ∧ gangOf (tStarting true) (BitVec.ofNat 16 (tStarting true).arg.n) = some (tGang [1] [1])
    ∧ (tStarting true).core.reserved = some (BitVec.ofNat 16 (tStarting true).arg.n, recRank (tMemb 1 0x400000))
    ∧ (tStarting true).die.disp.fifo = [tFifo (tMemb 1 0x400000)] ∧ recGang (tMemb 1 0x400000) = true
    ∧ recDomain (tMemb 1 0x400000) = BitVec.ofNat 16 (tStarting true).arg.n ∧ (tMemb 1 0x400000).w7 ≠ 0 := by decide +kernel

/-! ## The sequencer (R311 to R332) -/

/-- An instruction of the bytecode: opcode, words, DST, SA, SB; its attribute words follow it (R317). -/
def tBc (op n dst sa sb : Nat) (attrs : List Nat) : List Byte :=
  ((op + n * 2 ^ 8 + dst * 2 ^ 16 + sa * 2 ^ 32 + sb * 2 ^ 48) :: attrs).flatMap (toBytes 8)
/-- An INT32 tensor of four elements in a buffer, with and without storage. -/
def tTen (buf : BitVec 16) (st : Option (W64 × Nat)) (entry : Nat) : Tensor :=
  { fmt := 2, rank := 1, layout := 0, buf := buf, dims := [4], storage := st, entry := entry, mode := 0, axis := 0, blkAxis := 0, blocks := 1
    whole := false, pageRows := 0 }
def tProg (code : List Byte) : Program :=
  { image := 0x210000, code := code, entry := 0, agents := 1, group := 0, seqs := 0, off := 0, workspace := 0x220000, wsBytes := 0x10000, buffers := []
    tensors := [], kernels := [⟨0x100000, 0x101000, 0x100000, 2, false, []⟩], recipes := [], recipeBase := 0, domains := [] }
/-- A program at the first instruction of its code: handle 1 has storage and is READY, handle 2 is dynamic, handle 3 has none. -/
def tLaunch (code : List Byte) : Launch :=
  { prog := tProg code, pc := 0, symbols := (Vector.replicate 256 0).set 9 3, loopStack := [], callStack := []
    tensors := [tTen 0 none 0, tTen 0 (some (0x200100, 16)) 1, tTen 0xFFFF none 2, tTen 0 none 3], scoreboard := [.empty, .ready 0, .empty, .empty]
    opers := [], nextOp := 5, wsUsed := [], ended := false }
def tSeqS (l : Launch) : State := upSeq (fun q => { q with busy := true, run := some l }) ((upCoh (fun c => { c with
  home := ([0x8000, 0x8001, 0x8002, 0x8003, 0x8004, 0x8005, 0x8800, 0x8801] : List (BitVec 50)).map fun l => ⟨l, 0, false, false, none⟩ }) tRun).upDie
    fun d => { d with mem := d.mem.writeBytes 0x200100 (toBytes 4 77), xlate := { d.xlate with buffer := [] } })
/-- What the instruction at the pc is. -/
def tNext (code : List Byte) : Option (Nat × Nat × BcWord) := (bcAt [] code 0).map fun i => (i.op, i.words, i.bc)
def tNop : State := tSeqS (tLaunch (tBc 0 1 0 0 0 []))
/-- StructuralOperatorSteps: an opcode that is not defined, none, and one instruction of every structural opcode, with its operands. -/
theorem wit_decodeBc : (nextBc (tSeqS (tLaunch (tBc 0x1F 1 0 0 0 [])))).isSome = true ∧ (bcAt [] (tBc 0x1F 1 0 0 0 []) 0).isNone = true
    ∧ (nextBc tRun).isNone = true ∧ (tLaunch []).opers = []
    ∧ (∀ x ∈ [(0, 1), (1, 1), (2, 2), (3, 2), (4, 1), (5, 1), (6, 2), (7, 1), (8, 2), (9, 2), (10, 2), (11, 1), (12, 2), (13, 2), (14, 1)],
      (nextBc (tSeqS (tLaunch (tBc x.1 x.2 1 1 0 (List.replicate (x.2 - 1) 2))))).isSome = true
      ∧ (bcAt [] (tBc x.1 x.2 1 1 0 (List.replicate (x.2 - 1) 2)) 0).map (·.op) = some x.1) := by decide +kernel
theorem wit_structural : (let l := tLaunch (tBc 2 2 1 1 0 [2])
      storedAt l 3 = none ∧ storedAt l 1 = some (tTen 0 (some (0x200100, 16)) 1) ∧ (viewOf l (seqRank (tSeqS l)) (tTen 0 (some (0x200100, 16)) 1)).isSome = true
        ∧ (tTen 0 (some (0x200100, 16)) 1).fmt = 2 ∧ (holdOf l 1).isReady = true ∧ seqReadable (tSeqS l) (seqIas 0 0x200108 4) = true
        ∧ tensorAt l 2 = some (tTen 0xFFFF none 2) ∧ (tTen 0xFFFF none 2).buf = 0xFFFF ∧ tensorAt l 1 = some (tTen 0 (some (0x200100, 16)) 1)
        ∧ (tTen 0 none 1).buf ≠ 0xFFFF ∧ (holdOf l 1).quiet = true ∧ (holdOf { l with scoreboard := [.empty, .filling 1 false] } 1).quiet = false
        ∧ (tTen 0 none 1).mode = 0 ∧ (5 : W64).extractLsb' 0 2 = 1)
    ∧ (let a := (BitVec.ofNat 64 2); a.getLsbD 63 = false ∧ (a.extractLsb' 0 32).toNat ≠ 0) := by decide +kernel
/-- Room in an empty workspace, wherever the sequencer looks first. -/
theorem wit_room (l : Launch) (n : Nat) (h : l.wsUsed = []) (h2 : l.prog.workspace = 0x220000) (h3 : Nat.max n 1 ≤ l.prog.wsBytes) (h4 : l.prog.wsBytes ≤ 2 ^ 32) :
    ∃ va l', wsAlloc n 64 l = some (va, l') ∧ va.toNat < 2 ^ 40 := by
  have : (wsFind l (Nat.max n 1) 64).isSome = true := by
    unfold wsFind
    simp only [Option.isSome_map, List.find?_isSome, h, h2, List.all_nil, List.map_nil, Bool.and_true]
    refine ⟨0x220000, ?_, ?_⟩
    · simp only [List.map_cons, List.mem_cons, List.map_nil]
      right; left; decide
    · simp only [Bool.and_eq_true, decide_eq_true_eq]
      exact ⟨by decide, Nat.add_le_add_left h3 _⟩
  obtain ⟨va, hva⟩ := Option.isSome_iff_exists.mp this
  refine ⟨va, _, by rw [wsAlloc, hva]; rfl, ?_⟩
  unfold wsFind at hva
  obtain ⟨x, hx, rfl⟩ := Option.map_eq_some_iff.mp hva
  have hf := List.find?_some hx
  simp only [h2, Bool.and_eq_true, decide_eq_true_eq] at hf
  have hz : (0x220000 : W64).toNat = 0x220000 := rfl
  simp only [BitVec.toNat_ofNat]
  omega
theorem wit_alloc : ∃ va l', wsAlloc (((viewOf (tLaunch []) 0 { tTen 0xFFFF none 2 with storage := some (0, 0), blocks := 1, whole := false }).map
    View.span).getD 0) 64 (tLaunch []) = some (va, l') :=
  let ⟨va, l', h, _⟩ := wit_room _ _ rfl rfl (by decide +kernel) (by decide)
  ⟨va, l', h⟩

/-- An operator of an opcode that has issued, at handles 1 and 1. -/
def tOper (op : Nat) (recipe : List W64) : Oper :=
  { id := 0, addr := 24, op := op, bc := ⟨0, 1, 1, false, false, false, [7, 8]⟩, views := [], reads := [1], writes := [], issued := true, held := false
    ran := false, block := 0x220000, operands := 0x220080, recipe := recipe, pos := 0, loops := [], q := Vector.replicate 16 3, temps := []
    colls := [], plan := none, badIndex := false, asked := [] }
def tWith (o : Oper) (f : Launch → Launch) : State := tSeqS (f { tLaunch [] with opers := [o] })
def tOps : List Nat := [0x20, 0x21, 0x22, 0x23, 0x24, 0x25, 0x26, 0x27, 0x28, 0x29, 0x2A, 0x2B, 0x2C, 0x2D, 0x2E, 0x2F, 0x30, 0x31, 0x32, 0x33, 0x34, 0x35, 0x36]
def tOpBc (op dst : Nat) : List Byte := tBc op ((opWords op).getD 1) dst 1 1 (List.replicate ((opWords op).getD 1 - 1) 0x0001000100010001)
/-- TensorOperatorSteps: an instruction of every opcode, with a full window and with room; handles with and without storage. -/
theorem wit_tensorDecode : (∀ op ∈ tOps, (nextBc (tSeqS (tLaunch (tOpBc op 1)))).isSome = true
      ∧ (bcAt [] (tOpBc op 1) 0).map (·.op) = some op ∧ (bcAt [] (tOpBc op 3) 0).map (·.bc.dst) = some 3)
    ∧ (tSeqS (tLaunch [])).arg.b = false ∧ (tLaunch []).prog.agents ≤ 1 ∧ storedAt (tLaunch []) 3 = none
    ∧ 64 ≤ ((List.replicate 64 { tOper 0x20 [] with issued := false }).filter fun o => !o.issued).length
    ∧ ((tLaunch []).opers.filter fun o => !o.issued).length < 64 := by decide +kernel
/-- Every handle of the instruction has its storage. -/
def tHandlesOk (op : Nat) : Bool := match bcAt [] (tOpBc op 1) 0 with
  | some i => (handlesOf [] i).zipIdx.all fun x => if x.1.1 = 0 then !needsRole op x.2 else (storedAt (tLaunch []) x.1.1).isSome
  | none => false
theorem wit_tensorHandles : ∀ op ∈ tOps, op ≠ 0x32 → tHandlesOk op = true := by decide +kernel
theorem wit_tensorWork : (∀ op ∈ tOps, let s := tA (fun a => { a with b := true, n := 0 }) (tWith (tOper op []) id)
      s.arg.b = true ∧ s.arg.x ≠ 1 ∧ (liveOper s).isSome = true ∧ (farAsks s 0 (tOper op [])).isEmpty = true ∧ seqReadable s (operIas 0 (tOper op [])) = true ∧ seqWritable s 0 0x220000 128 = true
        ∧ engBad s (operIas 0 (tOper op [])) = false)
    ∧ (let o := { tOper 0x25 [] with views := [some ⟨0x200040, 16, 2, 0, [4], 0, 0, 4, 0, 1, 0, 4, 0⟩] }
       let s := tA (fun a => { a with b := true }) (upCoh (fun k => { k with badLines := [⟨tL, 1, true⟩] }) (tWith o id))
       (liveOper s).isSome = true ∧ engBad s (operIas 0 o) = true ∧ seqReadable s (operIas 0 o) = true) := by decide +kernel

/-- RecipeSteps: each word of a recipe, on an operator whose own count alone is left and on one with a task outstanding. -/
def tWord (code two q attr low : Nat) : W64 := BitVec.ofNat 64 (code * 2 ^ 60 + q * 2 ^ 56 + two * 2 ^ 54 + attr * 2 ^ 48 + low)
/-- A STATEOP on a sequence of the other die: before it has asked, while it waits, and with its answer. -/
def tFarOp (asked : List (W64 × Nat × Option (Nat × List Byte))) : Oper := { tOper 0x30 [] with
  asked := asked, views := [none, some ⟨0x200040, 4, 2, 0, [1], 0, 0, 1, 0, 1, 0, 1, 0⟩] }
def tFarWork (o : Oper) (x : W64) : State := tA (fun a => { a with b := true, x := x }) ((tWith o id).upDie fun d => { d with
  mem := d.mem.writeBytes 0x200040 (toBytes 4 0x10000) })
theorem wit_farWork : (let s := tFarWork (tFarOp []) 0
      (liveOper s).isSome = true ∧ seqReadable s (operIas 0 (tFarOp [])) = true ∧ seqWritable s 0 0x220000 128 = true
        ∧ engBad s (operIas 0 (tFarOp [])) = false ∧ (farAsks s 0 (tFarOp [])).isEmpty = false)
    ∧ (let s := tFarWork (tFarOp [(0x10000, 0, none)]) 1
       s.arg.b = true ∧ s.arg.x = 1 ∧ (liveOper s).isSome = true ∧ (tFarOp [(0x10000, 0, none)]).asked[s.arg.k]? = some (0x10000, 0, none))
    ∧ (∀ x ∈ (tFarOp [(0x10000, 0, some (0, []))]).asked, x.2.2 ≠ none) := by decide +kernel
/-- Work that ends with a cause, and work that ends with a result whose lines can be written. -/
theorem wit_workEnds : (let s := tA (fun a => { a with b := true }) (tWith (tOper 0x35 []) id)
      (copyOut s 0 (tOper 0x35 [])).cause = none ∧ engAllWritable s ((copyOut s 0 (tOper 0x35 [])).cells.map (·.1)) = true)
    ∧ (let o := { tOper 0x27 [] with views := [some ⟨0x200040, 4, 2, 0, [1], 0, 0, 1, 0, 1, 0, 1, 0⟩, some ⟨0x200044, 4, 2, 0, [1], 0, 0, 1, 0, 1, 0, 1, 0⟩, some ⟨0x200100, 4, 2, 0, [1], 0, 0, 1, 0, 1, 0, 1, 0⟩] }
       let s := tA (fun a => { a with b := true }) (tWith o id)
       seqReadable s (operIas 0 o) = true ∧ (gatherOut s 0 o).cause = none ∧ (gatherOut s 0 o).badIndex = true)
    ∧ (let o := { tOper 0x32 [] with views := [none, none, some ⟨0x200040, 0, 2, 0, [0, 0], 0, 0, 0, 0, 1, 0, 0, 0⟩] }
       let s := tA (fun a => { a with b := true }) (tWith o id)
       (liveOper s).isSome = true ∧ seqReadable s (operIas 0 o) = true ∧ (dispatchOut s 0 o).cause = some 1) := by decide +kernel
def tRecipe (w : W64) (count : Nat) (f : Oper → Oper) : State :=
  let s := tWith (f (tOper 0x20 [w])) fun l => { l with scoreboard := [.empty, .filling 1 false, .empty, .empty] }
  { s with die := { s.die with mem := s.die.mem.writeBytes 0x220000 (toBytes 8 count) } }
theorem wit_recipe : (∀ k ∈ List.range 10, let w := tWord k 1 2 1 1; let s := tRecipe w 1 id
      (liveOper s).isSome = true ∧ (tOper 0x20 [w]).recipe[(tOper 0x20 [w]).pos]? = some w ∧ (w.extractLsb' 60 4).toNat = k
        ∧ w.extractLsb' 54 2 = 1)
    ∧ (tWord 0 0 2 0 5).extractLsb' 54 2 = 0 ∧ (tWord 0 0 2 0 5).extractLsb' 0 32 ≠ 0 ∧ (tWord 2 2 2 0 5).extractLsb' 54 2 = 2
    ∧ (tLaunch []).prog.kernels[0]? = some ⟨0x100000, 0x101000, 0x100000, 2, false, []⟩ ∧ (tLaunch []).prog.kernels[1]? = none
    ∧ tasksEnded (tRecipe 0 1 id) 0 (tOper 0x20 []) = true ∧ tasksEnded (tRecipe 0 2 id) 0 (tOper 0x20 []) = false
    ∧ tensorAt (tLaunch []) ((attrN (tOper 0x20 []).bc 0).extractLsb' 0 16) = none
    ∧ seqWritable (tRecipe 0 1 id) 0 0x220000 128 = true := by decide +kernel
theorem wit_emit : (let w := tWord 3 0 2 1 0; let s := tRecipe w 1 id; let k : Kernel := ⟨0x100000, 0x101000, 0x100000, 2, false, []⟩
      let l := tLaunch []
      (tOper 0x20 [w]).op ≠ 0x36 ∧ fifoFull s (recPrio (emitRec s l (tOper 0x20 [w]) w k)) = false
        ∧ fifoFull (tQueued (List.replicate 1024 (emitRec s l (tOper 0x20 [w]) w k)) s) (recPrio (emitRec s l (tOper 0x20 [w]) w k)) = true) := by
  decide +kernel
theorem wit_sigh : (let o := { tOper 0x20 [] with writes := [1], bc := ⟨0, 1, 1, false, false, false, [1, 8]⟩ }; let l := tLaunch []
      tensorAt l ((attrN o.bc 1).extractLsb' 0 16) = some (tTen 0 (some (0x200100, 16)) 1) ∧ (tTen 0 (some (0x200100, 16)) 1).entry ∈ o.writes
        ∧ ([.empty, .filling 1 false, .empty, .empty] : List Hold)[1]? = some (.filling 1 false))
    ∧ (let o := { tOper 0x20 [] with temps := [(3, 64)] }; ∃ x ∈ o.temps, x.1 = o.q.getD 2 0) := by decide +kernel
theorem wit_allocr : ∃ va l', wsAlloc (roundUp 1 (2 ^ 16)) 64 (tLaunch []) = some (va, l') :=
  let ⟨va, l', h, _⟩ := wit_room _ _ rfl rfl (by decide +kernel) (by decide)
  ⟨va, l', h⟩
/-- A program whose memory is that of agent 1, and the lines the sequencer may write there. -/
def tAway (o : Oper) : State := tWith o fun l => { l with prog := { l.prog with off := 0x400000000000 } }
theorem wit_awayAgent (x : Nat) (h : x < 2 ^ 45) : iaAgent (lineIa (lineOf (BitVec.ofNat 56 (2 ^ 46 + x)))) = 1 := by
  apply BitVec.eq_of_toNat_eq
  simp only [iaAgent, lineIa, lineOf, BitVec.extractLsb'_toNat, BitVec.toNat_append, BitVec.toNat_ofNat, Nat.shiftRight_eq_div_pow,
    Nat.shiftLeft_eq]
  simp
  omega
theorem wit_awayIa (va : W64) (i : Nat) (h : va.toNat < 2 ^ 40) (hi : i < 2 ^ 40) :
    (seqIa 0x400000000000 va + i) % 2 ^ 56 = 2 ^ 46 + (va.toNat + i) := by
  have hz : (0x400000000000 : W64).toNat = 2 ^ 46 := by decide
  unfold seqIa
  rw [BitVec.toNat_add, hz]
  omega
theorem wit_awayWritable (s : State) (va : W64) (n : Nat) (hs : s.core.agent = 0) (hr : s.die.coh.requests = []) (h : va.toNat < 2 ^ 40) (hn : n < 2 ^ 40) :
    seqWritable s 0x400000000000 va n = true := by
  unfold seqWritable engAllWritable
  refine List.all_eq_true.mpr fun l hl => ?_
  unfold linesOf at hl
  obtain ⟨a, ha, rfl⟩ := List.mem_map.mp (List.mem_eraseDups.mp hl)
  obtain ⟨i, hi, rfl⟩ := List.mem_map.mp ha
  have hi := List.mem_range.mp hi
  have hb : va.toNat + i < 2 ^ 45 := by omega
  have hl : isLocal s (lineIa (lineOf (BitVec.ofNat 56 ((seqIa 0x400000000000 va + i) % 2 ^ 56)))) = false := by
    unfold isLocal
    rw [wit_awayIa va i h (by omega), wit_awayAgent _ hb, hs]
    exact beq_eq_false_iff_ne.mpr (by decide)
  unfold engWritable requestOf
  rw [hl, hr]
  simp
theorem wit_collr : let o := tOper 0x34 [tWord 8 1 2 1 1]; let s := tA (fun a => { a with b := true }) (tAway o)
    ∃ l desc l', liveOper s = some (l, o) ∧ l.opers = [o] ∧ o.recipe[o.pos]? = some (tWord 8 1 2 1 1) ∧ l.ended = false
      ∧ wsAlloc 64 64 l = some (desc, l') ∧ seqWritable s l.prog.off desc 64 = true ∧ seqWritable s l.prog.off o.block 128 = true
      ∧ (planFor s o).arrange = none := by
  intro o s
  obtain ⟨va, l', h, hv⟩ := wit_room { tLaunch [] with opers := [o], prog := { tProg [] with off := 0x400000000000 } } 64 rfl rfl (by decide +kernel) (by decide)
  exact ⟨_, va, l', rfl, rfl, rfl, rfl, h, wit_awayWritable _ _ _ rfl rfl hv (by decide), wit_awayWritable _ _ _ rfl rfl (by decide) (by decide), rfl⟩

/-- DispatcherSteps: a record of a program that R331 has stopped. -/
theorem wit_haltedRec : haltedRec (upSeq (fun q => { q with programs := [tProg []], halted := [0x210000] }) (tRecArg tTask)) tTask = true := by decide +kernel
/-- SequencerSteps: a program to start, one that runs, reports, causes that are raised, notices, and an image without its magic. -/
def tLoaded : State := upSeq (fun q => { q with programs := [tProg []], sqimg := 0x210000 }) tRun
def tReport (cause : BitVec 8) : Report := ⟨24, 0x20, cause, 1, 5, 6⟩
def tRaisedS (cause : BitVec 8) (n : Nat) : State := upSeq (fun q => { q with
  raised := [(tReport cause, 0)], reports := List.replicate n (tReport 4) }) (tSeqS (tLaunch []))
theorem wit_program : (tLoaded.die.seq.busy = false ∧ (tLoaded.die.seq.programs.find? fun p => p.image == tLoaded.die.seq.sqimg) = some (tProg [])
      ∧ tRun.die.seq.run = none ∧ (tReport 4).cause ≠ 7 ∧ (tReport 7).cause = 7)
    ∧ ((tSeqS (tLaunch [])).die.seq.busy = true ∧ (tSeqS (tLaunch [])).die.seq.run = some (tLaunch [])
      ∧ (tLaunch []).opers = [] ∧ (tLaunch []).ended = false)
    ∧ ∀ c : BitVec 8, (tRaisedS c 15).die.seq.raised = [(tReport c, 0)] ∧ (tRaisedS c 15).die.seq.run = some (tLaunch [])
      ∧ (tRaisedS c 15).die.seq.reports.length = 15 ∧ (tRaisedS c 16).die.seq.reports.length = 16 :=
  ⟨by decide +kernel, ⟨rfl, rfl, rfl, rfl⟩, fun _ => ⟨rfl, rfl, rfl, rfl⟩⟩
def tDoneO : Oper := { tOper 0x20 [] with reads := [], writes := [1] }
def tNoticed : State := upSeq (fun q => { q with notices := [0x220000] }) (tWith tDoneO fun l => { l with
  scoreboard := [.empty, .filling 1 false, .empty, .empty], wsUsed := [(0x220000, 128), (0x220080, 64), (0x230000, 64)] })
theorem wit_notice : (tNoticed.die.seq.run.map fun l => (l.opers, l.ended, l.scoreboard[1]?)) = some ([tDoneO], false, some (.filling 1 false))
    ∧ tDoneO.issued = true ∧ tNoticed.die.seq.notices = [tDoneO.block] ∧ tDoneO.reads = [] ∧ tDoneO.writes = [1] ∧ tDoneO.badIndex = false
    ∧ (tA (fun a => { a with bytes := [0, 0, 0, 0] }) tRun).arg.bytes.take 4 ≠ [0x56, 0x53, 0x59, 0x4E] := by decide +kernel

/-! ## Links, bring-up and power (R362 to R382) -/

/-- A flit with its CRC, from agent 4, and ports that can take it: port 3 leads to chip 2, the die-to-die link to agent 1. -/
def tFlit (dst : BitVec 10) (ttl : BitVec 4) (f : Flit → Flit) : Flit :=
  let g := f { vc := 1, kind := 0, seq := 0, ack := 4095, dst := dst, src := 4, ttl := ttl, units := 1, crc := 0, payload := fullPayload [1, 2, 3] }
  { g with crc := flitCrc g }
def tPort : Port := ⟨true, false, 7, 0, [], 0, Vector.replicate 8 none, Vector.replicate 8 0, 0, [], [], 0⟩
def tLink (p : Port) (f : Flit) : State :=
  tA (fun a => { a with n := 3, flit := f }) ((setPort 5 p (setPort 3 p tRun)).upDie fun d => { d with
    links := { d.links with routes := [(2, 0x8000000000000505)] } })
/-- LinkSteps: flits that leave, damaged and doubled ones, reserved codes, the flit that is expected, for this agent and for another chip. -/
theorem wit_flitSend : (tFlit 4 3 id).kind = 0 ∧ (tFlit 4 3 id).vc.toNat < 5 ∧ (tFlit 4 3 id).dst ≠ (tLink tPort (tFlit 4 3 id)).core.agent
    ∧ (tFlit 4 3 id).ttl ≠ 0 ∧ portTo (tLink tPort (tFlit 4 3 id)) 4 1 = some 5 ∧ portAt (tLink tPort (tFlit 4 3 id)) 5 = some tPort
    ∧ tPort.up = true ∧ tPort.training = false ∧ tPort.replay.length < 2048 ∧ paced tPort 1 0 = true
    ∧ ({ tPort with replay := List.replicate 2048 (tFlit 4 3 id) }).replay.length = 2048 ∧ tPort.resend = 0 ∧ (∀ h ∈ tPort.held, h.vc ≠ 1)
    ∧ portAt (tLink { tPort with replay := List.replicate 2048 (tFlit 4 3 id) } (tFlit 4 3 id)) 5 = some { tPort with replay := List.replicate 2048 (tFlit 4 3 id) } := by
  decide +kernel
/-- A port that holds a flit back, with room for it, and a VC whose rate is 0. -/
def tHolding : Port := { tPort with held := [tFlit 4 3 id] }
theorem wit_sendHeld : (let s := tA (fun a => { a with b := true, m := 1, k := 1 }) (tLink tHolding (tFlit 4 3 id))
      s.arg.b = true ∧ s.arg.m = 1 ∧ portAt s s.arg.n = some tHolding ∧ (tHolding.held.find? fun f => f.vc == BitVec.ofNat 3 s.arg.k) = some (tFlit 4 3 id)
        ∧ tHolding.up = true ∧ tHolding.training = false ∧ tHolding.resend = 0 ∧ tHolding.replay.length < 2048
        ∧ paced tHolding (BitVec.ofNat 3 s.arg.k) s.cycle = true)
    ∧ (let p := { tPort with rates := Vector.replicate 8 (some 0) }; paced p 1 0 = false ∧ p.up = true) := by decide +kernel
theorem wit_flitReceive : portAt (tLink tPort (tFlit 0 3 id)) 3 = some tPort ∧ flitWhole { tFlit 0 3 id with crc := 0 } = false
    ∧ (let f := tFlit 0 3 fun f => { f with seq := 4095 }; flitWhole f = true ∧ f.seq ≠ tPort.expSeq ∧ (tPort.expSeq - 1 - f.seq).toNat < 2048)
    ∧ (let f := tFlit 0 3 fun f => { f with vc := 5 }; flitWhole f = true ∧ 5 ≤ f.vc.toNat)
    ∧ (let f := tFlit 0 3 fun f => { f with kind := 3 }; flitWhole f = true ∧ f.kind = 3)
    ∧ (let f := tFlit 0 3 id; flitWhole f = true ∧ f.kind = 0 ∧ f.vc.toNat < 5 ∧ f.seq = tPort.expSeq ∧ (tLink tPort f).arg.b = false
        ∧ chipOf f.dst = chipOf (tLink tPort f).core.agent ∧ occupancy tPort f.vc < 512
        ∧ 512 ≤ occupancy { tPort with queue := List.replicate 512 f } f.vc)
    ∧ (∀ ttl ∈ [(1 : BitVec 4), 2], let f := tFlit 4 ttl id
       flitWhole f = true ∧ f.kind = 0 ∧ f.vc.toNat < 5 ∧ f.seq = tPort.expSeq ∧ chipOf f.dst ≠ chipOf (tLink tPort f).core.agent
        ∧ f.ttl = ttl) := by decide +kernel
/-- LinkSteps: flits that a port holds, for this agent and for another chip. -/
def tHolds (dst : BitVec 10) : State :=
  tA (fun a => { a with b := true, n := 3, k := 1 }) (setPort 3 { tPort with queue := [tFlit dst 3 id] } (tLink tPort (tFlit 4 3 id)))
theorem wit_flitPasses : (∀ d ∈ [(0 : BitVec 10), 4], (tHolds d).arg.b = true ∧ (tHolds d).arg.m = 0
      ∧ portAt (tHolds d) (tHolds d).arg.n = some { tPort with queue := [tFlit d 3 id] }
      ∧ ([tFlit d 3 id].find? fun f => f.vc == BitVec.ofNat 3 (tHolds d).arg.k) = some (tFlit d 3 id))
    ∧ (tFlit 0 3 id).dst = (tHolds 0).core.agent ∧ chipOf (tFlit 4 3 id).dst ≠ chipOf (tHolds 4).core.agent
    ∧ routePort (tHolds 4) (chipOf (tFlit 4 3 id).dst) (tFlit 4 3 id).vc = some 5 ∧ (5 : Nat) ≠ (tHolds 4).arg.n
    ∧ portAt (tHolds 4) 5 = some tPort ∧ paced tPort (tFlit 4 3 id).vc (tHolds 4).cycle = true := by decide +kernel
def tTraining : Port := { tPort with training := true, replay := [tFlit 4 3 fun f => { f with seq := 6 }] }
def tNaks (n : Nat) : Port := { tTraining with training := false, naks := n }
theorem wit_nak : (∀ n ∈ [14, 15], portAt (tLink (tNaks n) (tFlit 4 3 id)) 3 = some (tNaks n) ∧ (tNaks n).up = true ∧ (tNaks n).training = false
      ∧ (takeAck (BitVec.ofNat 12 6 - 1) (tNaks n)).naks = n)
    ∧ tTraining.training = true ∧ portAt (tLink tTraining (tFlit 4 3 id)) 3 = some tTraining := by decide +kernel
theorem wit_rate : (let f := tFlit 0 0 fun f => { f with kind := 1, payload := fullPayload [1, 0, 2, 0, 3, 0, 4, 0, 5, 0] }; f.kind = 1 ∧ flitWhole f = true ∧ f.vc.toNat < 5 ∧ f.units ≠ 0)
    ∧ (let f := tFlit 0 0 fun f => { f with kind := 1, vc := 5 }; flitWhole f = true ∧ 5 ≤ f.vc.toNat) := by decide +kernel
def tGroupArg : State := tLines <| tA (fun a => { a with n := 2, x := 0x8000000200000000, y := 0x200040 }) (tRun.upDie fun d => { d with
  mem := d.mem.writeBytes 0x200040 [0, 0, 5, 0] })
theorem wit_groupWrite : tGroupArg.arg.b = false ∧ tGroupArg.arg.n < 256 ∧ tGroupArg.die.coll.deferred = []
    ∧ engMissing tGroupArg 0 0 (listIas tGroupArg.arg.x tGroupArg.arg.y) = [] ∧ entryUsed tGroupArg tGroupArg.arg.n = false
    ∧ engBad tGroupArg (listIas tGroupArg.arg.x tGroupArg.arg.y) = false
    ∧ entryUsed (upColls (fun e => { e with colls := [tReading] }) tGroupArg) tGroupArg.arg.n = true := by decide +kernel
def tBar0 (n : Nat) (w : Option W64) : State := tA (fun a => { a with n := n, write := w }) tRun
theorem wit_bar : (tBar0 0 none).arg.n = 0 ∧ (tBar0 0 none).arg.write = none ∧ (tBar0 0x1000 none).arg.n = 0x1000
    ∧ 0x8000 ≤ (tBar0 0x8008 (some 7)).arg.n ∧ (tBar0 0x8008 (some 7)).arg.n < 0x9000 ∧ (tBar0 0x8008 (some 7)).arg.write = some 7
    ∧ 2 ^ 20 < (tBar0 (2 ^ 20 - 7) none).arg.n + 8 := by decide +kernel
/-- BootAndPowerSteps: resets that succeed and that fail, a usable MENTRY and none, a nonce, arrays at rest and waking, registers. A body
of one byte with its signature under the key whose private number is 1, and fuses that hold that key's hash. -/
def tRootKey : Nat × Nat := p384g.getD (0, 0)
def tSigned : List Byte := [1] ++ (toBytes 48 (0xaa87ca22be8b05378eb1c71ef320ad746e1d3b628ba79b9859f741e082542a385502f25dbf55296c3a545e3872760ab7)).reverse
  ++ (toBytes 48 (0x37b4b2a0458065073a28d1236e29bb16a08e3582f3da7b8310a088ce8d621bda97c608ceeb62d70c5acb5dbb122e231c)).reverse
theorem wit_signed : ecdsaVerify tRootKey (sha384 (signedBody tSigned)) (tSigned.drop (tSigned.length - 96)) = true := by decide +kernel
def tBoot (n : Nat) (fail : Option (Nat × Nat × Nat)) : State := tA (fun a => { a with
  fail := fail, x := 0x4003, images := List.replicate n tSigned, keys := List.replicate n tRootKey }) (upBoot (fun b => { b with
    fuses := sha384 (pubBytes tRootKey) }) tRun)
theorem wit_accepted (k : Nat) : imageSigned (sha384 (pubBytes tRootKey)) tRootKey k tSigned = true := by
  unfold imageSigned
  rw [wit_signed, beq_self_eq_true]
  rfl
theorem wit_measured (b : Boot) (f : Option (Nat × Nat × Nat)) (h : b.fuses = sha384 (pubBytes tRootKey)) :
    (measureStages 4 (tBoot 4 f).arg.images (tBoot 4 f).arg.keys b).2 = none := by
  have hr : List.range (min 4 4) = [0, 1, 2, 3] := rfl
  have hi : ∀ k : Nat, k < 4 → (tBoot 4 f).arg.images[k]? = some tSigned := by
    intro k h
    match k, h with
    | 0, _ => rfl
    | 1, _ => rfl
    | 2, _ => rfl
    | 3, _ => rfl
  have hk : ∀ k : Nat, k < 4 → (tBoot 4 f).arg.keys.getD k (0, 0) = tRootKey := by
    intro k h
    match k, h with
    | 0, _ => rfl
    | 1, _ => rfl
    | 2, _ => rfl
    | 3, _ => rfl
  unfold measureStages
  rw [hr]
  simp only [List.foldl, hi 0 (by decide), hi 1 (by decide), hi 2 (by decide), hi 3 (by decide), h, hk 0 (by decide), hk 1 (by decide),
    hk 2 (by decide), hk 3 (by decide), wit_accepted, if_true]
theorem wit_boot : (tBoot 4 none).arg.fail = none ∧ (tBoot 4 (some (3, 4, 5))).arg.fail = some (3, 4, 5) ∧ (tBoot 4 none).arg.nats = []
    ∧ (tBoot 4 none).arg.nats.contains (tBoot 4 none).core.cid.toNat = false ∧ (tBoot 4 none).die.boot.fuses = sha384 (pubBytes tRootKey)
    ∧ (measureStages 4 (tBoot 0 none).arg.images (tBoot 0 none).arg.keys (tBoot 0 none).die.boot).2 = some 0
    ∧ (measureStages (stagesBy 0) (tBoot 0 (some (0, 4, 5))).arg.images (tBoot 0 none).arg.keys (tBoot 0 none).die.boot).2 = none :=
  ⟨rfl, rfl, rfl, rfl, rfl, rfl, rfl⟩
theorem wit_resetToZero : tRun.arg.b = false ∧ mentryOk tRun.core.sys.mentry = true ∧ mentryOk tNoEntry.core.sys.mentry = false
    ∧ (tA (fun a => { a with bytes := List.replicate 48 7 }) tRun).arg.bytes.length = 48 := by decide +kernel
def tRested : State := { tRun with cycle := 65536 }
def tAged (n : Nat) : State := { tMxQ with cycle := n }
def tAsking (n : Nat) : State := upBoot (fun b => { b with gated := [0, 9], waking := [9] }) (tAged n)
theorem wit_power : tRun.core.mxRun = none ∧ tRun.core.mxQueue = [] ∧ tRun.cycle < tRun.die.boot.arraySince + 65536
    ∧ tRested.die.boot.arraySince + 65536 ≤ tRested.cycle ∧ tRested.core.mxRun = none ∧ tRested.core.mxQueue = [] ∧ (tAsking 8399).cycle < (tAsking 8399).die.boot.wakeSince + 8400
    ∧ (tAsking 8400).die.boot.wakeSince + 8400 ≤ (tAsking 8400).cycle ∧ (∃ k ∈ arraysAsking (tAsking 8400), k.toNat % 8 = (tAsking 8400).arg.n % 8)
    ∧ ∃ j ∈ (tAsking 8400).die.boot.gated, j.toNat % 8 ≠ (tAsking 8400).arg.n % 8 := by decide +kernel
def tReg (r : MgmtReg) (x : W64) : State := tA (fun a => { a with reg := r, x := x }) tGrot
theorem wit_registers : (∀ r ∈ [MgmtReg.mkdat 3, .htbase, .hpctl, .sqimg, .sqctl, .tqroute 2, .grarena], (tReg r 5).arg.reg = r)
    ∧ (tReg (.mkdat 3) 5).die.keys.busy = false
    ∧ (let s := tRestart [tSeq]; s.die.grotto.seqs ≠ []) := by decide +kernel

/-! ## Encodings and the machine (R142 to R158, R335, R375, R405) -/

/-- EncodeDecodeRoundTrip: well-formed instructions with a bundle, and one without. -/
theorem wit_encode : (∀ i ∈ [Instr.add ⟨.s0, gT, 6, 6, .imm 1⟩, .nop 11, .bra ⟨gF, 0x7FD⟩], i.wf = true ∧ (slotOf i).isSome = true
      ∧ (encodeSolo i).isSome = true) ∧ Instr.bundleIssue.wf = true ∧ slotOf .bundleIssue = none := by decide +kernel
/-- StepKeepsInv: reset is such a state, and it takes a step. -/
theorem wit_inv : Inv State.reset ∧ ∃ t, step { State.reset with inputs := [(.timerExpiry, EventArg.blank)] } = .next t :=
  ⟨⟨rfl, rfl⟩, _, rfl⟩

/-- Monitor code in the first bytes of the own agent's memory; the same stream in another agent's memory; a task's stream there. -/
def tCodeAt (ws : List W32) : State := placeCode ws State.reset
def tFarStream : State := tMon.upCore fun c => { c with mstream := ⟨0x400000000000, 0x400000000004, 0x400000000008, 0, none, none, none⟩ }
def tFarTask : State := (tRun.upSys fun y => { y with win := tWin.set 2 0x400000000000 }).upDie fun d => { d with
  links := { d.links with configured := [1] } }
def tNoCode : State := tRun.upCore fun c => { c with pcq := ⟨0, 4, 8, 0, none, none, none⟩ }
def tAnnulled : State := (tCodeAt [0x02000001, 0x0200C303]).upCore fun c => { c with mstream := { c.mstream with annul := 1 } }
def tOne : List W32 := [0x02000001, 0x0200C303]
def tTwo : List W32 := [0x03000003, 0x0200C303, 0x0200C303]
def tBadHeader : List W32 := [0x03000001, 0x0200C303]
def tBadWord : List W32 := [0x02000001, 0xFE00C303]
/-- What the core is doing lets a bundle issue. -/
def Issues (s : State) : Prop := s.core.run = .running ∧ boundary s = none ∧ s.die.boot.powerStage ≠ 3
/-- StepRunsDecoded: each way in which a step begins. -/
theorem wit_stepBegins : isStep .timerExpiry = true ∧ isStep (.nop 0) = false ∧ (upBoot (fun b => { b with safe := true }) tRun).inputs = []
    ∧ (upBoot (fun b => { b with safe := true }) tRun).die.boot.safe = true ∧ tRun.inputs = [] ∧ tRun.die.boot.safe = false
    ∧ due tRun = none ∧ (due { tRun with core := { tRun.core with mon := true, mEnd := .eret } }).isSome = true
    ∧ tRun.core.posr ≠ some none ∧ (tRun.upCore fun c => { c with posr := some none }).core.posr = some none := by
  decide +kernel
/-- StepRunsDecoded: no link value is due in these states; the matrix unit ends its instruction, or starts one. -/
theorem wit_noLink : (∀ ws, formLink (tCodeAt ws) = tCodeAt ws) ∧ formLink tAnnulled = tAnnulled ∧ formLink tNoCode = tNoCode
    ∧ formLink tFarStream = tFarStream ∧ formLink tFarTask = tFarTask ∧ (tCodeAt tOne).core.linkDue = none :=
  ⟨fun _ => rfl, rfl, rfl, rfl, rfl, rfl⟩
theorem wit_matrixDue : (tMxR true).core.mxRun = some (tMxE (.zero false) true) ∧ (tMxR true).core.mxLeft = 0 ∧ tMxQ.core.mxRun = none
    ∧ tMxQ.core.mxQueue ≠ [] ∧ BitVec.ofNat 9 (packageCore tMxQ) ∉ tMxQ.die.boot.gated ∧ matrixDue tRun = none
    ∧ Instr.hostBarAccess ∈ [Instr.coldReset, .hostBarAccess, .attestationQuote] ∧ isStep .hostBarAccess = true
    ∧ Instr.timerExpiry ∉ [Instr.coldReset, .hostBarAccess, .attestationQuote] := by decide +kernel
/-- StepRunsDecoded: one instruction, several, a header and a word that do not decode, and an annulled bundle. -/
theorem wit_got : Issues (tCodeAt tOne) ∧ (stream (tCodeAt tOne)).annul.getLsbD 0 = false ∧ issueLook (tCodeAt tOne) = .got tOne
    ∧ decodeBundle (tOne.headD 0) tOne.tail = .ok [.add ⟨.s0, gT, 6, 6, .imm 1⟩] ∧ (issueOf (.add ⟨.s0, gT, 6, 6, .imm 1⟩)).isSome = true :=
  ⟨⟨rfl, rfl, by decide⟩, rfl, by decide +kernel, by decide +kernel, by decide +kernel⟩
theorem wit_gotTwo : Issues (tCodeAt tTwo) ∧ issueLook (tCodeAt tTwo) = .got tTwo
    ∧ decodeBundle (tTwo.headD 0) tTwo.tail = .ok [.add ⟨.s0, gT, 6, 6, .imm 1⟩, .add ⟨.s1, gT, 6, 6, .imm 1⟩] :=
  ⟨⟨rfl, rfl, by decide⟩, by decide +kernel, by decide +kernel⟩
theorem wit_gotBad : Issues (tCodeAt tBadHeader) ∧ Issues (tCodeAt tBadWord)
    ∧ issueLook (tCodeAt tBadHeader) = .got (tBadHeader.take 1) ∧ decodeBundle (tBadHeader.headD 0) [] = .illegalBundle
    ∧ issueLook (tCodeAt tBadWord) = .got tBadWord ∧ decodeBundle (tBadWord.headD 0) tBadWord.tail = .illegalOp 1 :=
  ⟨⟨rfl, rfl, by decide⟩, ⟨rfl, rfl, by decide⟩, by decide +kernel, by decide +kernel, by decide +kernel, by decide +kernel⟩
theorem wit_annulled : Issues tAnnulled ∧ (stream tAnnulled).annul.getLsbD 0 = true ∧ issueLook tAnnulled = .got [0x02000001] :=
  ⟨⟨rfl, rfl, by decide⟩, rfl, by decide +kernel⟩
/-- StepRunsDecoded: a fetch outside every window, one that waits for a line and one that asks a home; a core that does not run. -/
theorem wit_notGot : (Issues tNoCode ∧ issueLook tNoCode = .fault .range 0) ∧ (Issues tFarStream ∧ issueLook tFarStream = .line 0x10000000000 false)
    ∧ (Issues tFarTask ∧ issueLook tFarTask = .probe 0x400000100000) ∧ State.reset.core.run ≠ .running
    ∧ isNext (stream (tCodeAt tOne)).q1 = true ∧ isNext (stream tRun).q1 = false :=
  ⟨⟨⟨rfl, rfl, by decide⟩, by decide +kernel⟩, ⟨⟨rfl, rfl, by decide⟩, by decide +kernel⟩, ⟨⟨rfl, rfl, by decide⟩, by decide +kernel⟩,
    by decide, by decide, by decide⟩

/-- ResultsLandAndFrame: a syllable whose effects are results and a transfer alone, results that land at once and later, of each kind. -/
theorem wit_lands : Settled tRun ∧ Settled tMon ∧ (soloAct (.add ⟨.s0, gT, 6, 6, .imm 1⟩)).early = id ∧ tMon.core.mon = true
    ∧ tRun.core.mon = false ∧ (pendS 6 7 1 0 0).left = 0 ∧ (pendS 6 7 4 0 0).left ≠ 0 ∧ (pendS 6 7 1 0 0).dst = .s 6 ∧ (pendS 6 7 1 0 0).dst ≠ .ka := by
  exact ⟨wit_settled.1, wit_settled.2, rfl, rfl, rfl, rfl, by decide, rfl, by decide⟩
def tPend (left a : Nat) (v : W1024) : Pend := ⟨.s 5, v, lowMask 8, left, a, 0, 1⟩
def tLanding (ps : List Pend) : State := tRun.upCore fun c => { c with pipe := ps }
/-- ResultsLandAndFrame: a result that lands with the next bundle, one that does not, and two that land together, in either order. -/
theorem wit_inFlight : (∀ ps ∈ [[tPend 1 3 9], [tPend 2 3 9], [tPend 1 0 8, tPend 1 1 9], [tPend 1 1 9, tPend 1 0 8]],
      let s := tLanding ps
      s.core.run = .running ∧ boundary s = none ∧ (stream s).annul.getLsbD 0 = false ∧ s.core.accs = [] ∧ s.core.prefs = []
        ∧ s.core.pipe = ps ∧ (dbgOn s && !s.core.mon) = false) ∧ (5 : BitVec 6) ≠ 0 := by decide +kernel

/-! ## One step each, against values of the spec -/

def tAfter (i : Instr) (s : State) : State := match exec i s with | .next t => t | _ => s
/-- R255: sums are mod 2^64; a quotient by zero is all ones and the signed minimum by -1 is the minimum; a shift by 64 or more. -/
theorem test_add_wraps : readS (tAfter (.add ⟨.s0, gT, 6, 1, .imm 2⟩) (tS 1 0xFFFFFFFFFFFFFFFF tRun)) 6 = 1 := by decide +kernel
theorem test_movh : readS (tAfter (.movh ⟨.s0, gT, 5, 5, .ext 0x1234⟩) (tS 5 0x56789ABC tRun)) 5 = 0x0000123456789ABC := by decide +kernel
theorem test_div_by_zero : (tAfter (.div ⟨.s0, gT, 6, 1, .imm 0⟩) tRun).core.pipe.map (·.val) = [0xFFFFFFFFFFFFFFFF] := by decide +kernel
theorem test_div_minimum : (tAfter (.div ⟨.s0, gT, 6, 1, .ext 0xFFFFFFFF⟩) (tS 1 0x8000000000000000 tRun)).core.pipe.map (·.val)
    = [0x8000000000000000] := by decide +kernel
theorem test_sra : readS (tAfter (.sra ⟨.s0, gT, 6, 1, .ext 64⟩) (tS 1 0x8000000000000000 tRun)) 6 = 0xFFFFFFFFFFFFFFFF := by decide +kernel
theorem test_clz_of_zero : readS (tAfter (.clz ⟨.s0, gT, 6, 1⟩) tRun) 6 = 64 := by decide +kernel
/-- R256: a compare writes all 128 bits; R136: a write of s0 is discarded. -/
theorem test_cmp : readP (tAfter (.cmpeq ⟨.s0, gT, 1, 1, .imm 0⟩) tRun) 1 = BitVec.allOnes 128 := by decide +kernel
theorem test_s0 : readS (tAfter (.add ⟨.s0, gT, 0, 1, .imm 2⟩) tRun) 0 = 0 := by decide +kernel
/-- R29 and R33: the worked example of the chapter on translation. -/
theorem test_window : windowCheck (((Vector.replicate 24 0).set 6 0x1200000000).set 7 0x13FFFF0013 |>.set 8 0x1402E00000000)
    0x1234567880 0x1234567887 .w = some (0x1404034567880, 2) := by decide +kernel
theorem test_homeSlice : homeSlice 0x1404034567880 = 13 := by decide +kernel
/-- R13 and R72: the worked examples of the chapters on memory and on storage. -/
theorem test_hbm : hbmPc 0x100000100 = 257 ∧ hbmOffset 0x100000100 = 0xAAAA00 ∧ hbmBank 0x100000100 = 10 ∧ hbmRow 0x100000100 = 682 := by
  decide +kernel
theorem test_granules : (allocRuns (tRun.upCore fun c => { c with granules := Vector.ofFn fun i : Fin 64 =>
      if i.val < 10 ∨ (14 ≤ i.val ∧ i.val < 20) then Granule.held else .free }) 20) = some [(10, 4), (20, 16)]
    ∧ spwOfRuns 0 [(10, 4), (20, 16)] = [0x80000000000A0004, 0x8000000004140010] := by decide +kernel
/-- R128: the worked example of the chapter on number formats at budget 0; R130: VEXP2 of 0.5 and VLOG2 of 8. -/
theorem test_mma : (mmaElem false 8 127 127 false 0
      ([0x4040, 0x3F80, 0xBF80].map fun x => (Machine.decodeF bf16 x : MVal)) ([0x3FC9, 0x2D20, 0x4090].map fun x => (Machine.decodeF bf16 x : MVal))) = (0x3E580000, fNX) := by
  decide +kernel
theorem test_exp2 : (deliver fp32 .rne (fnExp2 (Machine.decodeF fp32 0x3F000000))).1 = 0x3FB504F3 := by decide +kernel
theorem test_log2 : (deliver fp32 .rne (fnLog2 (Machine.decodeF fp32 0x41000000))).1 = 0x40400000 := by decide +kernel

end Sys2Proof.Tests
end

section
/-! PROOF. Every step keeps the canonical form of memory and scratchpad (R7, R68; O58). For each function of the model that answers a
state there is one lemma: `stores_f`, that f leaves both byte stores as they are, or `sound_f`, that f keeps them canonical. For each
syllable `actF_sound` says the same of whatever it does when its bundle issues. Obligation O58 is the last of them, `step_sound`. -/
namespace Sys2Proof.Machine

/-! ## The two byte stores and their soundness -/

/-- The byte stores of the machine: global memory, and the scratchpad of the core. -/
def stores (s : State) : Memory × Memory := (s.die.mem, s.core.spad)

/-- Both byte stores are in canonical form. -/
structure Sound (p : Memory × Memory) : Prop where
  mem : p.1.wf = true
  spad : p.2.wf = true

theorem inv_iff_sound (s : State) : Inv s ↔ Sound (stores s) := ⟨fun h => ⟨h.1, h.2⟩, fun h => ⟨h.mem, h.spad⟩⟩

theorem sound_mk (m k : Memory) : Sound (m, k) ↔ m.wf = true ∧ k.wf = true := ⟨fun h => ⟨h.mem, h.spad⟩, fun h => ⟨h.1, h.2⟩⟩

theorem die_mem (s : State) : s.die.mem = (stores s).1 := (rfl)
theorem core_spad (s : State) : s.core.spad = (stores s).2 := (rfl)

@[simp] theorem stores_mk (c : CoreSt) (d : DieSt) (i : List (Instr × EventArg)) (a : EventArg) (o : List OutMsg) (t n : Nat) :
    stores ⟨c, d, i, a, o, t, n⟩ = (d.mem, c.spad) := (rfl)
@[simp] theorem mk_stores (s : State) : (s.die.mem, s.core.spad) = stores s := (rfl)
@[simp] theorem stores_upCore {f : CoreSt → CoreSt} (hf : ∀ c, (f c).spad = c.spad) (s : State) : stores (s.upCore f) = stores s :=
  Prod.ext rfl (hf s.core)
@[simp] theorem stores_upDie {f : DieSt → DieSt} (hf : ∀ d, (f d).mem = d.mem) (s : State) : stores (s.upDie f) = stores s :=
  Prod.ext (hf s.die) rfl
@[simp] theorem stores_upRegs (f : Regs → Regs) (s : State) : stores (s.upRegs f) = stores s := (rfl)
@[simp] theorem stores_upSys (f : Sys → Sys) (s : State) : stores (s.upSys f) = stores s := (rfl)
@[simp] theorem stores_send (m : OutMsg) (s : State) : stores (s.send m) = stores s := (rfl)
@[simp] theorem stores_setMem (m : Memory) (s : State) : stores (s.setMem m) = (m, (stores s).2) := (rfl)
@[simp] theorem stores_setSpad (m : Memory) (s : State) : stores (s.setSpad m) = ((stores s).1, m) := (rfl)

@[simp] theorem stores_ite (c : Prop) [Decidable c] (s t : State) :
    stores (if c then s else t) = if c then stores s else stores t := apply_ite stores c s t

/-- A fold keeps what each of its steps keeps. -/

theorem frame_foldl {α β : Type} {f : State → α → State} {g : State → β} (hf : ∀ s a, g (f s a) = g s) (l : List α) (s : State) :
    g (l.foldl f s) = g s := by
  induction l generalizing s with
  | nil => rfl
  | cons a l ih => rw [List.foldl_cons, ih, hf]
@[simp] theorem stores_foldl {α : Type} {f : State → α → State} (hf : ∀ s a, stores (f s a) = stores s) (l : List α) (s : State) :
    stores (l.foldl f s) = stores s := frame_foldl hf l s

theorem sound_foldl {α : Type} {f : State → α → State} (hf : ∀ s a, Sound (stores s) → Sound (stores (f s a))) (l : List α) {s : State}
    (h : Sound (stores s)) : Sound (stores (l.foldl f s)) := by
  induction l generalizing s with
  | nil => exact h
  | cons a l ih => exact ih (hf s a h)

theorem Sound.setMem {s : State} {m : Memory} (h : Sound (stores s)) (hm : m.wf = true) : Sound (stores (s.setMem m)) := ⟨hm, h.spad⟩
theorem Sound.setSpad {s : State} {m : Memory} (h : Sound (stores s)) (hm : m.wf = true) : Sound (stores (s.setSpad m)) := ⟨h.mem, hm⟩

/-- The effects at commit of a syllable keep the byte stores sound. -/
def Eff.Sound (e : Eff) : Prop := ∀ s, Machine.Sound (stores s) → Machine.Sound (stores (e.post s))
/-- So does whatever a syllable answers. -/
def SylOut.Sound : SylOut → Prop
  | .stall _ f => ∀ s, Machine.Sound (stores s) → Machine.Sound (stores (f s))
  | .raise _ _ => True
  | .ok e => e.Sound
/-- And whatever a syllable does when its bundle issues. -/
structure Act.Sound (a : Act) : Prop where
  run : ∀ s, (a.run s).Sound
  early : ∀ s, Machine.Sound (stores s) → Machine.Sound (stores (a.early s))

@[simp] theorem SylOut.sound_stall (w : WaitKind) (f : State → State) :
    (SylOut.stall w f).Sound ↔ ∀ s, Machine.Sound (stores s) → Machine.Sound (stores (f s)) := Iff.rfl
@[simp] theorem SylOut.sound_raise (c : Cause) (a : W64) : (SylOut.raise c a).Sound := trivial
@[simp] theorem SylOut.sound_ok (ps : List Pend) (f : State → State) (c : Ctl) :
    (SylOut.ok ⟨ps, f, c⟩).Sound ↔ ∀ s, Machine.Sound (stores s) → Machine.Sound (stores (f s)) := Iff.rfl
@[simp] theorem SylOut.sound_now (f : State → State) :
    (SylOut.now f).Sound ↔ ∀ s, Machine.Sound (stores s) → Machine.Sound (stores (f s)) := Iff.rfl
@[simp] theorem SylOut.sound_later (ps : List Pend) : (SylOut.later ps).Sound := fun _ h => h
@[simp] theorem SylOut.sound_skip : SylOut.skip.Sound := fun _ h => h
@[simp] theorem SylOut.sound_ite (c : Prop) [Decidable c] (x y : SylOut) :
    (if c then x else y).Sound ↔ if c then x.Sound else y.Sound := by split <;> rfl

theorem SylOut.Sound.ite {c : Prop} [Decidable c] {x y : SylOut} (hx : x.Sound) (hy : y.Sound) : (if c then x else y).Sound := by
  split <;> assumption

theorem mkAct_sound {slot : Nat} {regs : List RegRef} {priv : State → Bool} {run : State → SylOut} (h : ∀ s, (run s).Sound) :
    (mkAct slot regs priv run).Sound := ⟨h, fun _ hs => hs⟩
theorem Sound.writeSpad {s : State} (h : Sound (stores s)) (a : Nat) (bs : List Byte) :
    Sound (stores (s.setSpad (s.core.spad.writeBytes a bs))) := h.setSpad (Memory.wf_writeBytes h.spad a bs)
theorem sound_ite {c : Prop} [Decidable c] {s t : State} (hs : Sound (stores s)) (ht : Sound (stores t)) :
    Sound (stores (if c then s else t)) := by split <;> assumption
theorem Sound.upCore {s : State} {f : CoreSt → CoreSt} (h : Sound (stores s)) (hf : ∀ c, (f c).spad = c.spad) :
    Sound (stores (s.upCore f)) := by rwa [stores_upCore hf]
theorem frame_ite {c : Prop} [Decidable c] {s t : State} {x : Memory × Memory} (hs : stores s = x) (ht : stores t = x) :
    stores (if c then s else t) = x := by split <;> assumption
theorem stores_foldl_snd {α β : Type} {f : β × State → α → β × State} (hf : ∀ x a, stores (f x a).2 = stores x.2) (l : List α)
    (x : β × State) : stores (l.foldl f x).2 = stores x.2 := by
  induction l generalizing x with
  | nil => rfl
  | cons a l ih => rw [List.foldl_cons, ih, hf]
theorem stores_snd {β : Type} {p : β × State} {b : β} {s : State} {x : Memory × Memory} (h : stores p.2 = x) (hp : p = (b, s)) :
    stores s = x := by subst hp; exact h

/-! ### Operations on the state (Machine/Ops) -/

@[simp] theorem stores_writeS (s r x) : stores (writeS s r x) = stores s := by simp [writeS]
@[simp] theorem stores_writeP (s r x) : stores (writeP s r x) = stores s := by simp [writeP]
@[simp] theorem stores_writeV (s r x) : stores (writeV s r x) = stores s := (rfl)
@[simp] theorem stores_writeT (s r x) : stores (writeT s r x) = stores s := (rfl)
@[simp] theorem stores_orFlags (s f) : stores (orFlags s f) = stores s := by simp [orFlags]
@[simp] theorem stores_setPend (s k due) : stores (setPend s k due) = stores s := (rfl)
@[simp] theorem stores_writeLs (s set f x) : stores (writeLs s set f x) = stores s := (rfl)
@[simp] theorem stores_landOne (s r) : stores (landOne s r) = stores s := by
  unfold landOne
  split <;> simp
@[simp] theorem stores_countCollision (s slot) : stores (countCollision s slot) = stores s := (rfl)
@[simp] theorem stores_landDue (rs s) : stores (landDue rs s) = stores s := by simp [landDue]
@[simp] theorem stores_settle (new s) : stores (settle new s) = stores s := by simp [settle]
@[simp] theorem stores_tickParked (s) : stores (tickParked s) = stores s := by simp [tickParked]
@[simp] theorem stores_tickCycle (s0) : stores (tickCycle s0) = stores s0 := by simp [tickCycle]
@[simp] theorem stores_stopCore (s addr) : stores (stopCore s addr) = stores s := (rfl)
@[simp] theorem stores_freeze (keep0 s) : stores (freeze keep0 s) = stores s := by simp [freeze]
@[simp] theorem stores_setHeld (domain on s) : stores (setHeld domain on s) = stores s := (rfl)
@[simp] theorem stores_breakGang (c s) : stores (breakGang c s) = stores s := by
  unfold breakGang
  split <;> simp
@[simp] theorem sound_takeTrap (t s) (h : Sound (stores s)) : Sound (stores (takeTrap t s)) := by
  unfold takeTrap
  split
  · simpa using h
  · extract_lets s1 s2 s3
    have h2 : Sound (stores s2) := by simpa [s2, s1] using h
    have h3 : Sound (stores s3) := h2.writeSpad _ _
    clear_value s3
    split <;> simpa using h3
@[simp] theorem stores_returnToTask (s) : stores (returnToTask s) = stores s := by simp [returnToTask]

/-! ### Lines in DRAM and the home slices (Machine/Dram) -/

@[simp] theorem stores_dramPut (pa tier2 d s) : stores (dramPut pa tier2 d s) = stores s := by
  unfold dramPut
  split <;> simp
@[simp] theorem stores_upCoh (f s) : stores (upCoh f s) = stores s := (rfl)
@[simp] theorem stores_countInt (s) : stores (countInt s) = stores s := (rfl)
@[simp] theorem stores_logError (k pa ia who cls s) : stores (logError k pa ia who cls s) = stores s := (rfl)
@[simp] theorem stores_markLasting (u s) : stores (markLasting u s) = stores s := by simp [markLasting]
@[simp] theorem stores_countWay (u way s) : stores (countWay u way s) = stores s := by simp [countWay]
@[simp] theorem stores_countUnit (u s) : stores (countUnit u s) = stores s := by simp [countUnit]
@[simp] theorem stores_countRow (pa tier2 s) : stores (countRow pa tier2 s) = stores s := by simp [countRow]
@[simp] theorem stores_uncorrectable (l pa tier2 who cls s) : stores (uncorrectable l pa tier2 who cls s) = stores s := by simp [uncorrectable]
@[simp] theorem stores_tableFix (pa s) : stores (tableFix pa s) = stores s := by
  unfold tableFix
  (repeat' split) <;> simp
@[simp] theorem sound_putTableWord (pa e s) (h : Sound (stores s)) : Sound (stores (putTableWord pa e s)) := by
  simp only [putTableWord]
  (repeat' split) <;> simp [h, h.mem, h.spad, sound_mk, die_mem, Memory.wf_writeBytes]

/-! ### Translation (Machine/Trans) -/

@[simp] theorem sound_walkIn (off remote s0) (h : Sound (stores s0)) : Sound (stores (walkIn off remote s0)) := by
  simp only [walkIn]
  (repeat' split) <;> simp [h]
@[simp] theorem sound_fillBuffer (off s) (h : Sound (stores s)) : Sound (stores (fillBuffer off s)) := by
  unfold fillBuffer
  (repeat' split) <;> simp [h]
@[simp] theorem stores_filterTouch (ia s) : stores (filterTouch ia s) = stores s := (rfl)
@[simp] theorem stores_filterInstall (s ia size rd wr ex) : stores (filterInstall s ia size rd wr ex) = stores s := (rfl)
theorem wf_spadPut {m : Memory} (hm : m.wf = true) (look : W64 → Option Nat) (a : W64) (bs : List Byte) :
    (spadPut m look a bs).wf = true := by
  induction bs generalizing m a with
  | nil => exact hm
  | cons b bs ih =>
    refine ih ?_ _
    split
    · exact Memory.wf_write hm _ b
    · exact hm

/-! ### The fetch of bundles (Machine/Fetch) -/

@[simp] theorem stores_l2Touch (toward l s) : stores (l2Touch toward l s) = stores s := by
  unfold l2Touch
  split <;> simp
@[simp] theorem stores_l2Enter (l s) : stores (l2Enter l s) = stores s := by
  simp only [l2Enter]
  (repeat' split) <;> simp
@[simp] theorem stores_l2Leave (l s) : stores (l2Leave l s) = stores s := (rfl)
@[simp] theorem stores_noteHolder (core l s) : stores (noteHolder core l s) = stores s := (rfl)
@[simp] theorem stores_icacheEnter (c s) : stores (icacheEnter c s) = stores s := by simp [icacheEnter]
@[simp] theorem stores_setStream (s q) : stores (setStream s q) = stores s := stores_upCore (fun _ => by split <;> rfl) s
@[simp] theorem stores_formed (s) : stores (formed s) = stores s := by simp [formed]
@[simp] theorem stores_fillCode (c s) : stores (fillCode c s) = stores s := by simp [fillCode]
@[simp] theorem stores_fillFetched (va n s) : stores (fillFetched va n s) = stores s := by simp [fillFetched]
@[simp] theorem stores_fillStream (before after s) : stores (fillStream before after s) = stores s := by
  unfold fillStream
  refine (stores_foldl (fun st x => ?_) _ _).trans ?_ <;> (repeat' split) <;> simp
@[simp] theorem stores_advance (ctl s) : stores (advance ctl s) = stores s := by simp [advance]

/-! ### Accesses of the core (Machine/Access) -/

@[simp] theorem stores_noteWrite (s l) : stores (noteWrite s l) = stores s := (rfl)
@[simp] theorem stores_touchL1 (l st s) : stores (touchL1 l st s) = stores s := by simp [touchL1]
@[simp] theorem stores_discard (s info l) : stores (discard s info l) = stores s := by simp [discard]
@[simp] theorem sound_storeCells (cells s) (h : Sound (stores s)) : Sound (stores (storeCells cells s)) := by
  unfold storeCells
  refine sound_foldl (fun st l h => ?_) _ h
  rw [stores_noteWrite]
  exact h.setMem (Memory.wf_writeCells h.mem _)
@[simp] theorem stores_upAwaits (f s) : stores (upAwaits f s) = stores s := (rfl)
@[simp] theorem stores_resolve (id v s) : stores (resolve id v s) = stores s := (rfl)
@[simp] theorem stores_resolvePart (id v last s) : stores (resolvePart id v last s) = stores s := (rfl)
@[simp] theorem stores_loadError (id info s) : stores (loadError id info s) = stores s := by
  unfold loadError
  split <;> simp
@[simp] theorem stores_touchAll (g s) : stores (touchAll g s) = stores s := by simp [touchAll]
@[simp] theorem stores_failAccess (info g s) : stores (failAccess info g s) = stores s := by
  unfold failAccess
  (repeat' split) <;> simp
@[simp] theorem stores_engBarrier (seq s) : stores (engBarrier seq s) = stores s := by simp [engBarrier]
@[simp] theorem sound_perform (g s) (h : Sound (stores s)) : Sound (stores (perform g s)) := by
  unfold perform
  extract_lets s0 a n old
  have h0 : Sound (stores s0) := by simpa [s0] using h
  split
  · simpa using h0
  · exact sound_storeCells _ _ h0
  next op x y id _ =>
    extract_lets s1
    have h1 : Sound (stores s1) := by
      unfold s1
      split
      · exact sound_storeCells _ _ h0
      · exact h0
    split
    · simpa using h1
    · exact h1
@[simp] theorem stores_dropAcc (g s) : stores (dropAcc g s) = stores s := (rfl)
@[simp] theorem sound_finishAcc (g s) (h : Sound (stores s)) : Sound (stores (finishAcc g s)) := by
  unfold finishAcc
  split
  · simpa using h
  · exact sound_perform _ _ (by simpa using h)
@[simp] theorem sound_performEach (gs s) (h : Sound (stores s)) : Sound (stores (performEach gs s)) := by
  induction gs generalizing s with
  | nil => exact h
  | cons g gs ih =>
    refine ih _ ?_
    split
    · exact sound_finishAcc g s h
    · exact h
@[simp] theorem stores_servePrefs (s) : stores (servePrefs s) = stores s := by simp [servePrefs]
@[simp] theorem stores_toldBad (was s) : stores (toldBad was s) = stores s := (rfl)
@[simp] theorem sound_performReady (s) (h : Sound (stores s)) : Sound (stores (performReady s)) := by
  have h2 := sound_performEach s.core.accs s h
  unfold performReady
  extract_lets bad s2 s1
  have h1 : Sound (stores s1) := by
    unfold s1
    split
    · exact h
    · split <;> simpa using h2
  split
  · exact h1
  · simpa using h1
@[simp] theorem stores_touchPages (ias s) : stores (touchPages ias s) = stores s := by simp [touchPages]
@[simp] theorem stores_pushAcc (op cells rel acq scope s org) : stores (pushAcc op cells rel acq scope s org) = stores s := by simp [pushAcc]
@[simp] theorem stores_pushAwait (a s) : stores (pushAwait a s) = stores s := (rfl)
@[simp] theorem stores_pushResult (s0 r slot v s) : stores (pushResult s0 r slot v s) = stores s := (rfl)

/-! ### Traps, results and the issue of a bundle (Machine/Pipeline) -/

@[simp] theorem Act.of_sound (a : Act) (i : Instr) : (a.of i).Sound ↔ a.Sound := ⟨fun h => ⟨h.run, h.early⟩, fun h => ⟨h.run, h.early⟩⟩
@[simp] theorem actNop_sound (slot) : (actNop slot).Sound := mkAct_sound fun s => by simp
/-- Whatever a bundle's syllables answer is sound. -/
theorem runAll_sound {acts : List Act} (ha : ∀ a ∈ acts, a.Sound) (s : State) : ∀ o ∈ runAll acts s, o.2.Sound := by
  induction acts generalizing s with
  | nil => simp [runAll]
  | cons a as ih =>
    obtain ⟨h1, h2⟩ := List.forall_mem_cons.1 ha
    exact List.forall_mem_cons.2 ⟨h1.run s, ih h2 _⟩
theorem stallsOf_sound {outs : List (Nat × SylOut)} (ho : ∀ o ∈ outs, o.2.Sound) :
    ∀ w ∈ stallsOf outs, ∀ s, Sound (stores s) → Sound (stores (w.2 s)) := by
  intro w hw
  obtain ⟨o, hm, he⟩ := List.mem_filterMap.1 hw
  have := ho o hm
  split at he
  next heq =>
    rw [heq] at this
    obtain rfl := Option.some.inj he
    exact this
  · cases he
theorem effsOf_sound {outs : List (Nat × SylOut)} (ho : ∀ o ∈ outs, o.2.Sound) : ∀ e ∈ effsOf outs, e.Sound := by
  intro e hm
  obtain ⟨o, hm, he⟩ := List.mem_filterMap.1 hm
  have := ho o hm
  split at he
  next heq =>
    rw [heq] at this
    obtain rfl := Option.some.inj he
    exact this
  · cases he
@[simp] theorem stores_holdBundle (w s) : stores (holdBundle w s) = stores s := (rfl)
@[simp] theorem stores_countBundle (s) : stores (countBundle s) = stores s := by simp [countBundle]
@[simp] theorem stores_singleStep (s) : stores (singleStep s) = stores s := by simp [singleStep]
@[simp] theorem stores_noteWords (acts before s) : stores (noteWords acts before s) = stores s := (rfl)
theorem sound_foldl_mem {α : Type} {f : State → α → State} {l : List α}
    (hf : ∀ a ∈ l, ∀ s, Sound (stores s) → Sound (stores (f s a))) {s : State} (h : Sound (stores s)) : Sound (stores (l.foldl f s)) := by
  induction l generalizing s with
  | nil => exact h
  | cons a l ih => exact ih (fun b hb => hf b (List.mem_cons_of_mem _ hb)) (hf a List.mem_cons_self s h)
theorem sound_commit {acts : List Act} {es : List Eff} (ha : ∀ a ∈ acts, a.Sound) (he : ∀ e ∈ es, e.Sound) {s : State}
    (h : Sound (stores s)) : Sound (stores (commit acts es s)) := by
  have h0 : Sound (stores (acts.foldl (fun st a => a.early st) (countBundle s))) :=
    sound_foldl_mem (f := fun st a => a.early st) (fun a hm => (ha a hm).early) (by simpa using h)
  have h1 := sound_foldl_mem (f := fun st (e : Eff) => e.post st) he h0
  simpa [commit] using h1
theorem sound_holdAll {ws : List (WaitKind × (State → State))} (hw : ∀ w ∈ ws, ∀ s, Sound (stores s) → Sound (stores (w.2 s))) {s : State}
    (h : Sound (stores s)) : Sound (stores (holdAll ws s)) := by
  unfold holdAll
  extract_lets st ws'
  have hm : ∀ w ∈ ws', w ∈ ws := by
    intro w hw'
    unfold ws' at hw'
    split at hw'
    · exact hw'
    · exact (List.mem_filter.1 hw').1
  simpa using sound_foldl_mem (f := fun st x => x.2 st) (fun w h' => hw w (hm w h')) h
@[simp] theorem stores_trimPrefs (s) : stores (trimPrefs s) = stores s := by simp [trimPrefs]
theorem sound_commitOrHold {acts : List Act} {es : List Eff} (ha : ∀ a ∈ acts, a.Sound) (he : ∀ e ∈ es, e.Sound) {s : State}
    (h : Sound (stores s)) : Sound (stores (commitOrHold acts es s)) := by
  unfold commitOrHold
  extract_lets s'
  split
  · simpa using h
  · simpa [s'] using sound_commit ha he h
theorem sound_attempt {acts : List Act} (ha : ∀ a ∈ acts, a.Sound) {s : State} (h : Sound (stores s)) : Sound (stores (attempt acts s)) := by
  unfold attempt
  extract_lets due s1 coll base outs rs ill pv ws
  have h1 : Sound (stores s1) := sound_ite h (by simpa using h)
  have hb : Sound (stores base) := sound_ite h h1
  have ho := runAll_sound ha s1
  have hw := stallsOf_sound ho
  refine sound_ite (by simpa using h) (sound_ite (sound_takeTrap _ _ hb) (sound_ite (sound_takeTrap _ _ hb)
    (sound_ite (sound_takeTrap _ _ hb) (sound_ite (by simpa using hb) (sound_ite (sound_takeTrap _ _ hb) (sound_ite (sound_holdAll hw hb)
    (sound_ite (sound_takeTrap _ _ hb) (sound_ite (sound_takeTrap _ _ h) (sound_ite ?_ (sound_ite (sound_holdAll hw h1) ?_))))))))))
  · simpa using h1
  · exact sound_commitOrHold ha (effsOf_sound ho) h1
@[simp] theorem sound_issueAnnulled (s) (h : Sound (stores s)) : Sound (stores (issueAnnulled s)) := by
  unfold issueAnnulled
  split
  · simpa using h
  · exact sound_commit (by simp) (by simp) h
@[simp] theorem sound_finishCycle (s) (h : Sound (stores s)) : Sound (stores (finishCycle s)) := by
  simpa [finishCycle] using sound_performReady s h
theorem sound_issueActs {acts : List Act} (ha : ∀ a ∈ acts, a.Sound) {s : State} (h : Sound (stores s)) : Sound (stores (issueActs acts s)) := by
  refine sound_finishCycle _ ?_
  repeat' split
  · exact h
  · exact sound_issueAnnulled s h
  · exact sound_attempt ha h

/-! ### Scalar and predicate syllables (Machine/Scalar) -/

theorem sAct_sound (slot g d refs lat f) : (sAct slot g d refs lat f).Sound := mkAct_sound fun s => by simp
theorem divAct_sound (f op) : (divAct f op).Sound := mkAct_sound fun s => by simp
theorem pAct_sound (slot g p refs f mask) : (pAct slot g p refs f mask).Sound := mkAct_sound fun s => by simp
theorem fpAct_sound (slot g d refs f) : (fpAct slot g d refs f).Sound := mkAct_sound fun s => by simp
theorem fdivAct_sound (slot g d refs f) : (fdivAct slot g d refs f).Sound := mkAct_sound fun s => by simp
theorem fcmpAct_sound (f op fl) : (fcmpAct f op fl).Sound := mkAct_sound fun s => by simp

/-! ### Vector syllables (Machine/Vector) -/

@[simp] theorem stores_countDraw (s) : stores (countDraw s) = stores s := (rfl)
theorem vAct_sound (slot refs rounds f) : (vAct slot refs rounds f).Sound :=
  ⟨fun s t h => by simp only []; split <;> simpa using h, fun _ h => h⟩
theorem actVredadd_sound (f) : (actVredadd f).Sound := by
  unfold actVredadd
  split <;> exact vAct_sound ..
@[simp] theorem stores_qAdvance (f s) : stores (qAdvance f s) = stores s := (rfl)
theorem actVcvtq_sound (f) : (actVcvtq f).Sound :=
  ⟨fun s t h => by simp only []; split <;> simpa using h, fun s h => by simpa [actVcvtq] using h⟩
theorem fAct_sound (f fn) : (fAct f fn).Sound := mkAct_sound fun s => by simp

/-! ### Scratchpad and matrix syllables (Machine/Matrix) -/

@[simp] theorem sound_mxWrite (e a bs s) (h : Sound (stores s)) : Sound (stores (mxWrite e a bs s)) :=
  (h.setSpad (Memory.wf_writeCells h.spad _)).upCore fun _ => rfl
@[simp] theorem stores_setBank (acc v s) : stores (setBank acc v s) = stores s := (rfl)
@[simp] theorem stores_setLive (acc on s) : stores (setLive acc on s) = stores s := (rfl)
theorem sound_foldl_pair {α β : Type} {f : State × β → α → State × β} (hf : ∀ x a, Sound (stores x.1) → Sound (stores (f x a).1))
    (l : List α) {x : State × β} (h : Sound (stores x.1)) : Sound (stores (l.foldl f x).1) := by
  induction l generalizing x with
  | nil => exact h
  | cons a l ih => exact ih (hf x a h)
@[simp] theorem sound_mstoreRun (e t s) (h : Sound (stores s)) : Sound (stores (mstoreRun e t s).1) :=
  sound_foldl_pair (fun x _ hx => sound_mxWrite e _ _ x.1 hx) _ h
@[simp] theorem sound_mplaneRun (e t s) (h : Sound (stores s)) : Sound (stores (mplaneRun e t s)) := sound_mxWrite e _ _ s h
@[simp] theorem sound_mxFinish (e s) (h : Sound (stores s)) : Sound (stores (mxFinish e s)) := by
  unfold mxFinish
  split
  · exact sound_ite (by simpa using h) h
  · exact sound_ite (by simpa only [stores_setLive, stores_setBank] using h) h
  · exact sound_ite (by simpa only [stores_orFlags] using sound_mstoreRun e _ s h) (sound_mstoreRun e _ s h)
  · exact sound_mplaneRun e _ s h
@[simp] theorem stores_mxPush (s syl op st) : stores (mxPush s syl op st) = stores st := (rfl)
theorem xQueueAct_sound {g illegal spans wait} {go : State → State → State} (hgo : ∀ s t, stores (go s t) = stores t) :
    (xQueueAct g illegal spans wait go).Sound := mkAct_sound fun s => by
  split
  · simp
  · split
    · simp
    · split <;> simp [hgo]
theorem mulAct_sound (f op) {after : State → State → State} (ha : ∀ s t, stores (after s t) = stores t) : (mulAct f op after).Sound :=
  xQueueAct_sound fun s t => by simp [ha]
theorem actMma_sound (f) : (actMma f).Sound := mulAct_sound _ _ fun _ _ => rfl
theorem actMmas_sound (f) : (actMmas f).Sound := mulAct_sound _ _ fun _ _ => rfl
theorem actMconv_sound (f) : (actMconv f).Sound := mulAct_sound _ _ fun _ _ => rfl
theorem actMzero_sound (f) : (actMzero f).Sound := xQueueAct_sound fun _ _ => rfl
theorem actMread_sound (f) : (actMread f).Sound := mkAct_sound fun _ =>
  .ite SylOut.sound_skip (.ite (fun _ h => h) (SylOut.sound_later _))
theorem actMwrite_sound (f) : (actMwrite f).Sound := mkAct_sound fun _ =>
  .ite SylOut.sound_skip (.ite (fun _ h => h) fun _ h => by simpa only [stores_setLive, stores_setBank] using h)
theorem actMstore_sound (f) : (actMstore f).Sound := xQueueAct_sound fun _ _ => rfl
theorem actMplane_sound (f) : (actMplane f).Sound := xQueueAct_sound fun _ _ => rfl
theorem actMsett_sound (f) : (actMsett f).Sound := mkAct_sound fun s => by simp
theorem actMfence_sound (f) : (actMfence f).Sound := mkAct_sound fun s => by simp
theorem kAct_sound (g refs f) : (kAct g refs f).Sound := mkAct_sound fun s => by simp

/-! ### System registers (Machine/SysRegs) -/

@[simp] theorem stores_setChannel (s k ch) : stores (setChannel s k ch) = stores s := (rfl)
@[simp] theorem stores_sysReadEffect (x s) : stores (sysReadEffect x s) = stores s := by simp [sysReadEffect]
@[simp] theorem stores_sysWrite (x v s) : stores (sysWrite x v s) = stores s := by simp [sysWrite]
theorem actMfs_sound (f) : (actMfs f).Sound := ⟨fun s => by simp only [actMfs, mkAct]; split <;> simp, fun _ h => h⟩
theorem actMts_sound (f) : (actMts f).Sound := mkAct_sound fun s => by simp
@[simp] theorem stores_sendProbe (ia s) : stores (sendProbe ia s) = stores s := by simp [sendProbe]
theorem actProbe_sound (f) : (actProbe f).Sound := mkAct_sound fun s => by
  split
  · extract_lets va need
    split
    · simp
    · repeat' split
      all_goals simp
  · simp

/-! ### Control syllables (Machine/Control) -/

@[simp] theorem stores_noteLink (s st) : stores (noteLink s st) = stores st := by simp [noteLink]
@[simp] theorem stores_formLink (s) : stores (formLink s) = stores s := by
  unfold formLink
  split <;> simp
theorem ctlAct_sound (refs f) : (ctlAct refs f).Sound := mkAct_sound fun s => by simp
theorem linkAct_sound (refs g target) : (linkAct refs g target).Sound := mkAct_sound fun s => by simp
@[simp] theorem stores_setBar (l b s) : stores (setBar l b s) = stores s := (rfl)
@[simp] theorem stores_barAdvance (l s) : stores (barAdvance l s) = stores s := (rfl)
@[simp] theorem stores_barAsk (l s) : stores (barAsk l s) = stores s := by simp [barAsk]
theorem barWaitAct_sound (f) : (barWaitAct f).Sound := mkAct_sound fun s => by simp
theorem actBara_sound (f) : (actBara f).Sound := mkAct_sound fun s => by simp
@[simp] theorem stores_beginEnd (k code s) : stores (beginEnd k code s) = stores s := by simp [beginEnd]
theorem endAct_sound (g refs priv) {f : State → State → State} (hf : ∀ s t, stores (f s t) = stores t) : (endAct g refs priv f).Sound :=
  mkAct_sound fun s => by simp [hf]
theorem actYield_sound (f) : (actYield f).Sound := endAct_sound _ _ _ fun _ _ => by simp
theorem actEndt_sound (f) : (actEndt f).Sound := endAct_sound _ _ _ fun _ _ => by simp
theorem actHalt_sound (f) : (actHalt f).Sound := endAct_sound _ _ _ fun _ _ => by simp
theorem actEret_sound (f) : (actEret f).Sound := endAct_sound _ _ _ fun _ _ => by simp
theorem actTrap_sound (f) : (actTrap f).Sound := mkAct_sound fun s => by simp
theorem actBkpt_sound (f) : (actBkpt f).Sound := mkAct_sound fun s => by simp
theorem actWfe_sound (f) : (actWfe f).Sound := mkAct_sound fun s => by simp
theorem actPrio_sound (f) : (actPrio f).Sound := mkAct_sound fun s => by simp

/-! ### Coherence (Machine/Coherence) -/

@[simp] theorem sound_putLine (l d s) (h : Sound (stores s)) : Sound (stores (putLine l d s)) := by
  simp [putLine, h.mem, h.spad, sound_mk, die_mem, Memory.wf_writeBytes]
@[simp] theorem stores_upHome (l f s) : stores (upHome l f s) = stores s := by simp [upHome]
@[simp] theorem stores_setTag (l st who s) : stores (setTag l st who s) = stores s := by simp [setTag]
@[simp] theorem stores_countOdd (l s) : stores (countOdd l s) = stores s := by simp [countOdd]
@[simp] theorem stores_recallL1 (l s) : stores (recallL1 l s) = stores s := (rfl)
@[simp] theorem stores_shareL1 (l s) : stores (shareL1 l s) = stores s := (rfl)
@[simp] theorem stores_setDram (l pa tier2 d s) : stores (setDram l pa tier2 d s) = stores s := by simp [setDram]
@[simp] theorem stores_addBad (l err eng s) : stores (addBad l err eng s) = stores s := (rfl)
@[simp] theorem stores_clearBad (l s) : stores (clearBad l s) = stores s := (rfl)
@[simp] theorem sound_mcRead (l flips who cls s) (h : Sound (stores s)) : Sound (stores (mcRead l flips who cls s)) := by
  simp only [mcRead]
  (repeat' split) <;> simp [h]
@[simp] theorem stores_hotSample (l s) : stores (hotSample l s) = stores s := by
  simp only [hotSample]
  (repeat' split) <;> simp
@[simp] theorem stores_mcWriteBack (l s) : stores (mcWriteBack l s) = stores s := by
  unfold mcWriteBack
  split <;> simp
@[simp] theorem sound_mcWrite (l mask d who s) (h : Sound (stores s)) : Sound (stores (mcWrite l mask d who s)) := by
  unfold mcWrite
  (repeat' split) <;> simp [h]
@[simp] theorem stores_sendCoh (op dst m s) : stores (sendCoh op dst m s) = stores s := (rfl)
@[simp] theorem stores_sendDone (t payload s) : stores (sendDone t payload s) = stores s := by simp [sendDone]
@[simp] theorem stores_sendErr (t err s) : stores (sendErr t err s) = stores s := by simp [sendErr]
@[simp] theorem stores_sendAll (f dsts s) (hf : ∀ y0 y1, stores (f y0 y1) = stores y1) : stores (sendAll f dsts s) = stores s := by simp [sendAll, hf]
@[simp] theorem stores_dropRequest (t s) : stores (dropRequest t s) = stores s := (rfl)
@[simp] theorem stores_dropPrefs (l s) : stores (dropPrefs l s) = stores s := (rfl)
@[simp] theorem sound_useOnce (l s) (h : Sound (stores s)) : Sound (stores (useOnce l s)) := by
  unfold useOnce
  extract_lets mine s1
  have h1 : Sound (stores s1) := sound_foldl (fun _ g hs => sound_perform g _ (by simpa using hs)) _ h
  simpa using h1
@[simp] theorem stores_keepUnc (t s) : stores (keepUnc t s) = stores s := by simp [keepUnc]
@[simp] theorem stores_dropUnc (chan s) : stores (dropUnc chan s) = stores s := (rfl)
@[simp] theorem stores_setLocal (l st s) : stores (setLocal l st s) = stores s := by
  unfold setLocal
  (repeat' split) <;> simp
@[simp] theorem stores_sendRequest (t s) : stores (sendRequest t s) = stores s := (rfl)
@[simp] theorem stores_failRequest (t err s) : stores (failRequest t err s) = stores s := by
  unfold failRequest
  (repeat' split) <;> simp
@[simp] theorem stores_request (t0 s) : stores (request t0 s) = stores s := by simp [request]
@[simp] theorem stores_sendLater (s) : stores (sendLater s) = stores s := by simp [sendLater]
@[simp] theorem stores_giveUp (l s) : stores (giveUp l s) = stores s := by
  unfold giveUp
  (repeat' split) <;> simp
@[simp] theorem stores_evictHome (l s) : stores (evictHome l s) = stores s := by simp [evictHome]
@[simp] theorem stores_makeRoom (l s) : stores (makeRoom l s) = stores s := by
  unfold makeRoom
  (repeat' split) <;> simp
@[simp] theorem stores_clearDead (s) : stores (clearDead s) = stores s := by simp [clearDead]
@[simp] theorem stores_disableWay (slice way s) : stores (disableWay slice way s) = stores s := by simp [disableWay]
@[simp] theorem sound_applyOwn (t s) (h : Sound (stores s)) : Sound (stores (applyOwn t s).1) := by
  simp only [applyOwn]
  (repeat' split) <;> simp [h, h.mem, h.spad, sound_mk, die_mem, Memory.wf_writeBytes]
@[simp] theorem sound_enterWhole (t s) (h : Sound (stores s)) : Sound (stores (enterWhole t s)) := by
  simp only [enterWhole]
  (repeat' split) <;> simp [h]
@[simp] theorem stores_markArms (l s) : stores (markArms l s) = stores s := (rfl)
@[simp] theorem sound_endTxn (t s) (h : Sound (stores s)) : Sound (stores (endTxn t s)) := by
  unfold endTxn
  split
  extract_lets s0 s1 tier2 nt s1' s2
  have h1 : Sound (stores s1) := by simpa [s1, s0] using h
  have h1' : Sound (stores s1') := sound_ite (sound_enterWhole _ _ h1) h1
  have h2 : Sound (stores s2) := by simpa [s2] using h1'
  have h3 := sound_applyOwn t (if t.full && (homeFind s1' t.line).isSome then clearBad t.line s2 else s2) (by simpa using h2)
  clear_value s1 s1' s2
  split
  next s3 old heq =>
    rw [heq] at h3
    exact sound_ite h3 (by simpa using h3)
  next s3 heq =>
    rw [heq] at h3
    refine sound_ite (sound_ite (sound_ite (by simpa using h3) (sound_useOnce _ _ h3)) (sound_ite (sound_useOnce _ _ h3) h3)) ?_
    simpa using h3
@[simp] theorem sound_tryEnd (l s) (h : Sound (stores s)) : Sound (stores (tryEnd l s)) := by
  unfold tryEnd
  split
  · exact sound_ite (sound_endTxn _ s h) h
  · exact h
@[simp] theorem stores_failTxn (t err s) : stores (failTxn t err s) = stores s := by simp [failTxn]
@[simp] theorem sound_startTxn (t s) (h : Sound (stores s)) : Sound (stores (startTxn t s)) := by
  unfold startTxn
  refine sound_ite (by simpa using h) (sound_ite (by simpa using h) ?_)
  split
  refine sound_tryEnd _ _ ?_
  simpa using h
@[simp] theorem sound_enterTxn (t s) (h : Sound (stores s)) : Sound (stores (enterTxn t s)) :=
  sound_ite (by simpa using h) (sound_startTxn t s h)
@[simp] theorem sound_arriveHome (t s) (h : Sound (stores s)) : Sound (stores (arriveHome t s)) := by
  refine sound_ite (by simpa using h) ?_
  extract_lets s1 k free next serve refuse fresh
  have h1 : Sound (stores s1) := sound_fillBuffer _ s h
  have hrefuse : ∀ tk st, stores (refuse tk st) = stores st := fun tk st => stores_sendErr ..
  have hfresh : Sound (stores fresh) := sound_ite (sound_enterTxn t s1 h1) (by simpa [hrefuse] using h1)
  clear_value refuse fresh s1
  split
  · exact hfresh
  · refine sound_ite (sound_ite (sound_enterTxn t _ (by simpa using h1)) ?_) hfresh
    simpa [hrefuse] using h1
@[simp] theorem sound_serveWaiting (l s) (h : Sound (stores s)) : Sound (stores (serveWaiting l s)) := by
  unfold serveWaiting
  split
  · exact h
  · split
    · exact h
    · exact sound_startTxn _ _ (by simpa using h)
@[simp] theorem sound_failWaiting (l s) (h : Sound (stores s)) : Sound (stores (failWaiting l s)) :=
  sound_foldl (fun st _ hs => sound_ite hs (sound_serveWaiting l st hs)) _ h
@[simp] theorem sound_homeDie (k eng full chan l s) (h : Sound (stores s)) : Sound (stores (homeDie k eng full chan l s)) :=
  sound_ite h (sound_enterTxn _ _ (sound_fillBuffer _ s h))
@[simp] theorem sound_writeBackAt (m s0) (h : Sound (stores s0)) : Sound (stores (writeBackAt m s0)) := by
  simp only [writeBackAt]
  (repeat' split) <;> simp [h]
@[simp] theorem sound_invAckAt (m s) (h : Sound (stores s)) : Sound (stores (invAckAt m s)) := by
  unfold invAckAt
  split
  · simpa using h
  · exact sound_ite (by simpa using h) (sound_tryEnd _ _ (by simpa using h))
@[simp] theorem stores_localRead (unc eng chan l s0) : stores (localRead unc eng chan l s0) = stores s0 := by simp [localRead]
@[simp] theorem stores_localWrite (l s0) : stores (localWrite l s0) = stores s0 := by
  simp only [localWrite]
  (repeat' split) <;> simp
@[simp] theorem stores_serveForward (m s) : stores (serveForward m s) = stores s := by
  unfold serveForward
  (repeat' split) <;> simp
@[simp] theorem stores_forwardAt (m s) : stores (forwardAt m s) = stores s := by
  unfold forwardAt
  split <;> simp
@[simp] theorem stores_invalidateAt (m s) : stores (invalidateAt m s) = stores s := by
  unfold invalidateAt
  split <;> simp
@[simp] theorem stores_serveHeld (l s) : stores (serveHeld l s) = stores s := by simp [serveHeld]
@[simp] theorem stores_learnTier2 (l s) : stores (learnTier2 l s) = stores s := by simp [learnTier2]
@[simp] theorem stores_releaseFwds (s) : stores (releaseFwds s) = stores s := by simp [releaseFwds]
@[simp] theorem sound_grant (t m s) (h : Sound (stores s)) : Sound (stores (grant t m s)) := by
  unfold grant
  extract_lets s1 line s2 s3 s4
  have h1 : Sound (stores s1) := by simpa [s1] using h
  have h2 : Sound (stores s2) := by
    clear_value s1 line
    simp only [s2]
    split
    · exact sound_ite h1 (sound_putLine _ _ _ h1)
    · exact h1
  have h4 : Sound (stores s4) := sound_performReady _ (by simpa [s3] using h2)
  clear_value s2 line s4
  (repeat' split) <;> simp [h2, h4, sound_storeCells]
@[simp] theorem stores_upRequest (t f s) : stores (upRequest t f s) = stores s := (rfl)
@[simp] theorem sound_dataAt (m s) (h : Sound (stores s)) : Sound (stores (dataAt m s)) := by
  unfold dataAt
  split
  · split
    · refine sound_tryEnd _ _ ?_
      simp only [stores_upCoh]
      split <;> simp [h]
    · simpa using h
  · (repeat' split) <;> simp [h]
@[simp] theorem stores_errorAt (m err s) : stores (errorAt m err s) = stores s := by
  unfold errorAt
  split <;> simp
@[simp] theorem stores_resendAt (l s) : stores (resendAt l s) = stores s := by
  unfold resendAt
  split <;> simp
@[simp] theorem stores_ticketSkip (k s) : stores (ticketSkip k s) = stores s := by simp [ticketSkip]
@[simp] theorem sound_wayFree (l s) (h : Sound (stores s)) : Sound (stores (wayFree l s)) := by simp [wayFree, h]
@[simp] theorem sound_askTagPage (ia s) (h : Sound (stores s)) : Sound (stores (askTagPage ia s)) := by
  unfold askTagPage
  (repeat' split) <;> simp [h]
@[simp] theorem sound_codeFill (c s) (h : Sound (stores s)) : Sound (stores (codeFill c s)) := by
  unfold codeFill
  (repeat' split) <;> simp [h]
@[simp] theorem stores_icacheFill (c s) : stores (icacheFill c s) = stores s := by simp [icacheFill]

/-! ### Migration of pages (Machine/Migrate) -/

@[simp] theorem stores_upXlate (f s) : stores (upXlate f s) = stores s := (rfl)
@[simp] theorem sound_writeLeaf (off e s) (h : Sound (stores s)) : Sound (stores (writeLeaf off e s)) := by
  unfold writeLeaf
  (repeat' split) <;> simp [h]
@[simp] theorem stores_moveLines (from2 fromPa n to2 toPa s) : stores (moveLines from2 fromPa n to2 toPa s) = stores s := by
  unfold moveLines
  refine (stores_foldl (fun st x => ?_) _ _).trans ?_ <;> (repeat' split) <;> simp
@[simp] theorem sound_migrateStart (hot off to2 frame s) (h : Sound (stores s)) : Sound (stores (migrateStart hot off to2 frame s)) := by
  simp only [migrateStart]
  (repeat' split) <;> simp [h]
@[simp] theorem sound_migrateEnd (m s) (h : Sound (stores s)) : Sound (stores (migrateEnd m s)) := by
  unfold migrateEnd
  (repeat' split) <;> simp [h]
@[simp] theorem sound_migrateLines (k s) (h : Sound (stores s)) : Sound (stores (migrateLines k s)) := by
  simp only [migrateLines]
  (repeat' split) <;> simp [h]
@[simp] theorem sound_hotPromote (page s) (h : Sound (stores s)) : Sound (stores (hotPromote page s)) := by
  simp only [hotPromote]
  (repeat' split) <;> simp [h]
@[simp] theorem sound_hotCheck (l s) (h : Sound (stores s)) : Sound (stores (hotCheck l s)) := by
  simp only [hotCheck]
  (repeat' split) <;> simp [h]
@[simp] theorem sound_promotePage (ia s) (h : Sound (stores s)) : Sound (stores (promotePage ia s)) := by
  unfold promotePage
  (repeat' split) <;> simp [h]

/-! ### Memory syllables (Machine/Memory) -/

@[simp] theorem sound_spadScatter (v cs s) (h : Sound (stores s)) : Sound (stores (spadScatter v cs s)) := by
  simp [spadScatter, h.mem, h.spad, sound_mk, core_spad, Memory.wf_writeCells]
theorem spadAct_sound (slot refs cells) {out : State → Cells → SylOut} (hout : ∀ s cs, (out s cs).Sound) :
    (spadAct slot refs cells out).Sound :=
  ⟨fun s => by
    simp only [spadAct, mkAct]
    split
    · simp
    · split <;> simp [hout], fun _ h => h⟩
theorem actLds_sound (f) : (actLds f).Sound := spadAct_sound _ _ _ fun _ _ => SylOut.sound_later _
theorem actLdsn_sound (f) : (actLdsn f).Sound := spadAct_sound _ _ _ fun _ _ => SylOut.sound_later _
theorem actSts_sound (f) : (actSts f).Sound := spadAct_sound _ _ _ fun _ _ _ h => sound_spadScatter _ _ _ h
@[simp] theorem loadV_sound (f w slot s cs) : (loadV f w slot s cs).Sound := by simp [loadV]
theorem actLdv_sound (f) : (actLdv f).Sound := spadAct_sound _ _ _ fun _ _ => loadV_sound _ _ _ _ _
theorem actStv_sound (f) : (actStv f).Sound := spadAct_sound _ _ _ fun _ _ _ h => sound_spadScatter _ _ _ h
theorem actLdvb_sound (f) : (actLdvb f).Sound := spadAct_sound _ _ _ fun _ _ => loadV_sound _ _ _ _ _
theorem actLdvx_sound (f) : (actLdvx f).Sound := spadAct_sound _ _ _ fun _ _ => loadV_sound _ _ _ _ _
theorem actStvx_sound (f) : (actStvx f).Sound := spadAct_sound _ _ _ fun _ _ _ h => sound_spadScatter _ _ _ h
theorem actLdvs_sound (f) : (actLdvs f).Sound := spadAct_sound _ _ _ fun _ _ => loadV_sound _ _ _ _ _
@[simp] theorem stores_askProbes (ias s) : stores (askProbes ias s) = stores s :=
  stores_foldl (fun st x => by dsimp only; (repeat' split) <;> simp) _ _
@[simp] theorem sound_strongLine (l s) (h : Sound (stores s)) : Sound (stores (strongLine l s)) := by
  simp only [strongLine]
  (repeat' split) <;> simp [h]
@[simp] theorem sound_noteStrong (ia n key s) (h : Sound (stores s)) : Sound (stores (noteStrong ia n key s)) := by simp [noteStrong, h]
@[simp] theorem sound_recordStrong (ia n s) (h : Sound (stores s)) : Sound (stores (recordStrong ia n s)) := by
  unfold recordStrong
  (repeat' split) <;> simp [h]
@[simp] theorem stores_askStrong (accs s) : stores (askStrong accs s) = stores s := by simp [askStrong]
theorem strongCheck_wait {s : State} {spans : List Span} {cells : List (List (Nat × Nat))} {f : State → State}
    (h : strongCheck s spans cells = .wait f) (t : State) : stores (f t) = stores t := by
  unfold strongCheck at h
  extract_lets firsts away unknown bad at h
  (repeat' split at h) <;> cases h
  simp
/-- What the checks of a global access have a bundle do while it waits leaves the byte stores alone. -/
theorem gcheck_wait {s : State} {spans : List Span} {need : Need} {align : Option (W64 × Nat)} {strong : Bool} {f : State → State}
    (h : gcheck s spans need align strong = .wait f) (t : State) : stores (f t) = stores t := by
  unfold gcheck at h
  extract_lets cells heads looks miss at h
  repeat' split at h
  case isTrue.isTrue => exact strongCheck_wait h t
  all_goals cases h
  simp
theorem globalOut_sound (s spans need align strong) {ok : List (List (Nat × Nat)) → SylOut} (hok : ∀ cs, (ok cs).Sound) :
    (globalOut s spans need align strong ok).Sound := by
  unfold globalOut
  split
  · simp
  · split
    · simp
    next f hf => simp [gcheck_wait hf]
    · split <;> simp [hok]
@[simp] theorem stores_issueLoad (a cells acq scope st) : stores (issueLoad a cells acq scope st) = stores st := by simp [issueLoad]
theorem loadAct_sound (slot refs span align strong) {issue : State → List (Nat × Nat) → State → State}
    (hi : ∀ s cells t, Sound (stores t) → Sound (stores (issue s cells t))) : (loadAct slot refs span align strong issue).Sound :=
  ⟨fun s => globalOut_sound _ _ _ _ _ fun _ => SylOut.sound_skip, fun s h => by
    simp only [loadAct]
    split
    · exact h
    · split
      · exact hi _ _ s h
      · exact h⟩
theorem ldgAct_sound (f sx) : (ldgAct f sx).Sound := loadAct_sound _ _ _ _ _ fun _ _ _ h => by simpa using h
theorem actLdgv_sound (f) : (actLdgv f).Sound := loadAct_sound _ _ _ _ _ fun _ _ _ h => by simpa using h
theorem actStg_sound (f) : (actStg f).Sound := mkAct_sound fun _ => globalOut_sound _ _ _ _ _ fun _ _ h => by simpa using h
theorem actStgv_sound (f) : (actStgv f).Sound := mkAct_sound fun _ => globalOut_sound _ _ _ _ _ fun _ _ h => by simpa using h
@[simp] theorem sound_strongPost (s cs st) (h : Sound (stores st)) : Sound (stores (strongPost s cs st)) :=
  sound_ite (sound_foldl (fun x _ hx => sound_recordStrong _ _ x hx) _ h) h
theorem actLda_sound (f) : (actLda f).Sound := by
  unfold actLda
  exact loadAct_sound _ _ _ _ _ fun _ _ _ h => by simp [h]
theorem actStl_sound (f) : (actStl f).Sound := mkAct_sound fun _ => globalOut_sound _ _ _ _ _ fun _ _ h => by simp [h]
theorem atomAct_sound (f op n refs x y) : (atomAct f op n refs x y).Sound :=
  mkAct_sound fun _ => globalOut_sound _ _ _ _ _ fun _ _ h => by simp [h]
theorem actAfadd_sound (f) : (actAfadd f).Sound := by
  unfold actAfadd
  split <;> exact atomAct_sound ..
theorem vecAtomAct_sound (f op) : (vecAtomAct f op).Sound :=
  mkAct_sound fun _ => globalOut_sound _ _ _ _ _ fun _ _ h => by simp [h]
theorem actDrain_sound (f) : (actDrain f).Sound := mkAct_sound fun s => by simp
@[simp] theorem stores_countHint (s) : stores (countHint s) = stores s := (rfl)
@[simp] theorem stores_prefWork (l1 id bad ls st) : stores (prefWork l1 id bad ls st) = stores st := (rfl)
@[simp] theorem sound_promoteWork (pages st) (h : Sound (stores st)) : Sound (stores (promoteWork pages st)) :=
  sound_foldl (fun x _ hx => sound_ite (sound_promotePage _ x hx) (by simpa using hx)) _ h
@[simp] theorem sound_pinFill (l2 c s) (h : Sound (stores s)) : Sound (stores (pinFill l2 c s)) := by simp [pinFill, h]
@[simp] theorem sound_pinWork (l2 h bad ls st) (hs : Sound (stores st)) : Sound (stores (pinWork l2 h bad ls st)) :=
  sound_ite hs (sound_foldl (fun x _ hx => sound_pinFill _ _ x hx) _ (by simpa using hs))
@[simp] theorem stores_unpinWork (l2 all h st) : stores (unpinWork l2 all h st) = stores st := by simp [unpinWork]
@[simp] theorem stores_cleanL1 (ls st) : stores (cleanL1 ls st) = stores st := (rfl)
@[simp] theorem stores_dropL1 (ls st) : stores (dropL1 ls st) = stores st := (rfl)
@[simp] theorem stores_giveLines (ls st) : stores (giveLines ls st) = stores st := by simp [giveLines]
@[simp] theorem sound_hintWork (h s) (hs : Sound (stores s)) : Sound (stores (hintWork h s)) := by
  unfold hintWork
  extract_lets ls good bad st
  have h1 : Sound (stores st) := by simpa [st] using hs
  clear_value st
  split <;> simp [h1]
@[simp] theorem sound_serveHints (s) (h : Sound (stores s)) : Sound (stores (serveHints s)) :=
  sound_foldl (fun st _ hs => sound_ite (sound_hintWork _ _ (by simpa using hs)) hs) _ h
@[simp] theorem sound_startHint (kind s ia len st) (h : Sound (stores st)) : Sound (stores (startHint kind s ia len st)) :=
  sound_serveHints _ (by simpa using h)
theorem hintAct_sound (f kind) : (hintAct f kind).Sound := mkAct_sound fun s => by
  split
  · split
    · simp
    · exact fun _ h => sound_startHint _ _ _ _ _ h
  · simp
theorem actIcunpin_sound (f) : (actIcunpin f).Sound := mkAct_sound fun s => by
  split
  · split
    · simp
    · rw [SylOut.sound_now]
      exact fun _ h => sound_startHint _ _ _ _ _ h
  · simp

/-! ### The copy engine (Machine/Copy) -/

@[simp] theorem stores_raiseAsync (f s) : stores (raiseAsync f s) = stores s := (rfl)
@[simp] theorem stores_seqRaise (cause block tile detail s) : stores (seqRaise cause block tile detail s) = stores s := (rfl)
@[simp] theorem stores_startWaits (s) : stores (startWaits s) = stores s := (rfl)
@[simp] theorem stores_setSem (m v s) : stores (setSem m v s) = stores s := (rfl)
@[simp] theorem stores_semRaise (m inc s) : stores (semRaise m inc s) = stores s := by simp [semRaise]
@[simp] theorem stores_useUnc (chan ias s) : stores (useUnc chan ias s) = stores s := (rfl)
@[simp] theorem sound_engRepair (chan l mask d s) (h : Sound (stores s)) : Sound (stores (engRepair chan l mask d s)) :=
  sound_ite (sound_enterTxn _ _ (sound_fillBuffer _ s h)) (by simpa using h)
@[simp] theorem sound_engWrite (chan cells s) (h : Sound (stores s)) : Sound (stores (engWrite chan cells s)) := by
  refine sound_foldl (fun st l hs => ?_) _ h
  exact sound_ite (by simpa using hs) (sound_ite (sound_engRepair _ _ _ _ st hs) (sound_storeCells _ st hs))
@[simp] theorem sound_engPost (cells s) (h : Sound (stores s)) : Sound (stores (engPost cells s)) := by
  refine sound_foldl (fun st l hs => ?_) _ h
  exact sound_ite (sound_engWrite _ _ st hs) (sound_enterTxn _ _ (sound_fillBuffer _ st hs))
@[simp] theorem stores_setCh (k f s) : stores (setCh k f s) = stores s := (rfl)
@[simp] theorem stores_setCmd (k i c s) : stores (setCmd k i c s) = stores s := (rfl)
@[simp] theorem stores_dropEnded (k sub s) : stores (dropEnded k sub s) = stores s := by
  unfold dropEnded
  split <;> simp
@[simp] theorem stores_stopChannel (k sub s) : stores (stopChannel k sub s) = stores s := by simp [stopChannel]
@[simp] theorem stores_askFor (c ias s) : stores ((askFor c ias).2 s) = stores s := by simp [askFor]
@[simp] theorem stores_btcPut (base b e s) : stores (btcPut base b e s) = stores s := (rfl)
/-- What a check has its channel do while it waits leaves the byte stores alone. -/
def Check.Frames : Check → Prop
  | .wait _ f => ∀ t, stores (f t) = stores t
  | _ => True
@[simp] theorem Check.frames_good (c : Cmd) : (Check.good c).Frames := trivial
@[simp] theorem Check.frames_stop (k : Nat) : (Check.stop k).Frames := trivial
theorem Check.Frames.ite {c : Prop} [Decidable c] {x y : Check} (hx : x.Frames) (hy : y.Frames) : (if c then x else y).Frames := by
  split <;> assumption
theorem Check.Frames.wait {k : Check} (h : k.Frames) {c : Cmd} {f : State → State} (hk : k = .wait c f) (t : State) :
    stores (f t) = stores t := by
  subst hk
  exact h t
/-- The same of the read of a table entry. -/
def EntryRead.Frames : EntryRead → Prop
  | .wait _ f => ∀ t, stores (f t) = stores t
  | _ => True
theorem EntryRead.Frames.ite {c : Prop} [Decidable c] {x y : EntryRead} (hx : x.Frames) (hy : y.Frames) :
    (if c then x else y).Frames := by
  split <;> assumption
theorem EntryRead.Frames.wait {k : EntryRead} (h : k.Frames) {c : Cmd} {f : State → State} (hk : k = .wait c f) (t : State) :
    stores (f t) = stores t := by
  subst hk
  exact h t
theorem probeEnds_frames (s c ends span) : (probeEnds s c ends span).Frames :=
  .ite (.ite trivial trivial) (.ite (fun t => stores_askFor _ _ t) (.ite trivial (.ite trivial (.ite trivial trivial))))
theorem probeRange_frames (s c need r) : (probeRange s c need r).Frames := by
  unfold probeRange
  split
  · exact probeEnds_frames ..
  · simp
theorem kvEntry_frames (s c b) : (kvEntry s c b).Frames := by
  unfold kvEntry
  split
  · trivial
  · split
    · split
      · trivial
      next heq => exact (probeEnds_frames _ _ _ _).wait heq
      · exact .ite trivial (.ite (fun _ => rfl) trivial)
    · trivial
theorem kvCheck_frames (s c b) : (kvCheck s c b).Frames := by
  unfold kvCheck
  cases hk : kvEntry s c b with
  | stop k => trivial
  | wait c' f => exact (kvEntry_frames s c b).wait hk
  | entry e ias =>
    refine .ite trivial ?_
    extract_lets need r
    cases cmdWindow c r.1 r.2 need with
    | none => trivial
    | some w =>
      cases hr : probeRange s c need r with
      | stop k => trivial
      | wait c' f => exact fun t => by simp [(probeRange_frames s c need r).wait hr]
      | good c' => exact fun t => by simp
theorem stateCheck_frames (s c) : (stateCheck s c).Frames := by
  unfold stateCheck
  (repeat' split) <;> simp
theorem probeAll_frames (s rs c) : (probeAll s rs c).Frames := by
  induction rs generalizing c with
  | nil => simp [probeAll]
  | cons r rs ih =>
    unfold probeAll
    split
    · exact ih _
    · exact probeRange_frames ..
theorem recCheck_frames (s c r) : (recCheck s c r).Frames := by
  refine .ite trivial (.ite trivial (.ite trivial (.ite trivial ?_)))
  split
  · trivial
  · exact probeAll_frames ..
theorem cmdCheck_frames (s c outside) : (cmdCheck s c outside).Frames := by
  refine .ite trivial (.ite ?_ (.ite ?_ (.ite (.ite ?_ (stateCheck_frames ..)) (.ite ?_ trivial))))
  · split
    · trivial
    · exact .ite (kvCheck_frames ..) (fun _ => rfl)
  · split
    · trivial
    · exact probeRange_frames ..
  · split
    · trivial
    · exact .ite trivial (fun _ => rfl)
    · exact .ite trivial (fun _ => rfl)
    · exact .ite (fun _ => rfl) (fun _ => rfl)
  · split
    · exact .ite (recCheck_frames ..) (fun _ => rfl)
    · exact fun _ => rfl
@[simp] theorem stores_copyStart (k outside s) : stores (copyStart k outside s) = stores s := by
  unfold copyStart
  extract_lets t ch
  have ht : stores t = stores s := stores_startWaits s
  clear_value t ch
  split
  · exact ht
  · split
    · exact ht
    · split
      · simp [ht]
      · split
        · exact ht
        · split
          · split <;> simp [ht]
          next hw => simp [(cmdCheck_frames _ _ _).wait hw, ht]
          · split
            · simp [ht]
            · split <;> simp [ht]
@[simp] theorem stores_chainRead (k s) : stores (chainRead k s) = stores s := by
  unfold chainRead
  split
  · split
    · rfl
    · split
      · simp
      · split
        · simp
        · split
          · simp
          next hw => simp [(probeEnds_frames _ _ _ _).wait hw]
          · extract_lets ias w s1 r
            have h1 : stores s1 = stores s := by simp [s1]
            clear_value s1
            refine frame_ite (by simp) (frame_ite rfl (frame_ite (by simpa using h1) ?_))
            split <;> simp [h1]
  · rfl
@[simp] theorem sound_cmdSpadWrite (c bs s) (h : Sound (stores s)) : Sound (stores (cmdSpadWrite c bs s)) := by
  simp [cmdSpadWrite, h.mem, h.spad, sound_mk, core_spad, Memory.wf_writeCells]
@[simp] theorem sound_recMove (chan c p s) (h : Sound (stores s)) : Sound (stores (recMove chan c p s)) := by
  unfold recMove
  extract_lets r src
  split <;> simp [h]
@[simp] theorem stores_setArrival (c p s) : stores (setArrival c p s) = stores s := by simp [setArrival]
@[simp] theorem stores_markLanded (k i p c s) : stores (markLanded k i p c s) = stores s := by simp [markLanded]
@[simp] theorem sound_landPiece (k i p s) (h : Sound (stores s)) : Sound (stores (landPiece k i p s)) := by
  unfold landPiece
  extract_lets ch
  split
  · exact h
  · refine sound_ite h (sound_ite (sound_ite (by simpa using h) h) ?_)
    rw [stores_markLanded, stores_useUnc]
    exact sound_ite (sound_recMove _ _ _ s h) (sound_ite (sound_cmdSpadWrite _ _ s h) (sound_engWrite _ _ s h))
@[simp] theorem stores_cmdSignal (c e s) : stores (cmdSignal c e s) = stores s := by simp [cmdSignal]
@[simp] theorem sound_copyComplete (k s) (h : Sound (stores s)) : Sound (stores (copyComplete k s)) := by
  unfold copyComplete
  split
  · split
    · split
      · simpa using h
      · refine sound_ite ?_ h
        rw [stores_setCmd]
        exact sound_engWrite _ _ _ (by simpa using h)
    · simpa using h
  · exact h
@[simp] theorem stores_fillBank (set b s) : stores (fillBank set b s) = stores s := (rfl)
@[simp] theorem stores_pushCmd (s c bank st) : stores (pushCmd s c bank st) = stores st := by
  unfold pushCmd
  split <;> simp
@[simp] theorem queueOut_sound (s c) : (queueOut s c).Sound := by
  unfold queueOut
  (repeat' split) <;> simp
theorem tileIssue_sound (s c) : (tileIssue s c).Sound := by
  unfold tileIssue
  split
  · split
    · exact queueOut_sound _ _
    · trivial
  · extract_lets range
    have hq : (match addrSpanFault s c.e1 (tileSpan c) with | some x => SylOut.raise .scratchBounds x | none => queueOut s c).Sound := by
      split
      · trivial
      · exact queueOut_sound _ _
    clear_value range
    cases range with
    | none => exact hq
    | some r =>
      dsimp only
      split
      · trivial
      · exact hq
theorem tileAct_sound (op f) : (tileAct op f).Sound := mkAct_sound fun s => by
  split
  · exact tileIssue_sound _ _
  · simp
theorem actCpych_sound (f) : (actCpych f).Sound := mkAct_sound fun s => by simp
theorem actCpyst_sound (f) : (actCpyst f).Sound := mkAct_sound fun s => by
  split
  · extract_lets x y c
    split
    · simp
    · exact queueOut_sound _ _
  · simp
theorem actCpymsg_sound (f) : (actCpymsg f).Sound := mkAct_sound fun s => by (repeat' split) <;> simp
theorem actLsw_sound (f) : (actLsw f).Sound := mkAct_sound fun s => by simp
theorem actLsr_sound (f) : (actLsr f).Sound := mkAct_sound fun s => by simp
theorem actAbclr_sound (f) : (actAbclr f).Sound := mkAct_sound fun s => by simp
theorem actAbwait_sound (f) : (actAbwait f).Sound := mkAct_sound fun s => by simp
theorem actSemset_sound (f) : (actSemset f).Sound := mkAct_sound fun s => by simp
theorem actSemadd_sound (f) : (actSemadd f).Sound := mkAct_sound fun s => by simp
theorem actSemrd_sound (f) : (actSemrd f).Sound := mkAct_sound fun s => by simp
theorem actSemwait_sound (f) : (actSemwait f).Sound := mkAct_sound fun s => by simp

/-! ### The scheduler (Machine/Sched) -/

@[simp] theorem stores_upDisp (f s) : stores (upDisp f s) = stores s := (rfl)
@[simp] theorem stores_upGang (domain f s) : stores (upGang domain f s) = stores s := (rfl)
@[simp] theorem sound_spillMail (m s) (h : Sound (stores s)) : Sound (stores (spillMail m s)) := by
  simp only [spillMail]
  (repeat' split) <;> simp [h, h.mem, h.spad, sound_mk, core_spad, Memory.wf_writeBytes]
@[simp] theorem sound_placeMail (m s) (h : Sound (stores s)) : Sound (stores (placeMail m s)) := by
  unfold placeMail
  (repeat' split) <;> simp [h]
@[simp] theorem stores_refillMail (s) : stores (refillMail s) = stores s := (rfl)
@[simp] theorem sound_takeOverflow (domain rank s) (h : Sound (stores s)) : Sound (stores (takeOverflow domain rank s)) := by
  unfold takeOverflow
  split
  · exact h
  · refine sound_ite h ?_
    rw [stores_upGang]
    exact sound_foldl (fun st m hs => sound_placeMail _ st hs) _ h
@[simp] theorem sound_toOverflow (rank m s) (h : Sound (stores s)) : Sound (stores (toOverflow rank m s)) := by
  unfold toOverflow
  (repeat' split) <;> simp [h]
@[simp] theorem sound_putOvf (d s) (h : Sound (stores s)) : Sound (stores (putOvf d s)) := by
  unfold putOvf
  split
  · exact h
  · exact (h.writeSpad _ _).upCore fun _ => rfl
@[simp] theorem stores_setGranules (gs x s) : stores (setGranules gs x s) = stores s := (rfl)
@[simp] theorem stores_giveRegions (rs s) : stores (giveRegions rs s) = stores s := (rfl)
@[simp] theorem stores_ageAll (s) : stores (ageAll s) = stores s := (rfl)
@[simp] theorem stores_expireAffinity (s) : stores (expireAffinity s) = stores s := (rfl)
@[simp] theorem stores_dropCtx (va s) : stores (dropCtx va s) = stores s := (rfl)
@[simp] theorem stores_releaseCtx (r s) : stores (releaseCtx r s) = stores s := by
  unfold releaseCtx
  (repeat' split) <;> simp
@[simp] theorem stores_preemptCore (cid kind toHead s) : stores (preemptCore cid kind toHead s) = stores s := by simp [preemptCore]
@[simp] theorem stores_preemptMates (domain but toHead s) : stores (preemptMates domain but toHead s) = stores s := by simp [preemptMates]
@[simp] theorem stores_preemptAll (v kind toHead s) : stores (preemptAll v kind toHead s) = stores s := by simp [preemptAll]
@[simp] theorem stores_arrive (r s) : stores (arrive r s) = stores s := by
  simp only [arrive]
  (repeat' split) <;> simp
@[simp] theorem stores_fifoPut (win toHead r s) : stores (fifoPut win toHead r s) = stores s := by simp [fifoPut]
@[simp] theorem stores_returnDrain (s) : stores (returnDrain s) = stores s := by
  unfold returnDrain
  split <;> simp
@[simp] theorem stores_drainAll (n s) : stores (drainAll n s) = stores s := by
  induction n generalizing s with
  | zero => rfl
  | succ n ih => exact (ih _).trans (stores_returnDrain s)
theorem stores_neverRun {s t : State} {r : Rec} (h : neverRun s r = some t) : stores t = stores s := by
  unfold neverRun at h
  (repeat' split at h) <;> cases h <;> simp
@[simp] theorem stores_fifoEnterWith (win toHead r s) : stores (fifoEnterWith win toHead r s) = stores s := by
  unfold fifoEnterWith
  split
  next h => exact stores_neverRun h
  · exact frame_ite (by simp) (by simp)
@[simp] theorem stores_fifoEnter (toHead r s) : stores (fifoEnter toHead r s) = stores s := by simp [fifoEnter]
@[simp] theorem sound_startFresh (r win rs s) (h : Sound (stores s)) : Sound (stores (startFresh r win rs s)) := by
  unfold startFresh
  refine sound_takeOverflow _ _ _ ?_
  simpa using h
@[simp] theorem stores_memberEnded (t s) : stores (memberEnded t s) = stores s := by
  simp only [memberEnded]
  (repeat' split) <;> simp
@[simp] theorem sound_placeHere (win r s) (h : Sound (stores s)) : Sound (stores (placeHere win r s)) := by
  unfold placeHere
  split
  · simpa using h
  · split
    · exact (sound_startFresh _ _ _ s h).upCore fun _ => rfl
    · simpa using h
    · exact h
@[simp] theorem stores_upPeer (cid f s) : stores (upPeer cid f s) = stores s := (rfl)
@[simp] theorem stores_removeSource (cid src s) : stores (removeSource cid src s) = stores s := by
  unfold removeSource
  split <;> simp
@[simp] theorem stores_unreserve (cid s) : stores (unreserve cid s) = stores s := by
  unfold unreserve
  split <;> simp
@[simp] theorem sound_coreTakes (s) (h : Sound (stores s)) : Sound (stores (coreTakes s)) := by
  unfold coreTakes
  extract_lets t
  split
  · exact h
  · split
    · exact h
    · extract_lets s1
      have h1 : Sound (stores s1) := by simpa [s1, t] using h
      clear_value s1
      split
      next hn => rwa [stores_neverRun hn]
      · exact sound_placeHere _ _ _ (by simpa using h1)
@[simp] theorem stores_peerStarts (cid r s) : stores (peerStarts cid r s) = stores s := (rfl)
@[simp] theorem stores_peerTakes (cid s) : stores (peerTakes cid s) = stores s := by
  unfold peerTakes
  extract_lets t
  split
  · rfl
  · split
    · rfl
    · split
      · rfl
      · extract_lets s1
        have h1 : stores s1 = stores s := by simp [s1, t]
        clear_value s1
        split
        next hn => rw [stores_neverRun hn, h1]
        · exact frame_ite (by simpa using h1) rfl
@[simp] theorem stores_peerFree (cid s) : stores (peerFree cid s) = stores s := (rfl)
@[simp] theorem stores_restartQuantum (cid s) : stores (restartQuantum cid s) = stores s := by simp [restartQuantum]
@[simp] theorem stores_spend (r s) : stores (spend r s) = stores s := (rfl)
@[simp] theorem stores_quantumExpire (s0) : stores (quantumExpire s0) = stores s0 := by
  simp only [quantumExpire]
  (repeat' split) <;> simp
@[simp] theorem stores_park (s) : stores (park s) = stores s := by simp [park]
@[simp] theorem stores_parkWake (s) : stores (parkWake s) = stores s := by
  unfold parkWake
  split <;> simp
@[simp] theorem stores_reserveFor (f domain s) : stores (reserveFor f domain s) = stores s := by
  unfold reserveFor
  split <;> simp
@[simp] theorem stores_releaseOthers (domain s) : stores (releaseOthers domain s) = stores s := (rfl)
@[simp] theorem stores_gangPlace (domain remote s) : stores (gangPlace domain remote s) = stores s := by
  unfold gangPlace
  split <;> simp
@[simp] theorem sound_gangStart (domain s) (h : Sound (stores s)) : Sound (stores (gangStart domain s)) := by
  unfold gangStart
  extract_lets t mine cores s1
  split
  · exact h
  · refine sound_ite h (sound_foldl (fun st c hs => ?_) _ (by simpa [s1, t] using h))
    split
    · exact hs
    · exact sound_ite (sound_placeHere _ _ _ (by simpa using hs)) (by simpa using hs)

/-! ### The Grotto controller (Machine/Grotto) -/

@[simp] theorem stores_upGrotto (f s) : stores (upGrotto f s) = stores s := (rfl)
@[simp] theorem stores_arenaRead (l s) : stores (arenaRead l s).2 = stores s := by
  simp only [arenaRead]
  (repeat' split) <;> simp
@[simp] theorem stores_arenaWrite (l d s) : stores (arenaWrite l d s) = stores s := by
  unfold arenaWrite
  split <;> simp
@[simp] theorem stores_placeRead (p s) : stores (placeRead p s).2 = stores s := by
  unfold placeRead
  exact stores_foldl_snd (fun x l => by simp only [stores_arenaRead]) _ _
@[simp] theorem stores_placeWrite (p bytes s) : stores (placeWrite p bytes s) = stores s := by simp [placeWrite]
@[simp] theorem stores_trimStore (n s) : stores (trimStore n s) = stores s := by
  induction n generalizing s with
  | zero => rfl
  | succ n ih =>
    unfold trimStore
    refine frame_ite rfl ?_
    split
    · rfl
    · exact (ih _).trans (frame_ite (by simp) (by simp))
@[simp] theorem stores_storePut (p bytes dirty s) : stores (storePut p bytes dirty s) = stores s := by simp [storePut]
@[simp] theorem stores_storeGet (p s) : stores (storeGet p s).2 = stores s := by
  unfold storeGet
  split
  · simp
  · split
    next heq => simp [stores_snd (stores_placeRead p s) heq]
    · simp
@[simp] theorem stores_liveGet (q n s) : stores (liveGet q n s).2 = stores s := by
  unfold liveGet
  split <;> simp
@[simp] theorem stores_grPerform (op w ext s) : stores (grPerform op w ext s).2 = stores s := by
  unfold grPerform
  extract_lets go pos
  have hgo : stores (go s).2 = stores s := stores_upGrotto _ s
  have hgo' : ∀ t, stores (go t).2 = stores t := fun t => stores_upGrotto _ t
  clear_value go
  have hr (q : Seq) : stores ((snapDiff q pos).foldl (fun (acc : Bool × State) x =>
      let g := storeGet x.2 acc.2; (acc.1 && g.1.isSome, g.2)) (true, s)).2 = stores s :=
    stores_foldl_snd (fun x a => by simp only [stores_storeGet]) _ _
  split
  · cases seqFind s w with
    | none => exact hgo
    | some q =>
      dsimp only
      split
      · exact hgo
      · split
        · exact (hgo' _).trans (hr q)
        · exact hr q
  · exact hgo
@[simp] theorem stores_putLive (q n b s) : stores (putLive q n b s) = stores s := by simp [putLive]
@[simp] theorem stores_putAside (q top n old s) : stores (putAside q top n old s).2 = stores s := by simp [putAside]
@[simp] theorem stores_writeChunk (n b fuel q s) : stores (writeChunk n b fuel q s).2 = stores s := by
  induction fuel generalizing q s with
  | zero => rfl
  | succ fuel ih =>
    unfold writeChunk
    split
    · simp
    · split
      · simp
      · split
        · split
          next heq => simp [stores_snd (stores_liveGet _ _ s) heq]
          next heq => simp [stores_snd (stores_liveGet _ _ s) heq]
        · split
          · rfl
          · simp [ih]
@[simp] theorem stores_stateStop (k i code s) : stores (stateStop k i code s) = stores s := by
  unfold stateStop
  (repeat' split) <;> simp
@[simp] theorem stores_markAsked (k i p c s) : stores (markAsked k i p c s) = stores s := (rfl)
@[simp] theorem stores_stateWrite (k i p outside s) : stores (stateWrite k i p outside s) = stores s := by
  unfold stateWrite
  split
  · rfl
  · split
    · split
      · split
        · simp
        · split <;> simp
      · split
        · rfl
        · split <;> simp
    · split
      · simp
      · split
        next heq => simp [stores_snd (stores_writeChunk _ _ _ _ s) heq]
        next heq => simp [stores_snd (stores_writeChunk _ _ _ _ s) heq]
@[simp] theorem sound_stateRead (k i p outside s) (h : Sound (stores s)) : Sound (stores (stateRead k i p outside s)) := by
  unfold stateRead
  extract_lets land
  have hl : ∀ c bs t, Sound (stores t) → Sound (stores (land c bs t)) := fun c bs t ht => by
    simpa [land] using sound_cmdSpadWrite _ _ t ht
  clear_value land
  split
  · exact h
  · split
    · split
      · split
        · simpa using h
        · exact sound_ite h (by simpa using h)
      · exact sound_ite (hl _ _ s h) h
      · exact sound_ite (by simpa using h) h
    · split
      · simpa using h
      · split
        next heq => exact hl _ _ _ (by rwa [stores_snd (stores_liveGet _ _ s) heq])
        next heq => simpa [stores_snd (stores_liveGet _ _ s) heq] using h
@[simp] theorem stores_askedCheck (id w off len s) : stores (askedCheck id w off len s) = stores s := (rfl)
@[simp] theorem stores_askedRead (id w n s) : stores (askedRead id w n s) = stores s := by
  unfold askedRead
  split
  · simp
  · split
    next heq => simp [stores_snd (stores_liveGet _ _ s) heq]
    next heq => simp [stores_snd (stores_liveGet _ _ s) heq]
@[simp] theorem stores_askedWrite (id w n bs s) : stores (askedWrite id w n bs s) = stores s := by
  unfold askedWrite
  split <;> simp
@[simp] theorem stores_askedCommand (id op w ext s) : stores (askedCommand id op w ext s) = stores s := by
  unfold askedCommand
  split
  next heq => simp [stores_snd (stores_grPerform _ _ _ s) heq]
  next heq => simp [stores_snd (stores_grPerform _ _ _ s) heq]
@[simp] theorem stores_askedPos (id w s) : stores (askedPos id w s) = stores s := (rfl)
@[simp] theorem stores_askedRoll (id w s) : stores (askedRoll id w s) = stores s := by
  unfold askedRoll
  split
  · simp
  · split
    next heq => simp [stores_snd (stores_grPerform _ _ _ s) heq]
    next heq => simp [stores_snd (stores_grPerform _ _ _ s) heq]
@[simp] theorem stores_grotSend (s d op w ext st) : stores (grotSend s d op w ext st) = stores st := by simp [grotSend]
theorem grotAct_sound (op g d b ext) : (grotAct op g d b ext).Sound := mkAct_sound fun s => by simp

/-! ### Messages, posts, weights and task commands (Machine/Engine) -/

theorem actSend_sound (f) : (actSend f).Sound := mkAct_sound fun s => by
  refine .ite ?_ SylOut.sound_skip
  dsimp only
  split
  · exact SylOut.sound_raise _ _
  · exact .ite (fun _ h => h) (.ite (fun _ h => h) fun _ h => h)
@[simp] theorem sound_takeMail (i s) (h : Sound (stores s)) : Sound (stores (takeMail i s)) := by
  unfold takeMail
  (repeat' split) <;> simp [h]
theorem actRecv_sound (f) : (actRecv f).Sound := mkAct_sound fun s => by
  refine .ite ?_ SylOut.sound_skip
  dsimp only
  split
  · exact SylOut.sound_raise _ _
  · split
    · exact fun _ h => h
    next i _ =>
      refine fun st h => ?_
      have ht : Sound (stores (takeMail i st)) := sound_takeMail i st h
      simpa [core_spad] using ht.setSpad (wf_spadPut ht.spad _ _ _)
theorem actRecvp_sound (f) : (actRecvp f).Sound := mkAct_sound fun s => by
  refine .ite (.ite (SylOut.sound_raise _ _) ?_) SylOut.sound_skip
  dsimp only
  split
  · exact SylOut.sound_raise _ _
  · exact .ite (fun _ h => h) fun _ h => h
theorem actMbstat_sound (f) : (actMbstat f).Sound := mkAct_sound fun s => by simp
@[simp] theorem sound_fillBuf (b data s) (h : Sound (stores s)) : Sound (stores (fillBuf b data s)) := by
  unfold fillBuf
  simpa [core_spad] using h.setSpad (wf_spadPut h.spad _ _ _)
@[simp] theorem sound_postedFill (domain src tag data s) (h : Sound (stores s)) : Sound (stores (postedFill domain src tag data s)) := by
  unfold postedFill
  split
  · exact sound_ite (sound_fillBuf _ _ s h) h
  · exact h
@[simp] theorem sound_deliverMail (rank m s) (h : Sound (stores s)) : Sound (stores (deliverMail rank m s)) := by
  unfold deliverMail
  (repeat' split) <;> simp [h]
@[simp] theorem sound_acceptMail (refused away s) (h : Sound (stores s)) : Sound (stores (acceptMail refused away s)) := by
  unfold acceptMail
  (repeat' split) <;> simp [h]
@[simp] theorem sound_moveMessage (k other s) (h : Sound (stores s)) : Sound (stores (moveMessage k other s)) := by
  have hstop : Sound (stores (stopChannel k 8 s)) := by simpa using h
  unfold moveMessage
  split
  · refine sound_ite h ?_
    split
    · split
      · exact h
      · exact sound_ite hstop (by simpa using sound_fillBuf _ _ s h)
    · refine sound_ite h ?_
      split
      · exact h
      · exact sound_ite hstop (by simpa using h)
  · exact h
@[simp] theorem sound_chunkLanded (k i p outside n bytes s) (h : Sound (stores s)) : Sound (stores (chunkLanded k i p outside n bytes s)) := by
  unfold chunkLanded
  (repeat' split) <;> simp [h]
theorem multiCheck_wait {s : State} {l : List (Span × List Need × Need)} {f : State → State} (h : multiCheck s l = .wait f) (t : State) :
    stores (f t) = stores t := by
  unfold multiCheck at h
  extract_lets bad heads looks miss at h
  repeat' split at h
  all_goals cases h
  simp
theorem checkOut_sound (s l) {ok : List (List (Nat × Nat)) → SylOut} (hok : ∀ cs, (ok cs).Sound) : (checkOut (multiCheck s l) ok).Sound := by
  unfold checkOut
  split
  · exact SylOut.sound_raise _ _
  next hf => exact fun t ht => by rwa [multiCheck_wait hf]
  · exact hok _
@[simp] theorem pushPost_sound (s p) : (pushPost s p).Sound := by simp [pushPost]
theorem actColl_sound (f) : (actColl f).Sound := mkAct_sound fun _ => .ite (checkOut_sound _ _ fun _ => pushPost_sound _ _) SylOut.sound_skip
theorem actCollarm_sound (f) : (actCollarm f).Sound := mkAct_sound fun _ => .ite (checkOut_sound _ _ fun _ => pushPost_sound _ _) SylOut.sound_skip
@[simp] theorem stores_bwset (v hbm links s) : stores (bwset v hbm links s) = stores s := by simp [bwset]
theorem actBwset_sound (f) : (actBwset f).Sound := mkAct_sound fun s => by simp
@[simp] theorem sound_pushDeque (d s) (h : Sound (stores s)) : Sound (stores (pushDeque d s)) := by
  unfold pushDeque
  (repeat' split) <;> simp [h]
theorem actSpawn_sound (f) : (actSpawn f).Sound := mkAct_sound fun s => by
  refine .ite ?_ SylOut.sound_skip
  dsimp only
  split
  · exact SylOut.sound_raise _ _
  · exact .ite (fun _ h => h) fun _ h => sound_pushDeque _ _ h
@[simp] theorem sound_takeRec (s dst owner d a st) (h : Sound (stores st)) : Sound (stores (takeRec s dst owner d a st)) := by
  unfold takeRec
  exact sound_ite (by simpa [core_spad] using h.setSpad (wf_spadPut h.spad _ _ _)) (by simpa using h)
theorem actTake_sound (f) : (actTake f).Sound := mkAct_sound fun s => by
  refine .ite ?_ SylOut.sound_skip
  dsimp only
  split
  · exact SylOut.sound_raise _ _
  · split
    · exact fun _ h => sound_takeRec _ _ _ _ _ _ (by simpa using h)
    · exact fun _ h => sound_takeRec _ _ _ _ _ _ (by simpa using h)
    · exact fun _ h => by simpa using h
theorem actSteal_sound (f) : (actSteal f).Sound := mkAct_sound fun s => by
  refine .ite ?_ SylOut.sound_skip
  dsimp only
  split
  · exact SylOut.sound_raise _ _
  · split
    · exact fun _ h => by simpa using h
    · split
      · exact fun _ h => by simpa using h
      · exact fun _ h => sound_takeRec _ _ _ _ _ _ (by simpa using h)
theorem actJoin_sound (f) : (actJoin f).Sound := mkAct_sound fun _ =>
  .ite (checkOut_sound _ _ fun _ => .ite (SylOut.sound_raise _ _) fun _ h => sound_ite h h) SylOut.sound_skip
@[simp] theorem stores_domset (w s) : stores (domset w s) = stores s := by
  unfold domset
  split <;> simp
theorem actDomset_sound (f) : (actDomset f).Sound := mkAct_sound fun s => by simp

/-! ### Images of saved tasks (Machine/Image) -/

@[simp] theorem sound_upImage_upSlot (va f s) (h : Sound (stores s)) : Sound (stores (upImage.upSlot va f s)) := by
  unfold upImage.upSlot
  (repeat' split) <;> simp [h]
@[simp] theorem sound_upImage (va f s) (h : Sound (stores s)) : Sound (stores (upImage va f s)) := by
  unfold upImage
  split
  · exact sound_ite ((h.setSpad (Memory.wf_writeCells h.spad _)).upCore fun _ => rfl) (sound_upImage_upSlot va f s h)
  · exact sound_upImage_upSlot va f s h

/-! ### Steps of the memory, the translation and the coherence protocol (Machine/MemEvents) -/

@[simp] theorem stores_upKeys (f s) : stores (upKeys f s) = stores s := (rfl)
@[simp] theorem stores_writeMkctl (w s) : stores (writeMkctl w s) = stores s := by simp [writeMkctl]
@[simp] theorem stores_mkStart (cmd s) : stores (mkStart cmd s) = stores s := by simp [mkStart]
@[simp] theorem stores_evMkLoad (s) : stores (evMkLoad s) = stores s := by simp [evMkLoad]
@[simp] theorem stores_evMkLoadRandom (s) : stores (evMkLoadRandom s) = stores s := by simp [evMkLoadRandom]
@[simp] theorem stores_evMkZeroise (s) : stores (evMkZeroise s) = stores s := by simp [evMkZeroise]
@[simp] theorem stores_evMkCommandComplete (s) : stores (evMkCommandComplete s) = stores s := by
  simp only [evMkCommandComplete]
  (repeat' split) <;> simp
@[simp] theorem sound_evMigration (s) (h : Sound (stores s)) : Sound (stores (evMigration s)) := by
  refine sound_ite (sound_migrateLines _ s h) (sound_ite ?_ (sound_ite ?_ h))
  · split
    · exact sound_ite (sound_hotPromote _ s h) h
    · exact h
  · exact sound_migrateLines _ _ (sound_migrateStart _ _ _ _ _ (sound_fillBuffer _ s h))
@[simp] theorem stores_evHotPageEpoch (s) : stores (evHotPageEpoch s) = stores s := by simp [evHotPageEpoch]
@[simp] theorem sound_settleMem (s) (h : Sound (stores s)) : Sound (stores (settleMem s)) := by simp [settleMem, h]
@[simp] theorem stores_decayLine (l flips s) : stores (decayLine l flips s) = stores s := by
  simp only [decayLine]
  (repeat' split) <;> simp
@[simp] theorem sound_evMcLineRead (s) (h : Sound (stores s)) : Sound (stores (evMcLineRead s)) := by
  unfold evMcLineRead
  extract_lets l t s1 hint alone s2
  have ht : Sound (stores t) := by
    simp only [t, stores_makeRoom]
    exact sound_ite (sound_fillBuffer _ s h) h
  clear_value t
  have h1 : Sound (stores s1) := sound_hotCheck _ _ (by simpa using sound_mcRead _ _ _ _ t ht)
  clear_value s1
  have h2 : Sound (stores s2) := sound_settleMem _ (sound_failWaiting _ _ (by simpa using h1))
  exact sound_ite (by simpa using h) (sound_ite ht (sound_ite (sound_ite (by simpa using h2) h2)
    (sound_settleMem _ (sound_serveWaiting _ _ h1))))
@[simp] theorem sound_evMcLineWrite (s) (h : Sound (stores s)) : Sound (stores (evMcLineWrite s)) := by
  simp only [evMcLineWrite]
  (repeat' split) <;> simp [h]
@[simp] theorem sound_evFastFill (s) (h : Sound (stores s)) : Sound (stores (evFastFill s)) := by
  unfold evFastFill
  refine sound_foldl (fun st l hst => sound_putLine l 0 st hst) _ (sound_foldl (fun st a hst => ?_) _ h)
  split
  · exact hst
  · exact sound_ite (by simpa using hst) (sound_putLine _ _ _ (by simpa using hst))
@[simp] theorem stores_setPark (e p s) : stores (setPark e p s) = stores s := (rfl)
@[simp] theorem stores_evBpctlSelect (s) : stores (evBpctlSelect s) = stores s := (rfl)
@[simp] theorem stores_repairRows (pc bank rows s) : stores (repairRows pc bank rows s) = stores s := (rfl)
@[simp] theorem stores_parkCommand (cmd s0) : stores (parkCommand cmd s0) = stores s0 := by simp [parkCommand]
@[simp] theorem stores_evParkTestUnpark (s) : stores (evParkTestUnpark s) = stores s := by simp [evParkTestUnpark]
@[simp] theorem stores_evParkTest (s) : stores (evParkTest s) = stores s := by simp [evParkTest]
@[simp] theorem stores_evUnpark (s) : stores (evUnpark s) = stores s := by simp [evUnpark]
@[simp] theorem stores_copyRows (e back k s) : stores (copyRows e back k s) = stores s := by simp [copyRows]
@[simp] theorem stores_evParkingComplete (s) : stores (evParkingComplete s) = stores s := by simp [evParkingComplete]
@[simp] theorem stores_evMarchComplete (s) : stores (evMarchComplete s) = stores s := by simp [evMarchComplete]
@[simp] theorem stores_evUnparkingComplete (s) : stores (evUnparkingComplete s) = stores s := by simp [evUnparkingComplete]
@[simp] theorem sound_evPageTableWalk (s) (h : Sound (stores s)) : Sound (stores (evPageTableWalk s)) := by
  simp only [evPageTableWalk]
  (repeat' split) <;> simp [h]
@[simp] theorem stores_noteAnswer (ia r s) : stores (noteAnswer ia r s) = stores s := (rfl)
@[simp] theorem stores_installAnswer (ia r s) : stores (installAnswer ia r s) = stores s := by
  unfold installAnswer
  split
  · exact frame_ite (stores_filterInstall ..) rfl
  · rfl
@[simp] theorem sound_answerProbe (ia r s) (h : Sound (stores s)) : Sound (stores (answerProbe ia r s)) := by
  refine sound_serveHints _ (sound_foldl (fun st a hst => ?_) _ (by simpa using h))
  split
  · dsimp only
    split
    · exact sound_ite (by simpa using hst) (by simpa using hst)
    · simpa using hst
  · exact hst
@[simp] theorem sound_evHomeProbe (s) (h : Sound (stores s)) : Sound (stores (evHomeProbe s)) := by
  unfold evHomeProbe
  extract_lets ia far off s1
  have h1 : Sound (stores s1) := by
    simp only [s1]
    split
    · exact sound_ite (sound_writeLeaf _ _ s h) h
    · exact sound_walkIn _ _ s h
  clear_value s1
  exact sound_ite h (sound_ite (by simpa using h1) (sound_answerProbe _ _ _ h1))
@[simp] theorem stores_noteTier (ia r tier2 s) : stores (noteTier ia r tier2 s) = stores s := by
  unfold noteTier
  split <;> simp
@[simp] theorem sound_evProbeAnswer (s) (h : Sound (stores s)) : Sound (stores (evProbeAnswer s)) :=
  sound_ite (h.upCore fun _ => rfl) (sound_answerProbe _ _ _ (by simpa using h))
@[simp] theorem sound_invAckOne (s) (h : Sound (stores s)) : Sound (stores (invAckOne s)) := by
  unfold invAckOne
  (repeat' split) <;> simp [h]
@[simp] theorem sound_ackInv (d s) (h : Sound (stores s)) : Sound (stores (ackInv d s)) := by
  unfold ackInv
  (repeat' split) <;> simp [h]
@[simp] theorem sound_takeInv (d s) (h : Sound (stores s)) : Sound (stores (takeInv d s)) := by
  unfold takeInv
  (repeat' split) <;> simp [h]
@[simp] theorem sound_htStart (c pod s) (h : Sound (stores s)) : Sound (stores (htStart c pod s)) := by
  unfold htStart
  (repeat' split) <;> simp [h]
@[simp] theorem sound_evHtChangePage (s) (h : Sound (stores s)) : Sound (stores (evHtChangePage s)) := by simp [evHtChangePage, h]
@[simp] theorem sound_evHtChangeAll (s) (h : Sound (stores s)) : Sound (stores (evHtChangeAll s)) := by simp [evHtChangeAll, h]
@[simp] theorem sound_evFilterInvAck (s) (h : Sound (stores s)) : Sound (stores (evFilterInvAck s)) := by simp [evFilterInvAck, h]
@[simp] theorem sound_evFilterInvalidate (s) (h : Sound (stores s)) : Sound (stores (evFilterInvalidate s)) := by simp [evFilterInvalidate, h]
@[simp] theorem sound_evFilterAckWhenFree (s) (h : Sound (stores s)) : Sound (stores (evFilterAckWhenFree s)) := by
  unfold evFilterAckWhenFree
  (repeat' split) <;> simp [h]
@[simp] theorem sound_evReadShared (s) (h : Sound (stores s)) : Sound (stores (evReadShared s)) := by simp [evReadShared, h]
@[simp] theorem sound_evReadOwn (s) (h : Sound (stores s)) : Sound (stores (evReadOwn s)) := by simp [evReadOwn, h]
@[simp] theorem sound_evUpgrade (s) (h : Sound (stores s)) : Sound (stores (evUpgrade s)) := by simp [evUpgrade, h]
@[simp] theorem sound_evReadSharedUnc (s) (h : Sound (stores s)) : Sound (stores (evReadSharedUnc s)) := by simp [evReadSharedUnc, h]
@[simp] theorem sound_evReadOwnUnc (s) (h : Sound (stores s)) : Sound (stores (evReadOwnUnc s)) := by simp [evReadOwnUnc, h]
@[simp] theorem sound_strongAtHome (ia n agent cid s) (h : Sound (stores s)) : Sound (stores (strongAtHome ia n agent cid s)) := by
  simp only [strongAtHome]
  (repeat' split) <;> simp [h]
@[simp] theorem sound_evReadOwnAtom (s) (h : Sound (stores s)) : Sound (stores (evReadOwnAtom s)) := by
  simp only [evReadOwnAtom]
  (repeat' split) <;> simp [h]
@[simp] theorem sound_atHomeOnly (f s) (hf : ∀ t, Sound (stores t) → Sound (stores (f t))) (h : Sound (stores s)) :
    Sound (stores (atHomeOnly f s)) := by
  unfold atHomeOnly
  (repeat' split) <;> simp [h, hf]
@[simp] theorem stores_elsewhereOnly (f s) (hf : ∀ y0, stores (f y0) = stores y0) : stores (elsewhereOnly f s) = stores s := by simp [elsewhereOnly, hf]
@[simp] theorem sound_evWriteBack (s) (h : Sound (stores s)) : Sound (stores (evWriteBack s)) :=
  sound_atHomeOnly _ s (sound_writeBackAt _) h
@[simp] theorem sound_evInvAck (s) (h : Sound (stores s)) : Sound (stores (evInvAck s)) :=
  sound_atHomeOnly _ s (sound_invAckAt _) h
@[simp] theorem stores_evForward (s) : stores (evForward s) = stores s := by simp [evForward]
@[simp] theorem stores_evInvalidate (s) : stores (evInvalidate s) = stores s := by simp [evInvalidate]
@[simp] theorem sound_evData (s) (h : Sound (stores s)) : Sound (stores (evData s)) := by
  unfold evData
  (repeat' split) <;> simp [h]
@[simp] theorem stores_grotFailed (id s) : stores (grotFailed id s) = stores s := by simp [grotFailed]
@[simp] theorem sound_evError (s) (h : Sound (stores s)) : Sound (stores (evError s)) := by
  unfold evError
  (repeat' split) <;> simp [h]
@[simp] theorem stores_peerTakesLine (core excl l s) : stores (peerTakesLine core excl l s) = stores s := by simp [peerTakesLine]
@[simp] theorem sound_evHomeDieRead (s) (h : Sound (stores s)) : Sound (stores (evHomeDieRead s)) := by
  simp only [evHomeDieRead]
  (repeat' split) <;> simp [h]
@[simp] theorem sound_evHomeDieExclusive (s) (h : Sound (stores s)) : Sound (stores (evHomeDieExclusive s)) := by
  simp only [evHomeDieExclusive]
  (repeat' split) <;> simp [h]
@[simp] theorem stores_evRequestResend (s) : stores (evRequestResend s) = stores s := by simp [evRequestResend]
@[simp] theorem sound_evWaitingRequestServe (s) (h : Sound (stores s)) : Sound (stores (evWaitingRequestServe s)) := by simp [evWaitingRequestServe, h]
@[simp] theorem sound_evWayFreeWait (s) (h : Sound (stores s)) : Sound (stores (evWayFreeWait s)) := by
  unfold evWayFreeWait
  (repeat' split) <;> simp [h]
@[simp] theorem sound_evHomeSliceEviction (s) (h : Sound (stores s)) : Sound (stores (evHomeSliceEviction s)) := by
  unfold evHomeSliceEviction
  (repeat' split) <;> simp [h]
@[simp] theorem stores_evTicketSkip (s) : stores (evTicketSkip s) = stores s := by simp [evTicketSkip]
@[simp] theorem stores_evLocalSliceRead (s) : stores (evLocalSliceRead s) = stores s := by simp [evLocalSliceRead]
@[simp] theorem sound_evLocalSliceWrite (s) (h : Sound (stores s)) : Sound (stores (evLocalSliceWrite s)) := by simp [evLocalSliceWrite, h]
@[simp] theorem stores_evLocalSliceEviction (s) : stores (evLocalSliceEviction s) = stores s := by simp [evLocalSliceEviction]
@[simp] theorem sound_evCodeLineFill (s) (h : Sound (stores s)) : Sound (stores (evCodeLineFill s)) := by simp [evCodeLineFill, h]
@[simp] theorem stores_evIcacheFill (s) : stores (evIcacheFill s) = stores s := by simp [evIcacheFill]

/-! ### Steps of the engines (Machine/EngineEvents) -/

@[simp] theorem stores_evRegionRelease (s) : stores (evRegionRelease s) = stores s := by simp [evRegionRelease]
@[simp] theorem sound_evGranuleClearDone (s) (h : Sound (stores s)) : Sound (stores (evGranuleClearDone s)) := by
  simp only [evGranuleClearDone]
  (repeat' split) <;> simp [h, h.mem, h.spad, sound_mk, core_spad, Memory.wf_clear]
@[simp] theorem sound_evMailboxDelivery (s) (h : Sound (stores s)) : Sound (stores (evMailboxDelivery s)) := by simp [evMailboxDelivery, h]
@[simp] theorem sound_evMessageAccept (s) (h : Sound (stores s)) : Sound (stores (evMessageAccept s)) := by simp [evMessageAccept, h]
@[simp] theorem sound_evPostedBufferFill (s) (h : Sound (stores s)) : Sound (stores (evPostedBufferFill s)) := by simp [evPostedBufferFill, h]
@[simp] theorem stores_evCopyCommandStart (s) : stores (evCopyCommandStart s) = stores s := by simp [evCopyCommandStart]
@[simp] theorem sound_evCopyChunkLanded (s) (h : Sound (stores s)) : Sound (stores (evCopyChunkLanded s)) := by
  unfold evCopyChunkLanded
  (repeat' split) <;> simp [h]
@[simp] theorem sound_evCopyCommandComplete (s) (h : Sound (stores s)) : Sound (stores (evCopyCommandComplete s)) := by simp [evCopyCommandComplete, h]
@[simp] theorem stores_evChainRecordRead (s) : stores (evChainRecordRead s) = stores s := by simp [evChainRecordRead]
@[simp] theorem stores_evStateChunkWrite (s) : stores (evStateChunkWrite s) = stores s := by simp [evStateChunkWrite]
@[simp] theorem stores_evMatrixStart (s) : stores (evMatrixStart s) = stores s := by
  unfold evMatrixStart
  split <;> simp
@[simp] theorem sound_matrixDone (s) (h : Sound (stores s)) : Sound (stores (matrixDone s)) := by
  unfold matrixDone
  (repeat' split) <;> simp [h]
@[simp] theorem sound_evMatrixComplete (s) (h : Sound (stores s)) : Sound (stores (evMatrixComplete s)) := by
  unfold evMatrixComplete
  (repeat' split) <;> simp [h]
@[simp] theorem stores_freeHeld (cid s) : stores (freeHeld cid s) = stores s := (rfl)
@[simp] theorem stores_peerPush (cid r s) : stores (peerPush cid r s) = stores s := by
  unfold peerPush
  (repeat' split) <;> simp
@[simp] theorem stores_stolen (cid s) : stores (stolen cid s) = stores s := by
  unfold stolen
  split <;> simp
@[simp] theorem stores_evSpawnRelease (s) : stores (evSpawnRelease s) = stores s := by
  unfold evSpawnRelease
  (repeat' split) <;> simp
@[simp] theorem stores_upColls (f s) : stores (upColls f s) = stores s := (rfl)
@[simp] theorem stores_setColl (i c s) : stores (setColl i c s) = stores s := (rfl)
@[simp] theorem stores_dropPost (p s) : stores (dropPost p s) = stores s := (rfl)
@[simp] theorem stores_addColl (c s) : stores (addColl c s) = stores s := (rfl)
@[simp] theorem stores_evCollPostForward (s) : stores (evCollPostForward s) = stores s := by
  unfold evCollPostForward
  split <;> simp
@[simp] theorem stores_readFlag (a s) : stores (readFlag a s) = stores s := by simp [readFlag]
@[simp] theorem stores_evArmEntry (s) : stores (evArmEntry s) = stores s := by
  unfold evArmEntry
  (repeat' split) <;> simp
@[simp] theorem stores_evFlagReread (s) : stores (evFlagReread s) = stores s := by
  unfold evFlagReread
  split <;> simp
@[simp] theorem stores_meetPosts (i c d s) : stores (meetPosts i c d s) = stores s := by
  unfold meetPosts
  split <;> simp
@[simp] theorem stores_sendOthers (c m s) : stores (sendOthers c m s) = stores s := by simp [sendOthers]
@[simp] theorem stores_readDesc (i c p s) : stores (readDesc i c p s) = stores s := by
  unfold readDesc
  (repeat' split) <;> simp
@[simp] theorem stores_ownChecks (i c p s) : stores (ownChecks i c p s) = stores s := by
  unfold ownChecks
  (repeat' split) <;> simp
@[simp] theorem stores_collBegin (i c s) : stores (collBegin i c s) = stores s := by
  unfold collBegin
  split <;> simp
@[simp] theorem stores_sweepColls (s) : stores (sweepColls s) = stores s := (rfl)
@[simp] theorem stores_peerPosts (e p bad s) : stores (peerPosts e p bad s) = stores s := by
  unfold peerPosts
  (repeat' split) <;> simp
@[simp] theorem stores_evCollectiveStart (s) : stores (evCollectiveStart s) = stores s := by
  unfold evCollectiveStart
  (repeat' split) <;> simp
@[simp] theorem sound_postSignal (p s) (h : Sound (stores s)) : Sound (stores (postSignal p s)) :=
  sound_ite h (sound_ite (by simpa using h) (sound_upImage _ _ s h))
@[simp] theorem stores_applyGroups (s) : stores (applyGroups s) = stores s := by simp [applyGroups]
@[simp] theorem sound_collEnd (i c p k s) (h : Sound (stores s)) : Sound (stores (collEnd i c p k s)) := by
  unfold collEnd
  have h1 : Sound (stores (engWrite 0 ((w7Ias p).zipIdx.map fun x => (x.1, (toBytes 8 (2 ^ 63 + k.toNat)).getD x.2 0)) s)) :=
    sound_engWrite _ _ s h
  simpa using sound_postSignal p _ (by simpa using h1)
@[simp] theorem stores_collRead (i c p d g s) : stores (collRead i c p d g s) = stores s := by
  unfold collRead
  split <;> simp
@[simp] theorem sound_collMove (i c p d g mine s) (h : Sound (stores s)) : Sound (stores (collMove i c p d g mine s)) := by
  simp only [collMove]
  (repeat' split) <;> simp [h]
@[simp] theorem stores_tellWrote (i c s) : stores (tellWrote i c s) = stores s := by simp [tellWrote]
@[simp] theorem sound_collGo (i c p d g s) (h : Sound (stores s)) : Sound (stores (collGo i c p d g s)) := by
  refine sound_ite ?_ (sound_ite (by simpa using h) (sound_ite (sound_collEnd _ _ _ _ s h) h))
  split
  · simpa using h
  · exact sound_collMove _ _ _ _ _ _ s h
@[simp] theorem stores_peerSays (e who k bytes s) : stores (peerSays e who k bytes s) = stores s := by
  simp only [peerSays]
  (repeat' split) <;> simp
@[simp] theorem sound_evCollectiveComplete (s) (h : Sound (stores s)) : Sound (stores (evCollectiveComplete s)) := by
  refine sound_ite (by simpa using h) ?_
  split
  · exact h
  · split
    · simpa using h
    · split
      · exact sound_ite (sound_collEnd _ _ _ _ s h) h
      · split
        · exact sound_ite (sound_collGo _ _ _ _ _ s h) h
        · exact h

/-! ### The Toesque links (Machine/Links) -/

@[simp] theorem stores_setPort (p x s) : stores (setPort p x s) = stores s := (rfl)
@[simp] theorem stores_countLink (p s) : stores (countLink p s) = stores s := (rfl)
@[simp] theorem stores_putOut (n f p s) : stores (putOut n f p s) = stores s := (rfl)
theorem stores_sendOn {n f s t} (h : sendOn n f s = some t) : stores t = stores s := by
  unfold sendOn at h
  split at h
  · cases h
  · split at h
    · cases h
    · cases h
      simp
@[simp] theorem stores_holdFlit (n f s) : stores (holdFlit n f s) = stores s := by
  unfold holdFlit
  split <;> simp
@[simp] theorem stores_sendHeld (n vc s) : stores (sendHeld n vc s) = stores s := by
  unfold sendHeld
  (repeat' split) <;> simp
@[simp] theorem stores_replayOn (n k s) : stores (replayOn n k s) = stores s := by
  induction k generalizing s with
  | zero => rfl
  | succ k ih =>
    unfold replayOn
    split
    · rfl
    · split
      · rfl
      · exact frame_ite rfl ((ih _).trans (by simp))
@[simp] theorem stores_replayAll (n p s) : stores (replayAll n p s) = stores s := (stores_replayOn ..).trans (by simp)
@[simp] theorem stores_rateOut (n vc before after s) : stores (rateOut n vc before after s) = stores s := by simp [rateOut]
theorem stores_passOn {n f s t} (h : passOn n f s = some t) : stores t = stores s := by
  unfold passOn at h
  split at h
  · split at h
    · cases h
      rfl
    · exact stores_sendOn h
  · split at h
    · exact stores_sendOn h
    · cases h
      rfl
@[simp] theorem stores_drainPort (n vc s) : stores (drainPort n vc s) = stores s := by
  unfold drainPort
  split
  · rfl
  · split
    · rfl
    · split
      · rfl
      next ht => simpa using stores_passOn ht
@[simp] theorem stores_evFlitSend (s) : stores (evFlitSend s) = stores s := by
  unfold evFlitSend
  refine frame_ite ?_ (frame_ite rfl ?_)
  · split <;> simp
  · split
    next n _ =>
      cases ht : sendOn n s.arg.flit s with
      | none => simp
      | some t => simpa using stores_sendOn ht
    · rfl
@[simp] theorem stores_nakOut (n p s) : stores (nakOut n p s) = stores s := (rfl)
@[simp] theorem stores_acceptFlit (n f p s) : stores (acceptFlit n f p s) = stores s := by simp [acceptFlit]
@[simp] theorem stores_evFlitReceive (s) : stores (evFlitReceive s) = stores s := by
  simp only [evFlitReceive]
  (repeat' split) <;> simp
@[simp] theorem stores_evNak (s) : stores (evNak s) = stores s := by
  unfold evNak
  split
  · rfl
  · exact frame_ite rfl (frame_ite (by simp) (by simp))
@[simp] theorem stores_portDown (n s) : stores (portDown n s) = stores s := by
  unfold portDown
  split <;> simp
@[simp] theorem stores_evPortDown (s) : stores (evPortDown s) = stores s := by simp [evPortDown]
@[simp] theorem stores_evRetrainComplete (s) : stores (evRetrainComplete s) = stores s := by
  unfold evRetrainComplete
  split
  · rfl
  · exact frame_ite rfl (frame_ite (by simp) (by simp))
@[simp] theorem stores_evRateFlit (s) : stores (evRateFlit s) = stores s := by
  unfold evRateFlit
  split <;> simp
@[simp] theorem stores_writeRoute (chip x s) : stores (writeRoute chip x s) = stores s := (rfl)
@[simp] theorem stores_evGroupTableWrite (s) : stores (evGroupTableWrite s) = stores s := by simp [evGroupTableWrite]
@[simp] theorem stores_evHostBarAccess (s) : stores (evHostBarAccess s) = stores s := by
  unfold evHostBarAccess
  split <;> simp

/-! ### The end, the save and the restore of a task (Machine/Save) -/

@[simp] theorem stores_grotRun (a s) : stores (grotRun a s) = stores s := by
  unfold grotRun
  split
  · rfl
  · split
    next heq => simp [stores_snd (stores_grPerform _ _ _ s) heq]
    next heq => simp [stores_snd (stores_grPerform _ _ _ s) heq]
@[simp] theorem stores_grotAll (s) : stores (grotAll s) = stores s := by simp [grotAll]
@[simp] theorem stores_clearTask (s) : stores (clearTask s) = stores s := (rfl)
@[simp] theorem stores_upMyPosts (f s) : stores (upMyPosts f s) = stores s := (rfl)
@[simp] theorem stores_stopTask (s0) : stores (stopTask s0) = stores s0 := by
  unfold stopTask
  split <;> simp
@[simp] theorem stores_owe (t win va seq counter r s) : stores (owe t win va seq counter r s) = stores s := (rfl)
@[simp] theorem stores_endTask (s) : stores (endTask s) = stores s := by
  unfold endTask
  split <;> simp
@[simp] theorem stores_atTask (s) : stores (atTask s) = stores s := by simp [atTask]
@[simp] theorem stores_giveUpTask (code told s) : stores (giveUpTask code told s) = stores s := by
  unfold giveUpTask
  split <;> simp
@[simp] theorem sound_completeAll (k n s) (h : Sound (stores s)) : Sound (stores (completeAll k n s)) := by
  induction n generalizing s with
  | zero => exact h
  | succ n ih => exact ih _ (sound_copyComplete k s h)
@[simp] theorem sound_saveContext (s) (h : Sound (stores s)) : Sound (stores (saveContext s).2) := by
  unfold saveContext
  split
  · exact h
  · extract_lets s1 s2 va inArea x img s3 cells s4 s5
    have h2 : Sound (stores s2) := by
      refine sound_completeAll _ _ _ (sound_completeAll _ _ _ (sound_completeAll _ _ _ (sound_completeAll _ _ _ ?_)))
      exact sound_matrixDone _ (by simp [h])
    clear_value s2
    have h3 : Sound (stores s3) := sound_ite ((h2.writeSpad _ _).upCore fun _ => rfl) (by simpa using h2)
    clear_value s3
    have h4 : Sound (stores s4) := sound_engPost _ _ (by simpa using h3)
    simpa [s5] using h4
@[simp] theorem sound_enterPreempt (info s0 s) (h : Sound (stores s)) : Sound (stores (enterPreempt info s0 s)) := by
  unfold enterPreempt
  extract_lets t s1
  have h1 : Sound (stores s1) := by simpa [s1] using h
  exact (h1.writeSpad _ _).upCore fun _ => rfl
@[simp] theorem stores_noteReturn (k toHead r s) : stores (noteReturn k toHead r s) = stores s := by simp [noteReturn]
@[simp] theorem sound_evContextSave (s) (h : Sound (stores s)) : Sound (stores (evContextSave s)) := by
  refine sound_ite h ?_
  split
  · simpa using sound_saveContext _ (by simpa using h)
  · refine sound_ite (sound_takeTrap _ _ h) ?_
    have ht (k : BitVec 3) : Sound (stores (enterPreempt k.toNat s (saveContext s).2)) := sound_enterPreempt _ s _ (sound_saveContext s h)
    exact sound_ite (by simpa using ht _) (by simpa using ht _)
  · exact h
@[simp] theorem sound_evPositionPreempt (s) (h : Sound (stores s)) : Sound (stores (evPositionPreempt s)) := by
  refine sound_ite (sound_ite (by simpa using h) (sound_ite (h.upCore fun _ => rfl) h)) (sound_ite h ?_)
  split
  · refine sound_ite (sound_ite (by simpa using h) h) (sound_ite (sound_takeTrap _ _ h) ?_)
    simpa using sound_enterPreempt _ s _ (by simpa using h)
  · exact h
@[simp] theorem stores_rolled (q pos s0) : stores (rolled q pos s0) = stores s0 := by
  unfold rolled
  (repeat' split) <;> simp
@[simp] theorem stores_evPositionRollDone (s) : stores (evPositionRollDone s) = stores s := by
  refine frame_ite (stores_askedRoll _ _ s) ?_
  split
  · rfl
  · refine frame_ite (frame_ite (frame_ite (stores_rolled _ _ s) rfl) (frame_ite rfl (by simp))) (frame_ite rfl ?_)
    split
    · exact stores_rolled _ _ s
    · split
      next heq => exact (stores_rolled _ _ _).trans (stores_snd (stores_grPerform _ _ _ s) heq)
      next heq => exact (stores_rolled _ _ _).trans (stores_snd (stores_grPerform _ _ _ s) heq)
@[simp] theorem stores_recordAsked (x s) : stores (recordAsked x s).2 = stores s := by simp [recordAsked]
@[simp] theorem sound_evImageWriteout (s) (h : Sound (stores s)) : Sound (stores (evImageWriteout s)) := by
  simp only [evImageWriteout]
  (repeat' split) <;> simp [h]
@[simp] theorem sound_evSpilledMessageMove (s) (h : Sound (stores s)) : Sound (stores (evSpilledMessageMove s)) := by
  unfold evSpilledMessageMove
  split
  · exact h
  next t va _ =>
    refine sound_ite ?_ ?_
    · split
      · exact h.upCore fun _ => rfl
      · exact sound_foldl (fun st m hst => sound_toOverflow _ _ st hst) _ (h.upCore fun _ => rfl)
    · have h1 (f : Ctx → Ctx) (g : CoreSt → CoreSt) (hg : ∀ c, (g c).spad = c.spad) : Sound (stores (upImage va f (s.upCore g))) :=
        sound_upImage va f _ (h.upCore hg)
      dsimp only
      split
      · exact sound_engPost _ _ (h1 _ _ fun _ => rfl)
      · exact h1 _ _ fun _ => rfl
theorem sound_regionsBack {r x s t} (h : Sound (stores s)) (ht : regionsBack r x s = some t) : Sound (stores t) := by
  unfold regionsBack at ht
  split at ht
  · cases ht
    simpa using h
  · obtain ⟨rs, -, rfl⟩ := Option.map_eq_some_iff.1 ht
    have hg : Sound (stores (giveRegions rs s)) := by simpa using h
    exact hg.setSpad (Memory.wf_writeCells hg.spad _)
@[simp] theorem sound_mailBack (t ms s) (h : Sound (stores s)) : Sound (stores (mailBack t ms s)) :=
  (sound_foldl (fun st m hst => sound_placeMail m st hst) _ h).upCore fun _ => rfl
@[simp] theorem sound_resume (r x s) (h : Sound (stores s)) : Sound (stores (resume r x s)) := by
  unfold resume
  extract_lets spw sys asyncs task s1 s2 back
  have h1 : Sound (stores s1) := h.upCore fun _ => rfl
  clear_value s1
  have h2 : Sound (stores s2) := by
    refine sound_foldl (fun st a hst => ?_) _ ((sound_mailBack _ _ s1 h1).upCore fun _ => rfl)
    split
    · exact sound_ite (by simpa using hst) hst
    · exact hst
  simpa using h2
@[simp] theorem sound_restoreCtx (r x s) (h : Sound (stores s)) : Sound (stores (restoreCtx r x s)) := by
  refine sound_ite (by simpa using h) ?_
  split
  · exact h
  next hr => exact sound_takeOverflow _ _ _ (sound_resume _ _ _ (by simpa using sound_regionsBack h hr))
@[simp] theorem sound_restoreSlot (r asked s) (h : Sound (stores s)) : Sound (stores (restoreSlot r asked s)) := by
  unfold restoreSlot
  extract_lets rd ias s1 x
  have h1 : Sound (stores s1) := by simpa [s1] using h
  refine sound_ite (by simpa using h) (sound_ite h (sound_ite (sound_ite h1 (by simpa using h1)) ?_))
  exact sound_restoreCtx _ _ _ (by simpa using h)
@[simp] theorem sound_evContextRestore (s) (h : Sound (stores s)) : Sound (stores (evContextRestore s)) := by
  unfold evContextRestore
  split
  · exact h
  · refine sound_ite h ?_
    split
    · exact h.upCore fun _ => rfl
    · split
      · exact sound_ite (sound_restoreCtx _ _ s h) (sound_restoreSlot _ _ s h)
      · exact sound_restoreSlot _ _ s h
    · exact h

/-! ### Steps of tasks, barriers, the dispatcher and the monitor (Machine/TaskEvents) -/

@[simp] theorem sound_heldRun (a s) (h : Sound (stores s)) : Sound (stores (heldRun a s)) := by
  unfold heldRun
  split
  · exact sound_ite (by simpa [core_spad] using h.setSpad (wf_spadPut h.spad _ _ _)) h
  · exact h
@[simp] theorem stores_landAwait (a v s) : stores (landAwait a v s) = stores s := by simp [landAwait]
@[simp] theorem sound_evScoreboardArrival (s) (h : Sound (stores s)) : Sound (stores (evScoreboardArrival s)) := by
  refine sound_ite (sound_ite (by simpa using h) (by simpa using h)) ?_
  split
  · exact h
  · refine sound_ite h ?_
    split
    · simpa using h
    · exact sound_ite (by simpa using h) (sound_heldRun _ s h)
@[simp] theorem stores_setLeave (l l' s) : stores (setLeave l l' s) = stores s := (rfl)
@[simp] theorem stores_dropLeave (l s) : stores (dropLeave l s) = stores s := by simp [dropLeave]
@[simp] theorem stores_joinFail (l code s) : stores (joinFail l code s) = stores s := by
  simp only [joinFail]
  (repeat' split) <;> simp
@[simp] theorem sound_joinRun (l ia s) (h : Sound (stores s)) : Sound (stores (joinRun l ia s)) := by
  have hfail {t : State} (ht : Sound (stores t)) : Sound (stores (joinFail l 9 t)) := by simpa using ht
  unfold joinRun
  extract_lets ls old new put s1 s2
  have hput (a : Nat) (bs : List Byte) {t : State} (ht : Sound (stores t)) : Sound (stores (put a bs t)) := sound_storeCells _ t ht
  clear_value put
  have h1 : Sound (stores s1) := by
    simp only [s1]
    split
    · exact hput _ _ h
    · exact h
  clear_value s1
  have h2 : Sound (stores s2) := hput _ _ h1
  clear_value s2
  refine sound_ite (hfail h) (sound_ite (hfail h) (sound_ite h (sound_ite (by simpa using h2) ?_)))
  split
  · simpa using h2
  · exact sound_ite (hfail h2) (by simpa using h2)
@[simp] theorem sound_leaveStep (l s) (h : Sound (stores s)) : Sound (stores (leaveStep l s)) := by
  refine sound_ite h (sound_ite (sound_ite h (by simpa using h)) (sound_ite ?_ (sound_ite h ?_)))
  · split <;> simpa using h
  · split
    · simpa using h
    · exact h
    · simpa using h
    · exact sound_joinRun _ _ s h
@[simp] theorem sound_leaveNext (s) (h : Sound (stores s)) : Sound (stores (leaveNext s)) := by
  unfold leaveNext
  split
  · exact sound_leaveStep _ s h
  · exact h
@[simp] theorem sound_yieldTask (s0) (h : Sound (stores s0)) : Sound (stores (yieldTask s0)) := by
  unfold yieldTask
  (repeat' split) <;> simp [h]
@[simp] theorem stores_eretTask (s) : stores (eretTask s) = stores s := by simp [eretTask]
@[simp] theorem stores_peerMemberEnded (domain rank subs s) : stores (peerMemberEnded domain rank subs s) = stores s := by
  simp only [peerMemberEnded]
  (repeat' split) <;> simp
@[simp] theorem sound_evPendingEndEffect (s) (h : Sound (stores s)) : Sound (stores (evPendingEndEffect s)) := by
  have heret : Sound (stores (eretTask s)) := by simpa using h
  refine sound_ite (sound_ite (sound_ite (by simpa using h) h) ?_) (sound_ite (sound_leaveNext s h)
    (sound_ite ?_ (sound_ite (sound_yieldTask s h) (by simpa using h))))
  · exact sound_ite (by simpa using h) (by simpa using h)
  · split
    · exact h.upCore fun _ => rfl
    · exact sound_ite (sound_yieldTask _ (by simpa using h)) heret
    · exact sound_ite (by simpa using h) heret
    · exact heret
@[simp] theorem stores_evWfeTimeout (s) : stores (evWfeTimeout s) = stores s := by simp [evWfeTimeout]
@[simp] theorem stores_evTimerExpiry (s) : stores (evTimerExpiry s) = stores s := by simp [evTimerExpiry]
@[simp] theorem stores_ownArrival (l s) : stores (ownArrival l s) = stores s := by
  unfold ownArrival
  split <;> simp
@[simp] theorem stores_evBarrierArrival (s) : stores (evBarrierArrival s) = stores s := by simp [evBarrierArrival]
@[simp] theorem sound_evBarrierPhaseComplete (s) (h : Sound (stores s)) : Sound (stores (evBarrierPhaseComplete s)) := by
  unfold evBarrierPhaseComplete
  split
  · exact h
  · refine sound_ite h ?_
    extract_lets vas s1 s2
    have h2 : Sound (stores s2) := sound_foldl (fun st va hst => sound_upImage va _ st hst) _ (by simpa [s1] using h)
    clear_value s2
    split
    · exact sound_ite (h2.upCore fun _ => rfl) h2
    · exact h2
@[simp] theorem sound_evBarrierTimeout (s) (h : Sound (stores s)) : Sound (stores (evBarrierTimeout s)) := by
  unfold evBarrierTimeout
  (repeat' split) <;> simp [h]
@[simp] theorem stores_putGang (w0 w1 s) : stores (putGang w0 w1 s) = stores s := (rfl)
@[simp] theorem stores_evFifoArrival (s) : stores (evFifoArrival s) = stores s := by simp [evFifoArrival]
@[simp] theorem stores_evReturnStoreDrain (s) : stores (evReturnStoreDrain s) = stores s := by simp [evReturnStoreDrain]
@[simp] theorem sound_evCoreTakesRecord (s) (h : Sound (stores s)) : Sound (stores (evCoreTakesRecord s)) := by
  unfold evCoreTakesRecord
  (repeat' split) <;> simp [h]
@[simp] theorem stores_evAffinityExpiry (s) : stores (evAffinityExpiry s) = stores s := (rfl)
@[simp] theorem stores_evAgingStep (s) : stores (evAgingStep s) = stores s := by simp [evAgingStep]
@[simp] theorem stores_evQuantumExpiry (s) : stores (evQuantumExpiry s) = stores s := by simp [evQuantumExpiry]
@[simp] theorem stores_evParking (s) : stores (evParking s) = stores s := by simp [evParking]
@[simp] theorem stores_evParkWake (s) : stores (evParkWake s) = stores s := by simp [evParkWake]
@[simp] theorem stores_evGangPlacement (s) : stores (evGangPlacement s) = stores s := by simp [evGangPlacement]
@[simp] theorem sound_evGangStart (s) (h : Sound (stores s)) : Sound (stores (evGangStart s)) := by simp [evGangStart, h]
@[simp] theorem stores_holdGang (c info s) : stores (holdGang c info s) = stores s := by
  unfold holdGang
  split <;> simp
@[simp] theorem sound_evTrapEntry (s) (h : Sound (stores s)) : Sound (stores (evTrapEntry s)) := by
  unfold evTrapEntry
  (repeat' split) <;> simp [h]
@[simp] theorem stores_evChqPop (s) : stores (evChqPop s) = stores s := (rfl)
@[simp] theorem stores_evChqAppend (s) : stores (evChqAppend s) = stores s := by simp [evChqAppend]
@[simp] theorem stores_evChqResume (s) : stores (evChqResume s) = stores s := by simp [evChqResume]
@[simp] theorem stores_evSnapnDiscard (s) : stores (evSnapnDiscard s) = stores s := (rfl)
@[simp] theorem stores_evMentryWrite (s) : stores (evMentryWrite s) = stores s := by simp [evMentryWrite]
@[simp] theorem stores_evDebugHaltRequest (s) : stores (evDebugHaltRequest s) = stores s := by
  unfold evDebugHaltRequest
  split <;> simp
@[simp] theorem stores_evGangHeldClear (s) : stores (evGangHeldClear s) = stores s := (rfl)

/-! ### The sequencer: causes and words (Machine/SeqBase) -/

@[simp] theorem stores_upSeq (f s) : stores (upSeq f s) = stores s := (rfl)
@[simp] theorem stores_upRun (f s) : stores (upRun f s) = stores s := (rfl)
@[simp] theorem stores_operRaise (cause addr op handle tile detail s) : stores (operRaise cause addr op handle tile detail s) = stores s := (rfl)
@[simp] theorem sound_seqPut (off va bs s) (h : Sound (stores s)) : Sound (stores (seqPut off va bs s)) := by simp [seqPut, h]

/-! ### The sequencer: results (Machine/SeqResult) -/

@[simp] theorem stores_putStates (o w hs s) : stores (putStates o w hs s) = stores s :=
  stores_foldl (fun st x => by dsimp only; (repeat' split) <;> simp) _ _
@[simp] theorem stores_snapStep (w pos s) : stores (snapStep w pos s) = stores s := by simp [snapStep]
@[simp] theorem stores_stateopRun (o i ws s) : stores (stateopRun o i ws s).2 = stores s := by
  induction ws generalizing i s with
  | nil => rfl
  | cons w ws ih =>
    unfold stateopRun
    extract_lets r
    have hr : stores r.2 = stores s := by
      simp only [r]
      split
      · rfl
      · rfl
      · exact stores_grPerform _ _ _ s
    clear_value r
    split
    · exact (ih _ _).trans hr
    · exact (ih _ _).trans hr

/-! ### The sequencer: decode and issue (Machine/SeqDecode) -/

@[simp] theorem stores_decodeRaise (cause l i handle s) : stores (decodeRaise cause l i handle s) = stores s := (rfl)
@[simp] theorem sound_issueOne (id s) (h : Sound (stores s)) : Sound (stores (issueOne id s)) := by
  simp only [issueOne]
  (repeat' split) <;> simp [h]
@[simp] theorem sound_issuePass (s) (h : Sound (stores s)) : Sound (stores (issuePass s)) := by
  unfold issuePass
  split
  · exact h
  · exact sound_foldl (fun st i hst => sound_issueOne i st hst) _ h
@[simp] theorem stores_finishRun (s) : stores (finishRun s) = stores s := by
  unfold finishRun
  split <;> simp
@[simp] theorem sound_seqAfter (s) (h : Sound (stores s)) : Sound (stores (seqAfter s)) := by simp [seqAfter, h]
@[simp] theorem sound_onBc (op f s) (hf : ∀ l i t, stores (f l i t) = stores t) (h : Sound (stores s)) :
    Sound (stores (onBc op f s)) := by
  unfold onBc
  split
  · exact sound_ite (sound_seqAfter _ (by rwa [hf])) h
  · exact h
@[simp] theorem sound_evBytecodeNop (s) (h : Sound (stores s)) : Sound (stores (evBytecodeNop s)) := by
  unfold evBytecodeNop
  (repeat' split) <;> simp [h]
@[simp] theorem sound_evEndOp (s) (h : Sound (stores s)) : Sound (stores (evEndOp s)) := by simp [evEndOp, h]
@[simp] theorem stores_doDim (l i s) : stores (doDim l i s) = stores s := by
  unfold doDim
  (repeat' split) <;> simp
@[simp] theorem sound_evDim (s) (h : Sound (stores s)) : Sound (stores (evDim s)) := by simp [evDim, h]
@[simp] theorem stores_doView (l i s) : stores (doView l i s) = stores s := by
  simp only [doView]
  (repeat' split) <;> simp
@[simp] theorem sound_evView (s) (h : Sound (stores s)) : Sound (stores (evView s)) := by simp [evView, h]
@[simp] theorem stores_doAlloc (l i s) : stores (doAlloc l i s) = stores s := by
  simp only [doAlloc]
  (repeat' split) <;> simp
@[simp] theorem sound_evAlloc (s) (h : Sound (stores s)) : Sound (stores (evAlloc s)) := by simp [evAlloc, h]
@[simp] theorem stores_doFree (l i s) : stores (doFree l i s) = stores s := by
  unfold doFree
  split <;> simp
@[simp] theorem sound_evFree (s) (h : Sound (stores s)) : Sound (stores (evFree s)) := by simp [evFree, h]
@[simp] theorem stores_doLoop (l i s) : stores (doLoop l i s) = stores s := by
  unfold doLoop
  split <;> simp
@[simp] theorem sound_evLoop (s) (h : Sound (stores s)) : Sound (stores (evLoop s)) := by simp [evLoop, h]
@[simp] theorem stores_doEndloop (l i s) : stores (doEndloop l i s) = stores s := by
  unfold doEndloop
  split <;> simp
@[simp] theorem sound_evEndloop (s) (h : Sound (stores s)) : Sound (stores (evEndloop s)) := by simp [evEndloop, h]
@[simp] theorem stores_doBranch (zero l i s) : stores (doBranch zero l i s) = stores s := (rfl)
@[simp] theorem sound_evBrz (s) (h : Sound (stores s)) : Sound (stores (evBrz s)) := by simp [evBrz, h]
@[simp] theorem sound_evBrnz (s) (h : Sound (stores s)) : Sound (stores (evBrnz s)) := by simp [evBrnz, h]
@[simp] theorem stores_doCall (l i s) : stores (doCall l i s) = stores s := by simp [doCall]
@[simp] theorem sound_evCall (s) (h : Sound (stores s)) : Sound (stores (evCall s)) := by simp [evCall, h]
@[simp] theorem stores_doBcRet (l i s) : stores (doBcRet l i s) = stores s := by
  unfold doBcRet
  split <;> simp
@[simp] theorem sound_evBytecodeRet (s) (h : Sound (stores s)) : Sound (stores (evBytecodeRet s)) := by simp [evBytecodeRet, h]
@[simp] theorem sound_evFuse (s) (h : Sound (stores s)) : Sound (stores (evFuse s)) := by simp [evFuse, h]
@[simp] theorem sound_evSync (s) (h : Sound (stores s)) : Sound (stores (evSync s)) := by simp [evSync, h]
@[simp] theorem stores_doShard (l i s) : stores (doShard l i s) = stores s := by
  simp only [doShard]
  (repeat' split) <;> simp
@[simp] theorem sound_evShard (s) (h : Sound (stores s)) : Sound (stores (evShard s)) := by simp [evShard, h]
@[simp] theorem stores_enterOper (l0 i s) : stores (enterOper l0 i s) = stores s := by
  simp only [enterOper]
  (repeat' split) <;> simp

/-! ### The sequencer: operators and recipes (Machine/SeqRun) -/

@[simp] theorem sound_addCounter (off o d s) (h : Sound (stores s)) : Sound (stores (addCounter off o d s)) := by
  have h1 (bs : List Byte) : Sound (stores (seqPut off o.block bs s)) := sound_seqPut _ _ _ s h
  unfold addCounter
  extract_lets x s1
  exact sound_ite (by simpa using h1 _) (h1 _)
@[simp] theorem stores_sendAsks (l o s) : stores (sendAsks l o s) = stores s := by simp [sendAsks]
@[simp] theorem stores_farAnswer (s) : stores (farAnswer s) = stores s := by
  unfold farAnswer
  split <;> simp
/-- What else the tile work of an operator changes leaves the byte stores alone. -/
def OpOut.Frames (r : OpOut) : Prop := ∀ t, stores (r.post t) = stores t
theorem OpOut.frames_of (cells : List (Nat × Byte)) : (OpOut.of cells).Frames := fun _ => rfl
theorem scanOut_frames (s off o) : (scanOut s off o).Frames := by
  intro t
  unfold scanOut
  extract_lets d every all cells bad keep
  have hkeep : stores (keep t) = stores t :=
    stores_foldl (fun st x => stores_foldl (fun st h => frame_ite (by simp) (by simp)) _ st) _ t
  clear_value keep bad
  cases bad with
  | none => exact hkeep
  | some k => exact stores_operRaise _ _ _ _ _ _ t
theorem stateopOut_frames (s off o) : (stateopOut s off o).Frames := fun t => stores_stateopRun o 0 _ t
theorem dispatchOut_frames (s off o) : (dispatchOut s off o).Frames := by
  intro t
  unfold dispatchOut
  extract_lets
  split <;> rfl
theorem sound_tileWork (op f s) (hf : ∀ s off o, (f s off o).Frames) (h : Sound (stores s)) : Sound (stores (tileWork op f s)) := by
  unfold tileWork
  split
  · exact h
  next l o _ =>
    refine sound_ite h (sound_ite (by simpa using h) (sound_ite (by simpa using h) (sound_ite h ?_)))
    extract_lets r
    have hr : Sound (stores (r.post s)) := by rwa [hf]
    split
    · simpa using h
    · exact sound_ite h (sound_addCounter _ _ _ _ (by simpa using sound_engWrite _ _ _ (by simpa using hr)))
theorem sound_onOper (op) {f s} (hf : ∀ s off o, (f s off o).Frames) (h : Sound (stores s)) : Sound (stores (onOper op f s)) :=
  sound_ite (sound_tileWork op f s hf h) (by simp [h])
theorem sound_onOper_byElem (op f) {s} (h : Sound (stores s)) : Sound (stores (onOper op (byElem f) s)) :=
  sound_onOper op (fun _ _ _ => OpOut.frames_of _) h
@[simp] theorem sound_evMatmul (s) (h : Sound (stores s)) : Sound (stores (evMatmul s)) := sound_onOper _ (fun _ _ _ _ => rfl) h
@[simp] theorem sound_evBmatmul (s) (h : Sound (stores s)) : Sound (stores (evBmatmul s)) := sound_onOper _ (fun _ _ _ _ => rfl) h
@[simp] theorem sound_evConv (s) (h : Sound (stores s)) : Sound (stores (evConv s)) := sound_onOper_byElem _ _ h
@[simp] theorem sound_evEwise (s) (h : Sound (stores s)) : Sound (stores (evEwise s)) := sound_onOper_byElem _ _ h
@[simp] theorem sound_evReduce (s) (h : Sound (stores s)) : Sound (stores (evReduce s)) := sound_onOper_byElem _ _ h
@[simp] theorem sound_evSoftmax (s) (h : Sound (stores s)) : Sound (stores (evSoftmax s)) := sound_onOper_byElem _ _ h
@[simp] theorem sound_evNorm (s) (h : Sound (stores s)) : Sound (stores (evNorm s)) := sound_onOper_byElem _ _ h
@[simp] theorem sound_evGather (s) (h : Sound (stores s)) : Sound (stores (evGather s)) := sound_onOper _ (fun _ _ _ _ => rfl) h
@[simp] theorem sound_evScatter (s) (h : Sound (stores s)) : Sound (stores (evScatter s)) := sound_onOper _ (fun _ _ _ _ => rfl) h
@[simp] theorem sound_evPermute (s) (h : Sound (stores s)) : Sound (stores (evPermute s)) := sound_onOper_byElem _ _ h
@[simp] theorem sound_evConcat (s) (h : Sound (stores s)) : Sound (stores (evConcat s)) := sound_onOper_byElem _ _ h
@[simp] theorem sound_evConvert (s) (h : Sound (stores s)) : Sound (stores (evConvert s)) := sound_onOper_byElem _ _ h
@[simp] theorem sound_evQuant (s) (h : Sound (stores s)) : Sound (stores (evQuant s)) := sound_onOper _ (fun _ _ _ _ => rfl) h
@[simp] theorem sound_evAttend (s) (h : Sound (stores s)) : Sound (stores (evAttend s)) := sound_onOper _ (fun _ _ _ _ => rfl) h
@[simp] theorem sound_evKvappend (s) (h : Sound (stores s)) : Sound (stores (evKvappend s)) := sound_onOper _ (fun _ _ _ _ => rfl) h
@[simp] theorem sound_evScan (s) (h : Sound (stores s)) : Sound (stores (evScan s)) :=
  sound_ite (by simpa using h) (sound_onOper _ scanOut_frames h)
@[simp] theorem sound_evStateop (s) (h : Sound (stores s)) : Sound (stores (evStateop s)) :=
  sound_ite (by simpa using h) (sound_onOper _ stateopOut_frames h)
@[simp] theorem sound_evRoute (s) (h : Sound (stores s)) : Sound (stores (evRoute s)) := sound_onOper _ (fun _ _ _ _ => rfl) h
@[simp] theorem sound_evDispatch (s) (h : Sound (stores s)) : Sound (stores (evDispatch s)) := sound_onOper _ dispatchOut_frames h
@[simp] theorem sound_evCombine (s) (h : Sound (stores s)) : Sound (stores (evCombine s)) := sound_onOper _ (fun _ _ _ _ => rfl) h
@[simp] theorem sound_evCopy (s) (h : Sound (stores s)) : Sound (stores (evCopy s)) := sound_onOper _ (fun _ _ _ _ => rfl) h
theorem sound_postColl {l o w0 src dst n s t} (h : Sound (stores s)) (ht : postColl l o w0 src dst n s = some t) : Sound (stores t) := by
  unfold postColl at ht
  split at ht
  · cases ht
    simpa using h
  · dsimp only at ht
    split at ht
    · cases ht
    · cases ht
      simpa using sound_addCounter _ o 1 _ (sound_seqPut _ _ _ _ (by simpa using h))
@[simp] theorem sound_collWork (s) (h : Sound (stores s)) : Sound (stores (collWork s)) := by
  unfold collWork
  split
  · exact h
  next l o _ =>
    refine sound_ite h ?_
    extract_lets off p ran ias
    have hend {t : State} (ht : Sound (stores t)) :
        Sound (stores (if t.die.seq.raised.isEmpty then addCounter off o (-1) (ran t) else t)) :=
      sound_ite (sound_addCounter _ _ _ _ (by simpa [ran] using ht)) ht
    clear_value ran
    split
    · split
      next ht => exact hend (sound_postColl h ht)
      · exact h
    · split
      · simpa using h
      · refine sound_ite h (sound_ite (by simpa using h) ?_)
        dsimp only
        split
        next ht => exact hend (sound_postColl (sound_seqPut _ _ _ _ (by simpa using h)) ht)
        · exact h
@[simp] theorem sound_evCollective (s) (h : Sound (stores s)) : Sound (stores (evCollective s)) :=
  sound_ite (sound_collWork s h) (by simp [h])
@[simp] theorem sound_evKcall (s) (h : Sound (stores s)) : Sound (stores (evKcall s)) := by
  unfold evKcall
  (repeat' split) <;> simp [h]
@[simp] theorem sound_onWord (code f s) (hf : ∀ l o w t, Sound (stores t) → Sound (stores (f l o w t))) (h : Sound (stores s)) :
    Sound (stores (onWord code f s)) := by
  unfold onWord
  (repeat' split) <;> simp [h, hf]
@[simp] theorem stores_putOper (o s) : stores (putOper o s) = stores s := (rfl)
@[simp] theorem stores_doLoopr (x o w s) : stores (doLoopr x o w s) = stores s := by simp [doLoopr]
@[simp] theorem sound_evLoopr (s) (h : Sound (stores s)) : Sound (stores (evLoopr s)) := by simp [evLoopr, h]
@[simp] theorem stores_doTile (x o w s) : stores (doTile x o w s) = stores s := (rfl)
@[simp] theorem sound_evTile (s) (h : Sound (stores s)) : Sound (stores (evTile s)) := by simp [evTile, h]
@[simp] theorem stores_doBind (x o w s) : stores (doBind x o w s) = stores s := (rfl)
@[simp] theorem sound_evBind (s) (h : Sound (stores s)) : Sound (stores (evBind s)) := by simp [evBind, h]
@[simp] theorem sound_doEmit (l o w s) (h : Sound (stores s)) : Sound (stores (doEmit l o w s)) := by
  unfold doEmit
  split
  · simpa using h
  · refine sound_ite h (sound_ite (by simpa using h) ?_)
    simpa using sound_addCounter _ o 1 _ (by simpa using h)
@[simp] theorem sound_evEmit (s) (h : Sound (stores s)) : Sound (stores (evEmit s)) := sound_onWord 3 doEmit s sound_doEmit h
@[simp] theorem stores_doWaith (l o w s) : stores (doWaith l o w s) = stores s := by simp [doWaith]
@[simp] theorem sound_evWaith (s) (h : Sound (stores s)) : Sound (stores (evWaith s)) := by simp [evWaith, h]
@[simp] theorem stores_doSigh (l o w s) : stores (doSigh l o w s) = stores s := by
  unfold doSigh
  split <;> simp
@[simp] theorem sound_evSigh (s) (h : Sound (stores s)) : Sound (stores (evSigh s)) := by simp [evSigh, h]
@[simp] theorem stores_doAllocr (l o w s) : stores (doAllocr l o w s) = stores s := by
  simp only [doAllocr]
  (repeat' split) <;> simp
@[simp] theorem sound_evAllocr (s) (h : Sound (stores s)) : Sound (stores (evAllocr s)) := by simp [evAllocr, h]
@[simp] theorem stores_doFreer (l o w s) : stores (doFreer l o w s) = stores s := by simp [doFreer]
@[simp] theorem sound_evFreer (s) (h : Sound (stores s)) : Sound (stores (evFreer s)) := by simp [evFreer, h]
@[simp] theorem sound_doCollr (l o w s) (h : Sound (stores s)) : Sound (stores (doCollr l o w s)) := by
  unfold doCollr
  dsimp only
  split
  next ht => exact sound_postColl h ht
  · exact h
@[simp] theorem sound_evCollr (s) (h : Sound (stores s)) : Sound (stores (evCollr s)) := sound_onWord 8 doCollr s sound_doCollr h
@[simp] theorem sound_doEndr (l o w s) (h : Sound (stores s)) : Sound (stores (doEndr l o w s)) := by
  unfold doEndr
  split
  · exact sound_ite (by simpa using h) (by simpa using h)
  · exact sound_ite h (sound_addCounter _ _ _ _ (by simpa using h))
@[simp] theorem sound_evEndr (s) (h : Sound (stores s)) : Sound (stores (evEndr s)) := sound_onWord 9 doEndr s sound_doEndr h
@[simp] theorem stores_completeOper (o s0) : stores (completeOper o s0) = stores s0 := by simp [completeOper]
@[simp] theorem sound_collDone (l o desc s) (h : Sound (stores s)) : Sound (stores (collDone l o desc s)) :=
  sound_ite h (sound_ite (by simpa using h) (sound_ite h (sound_ite (by simpa using h) (sound_addCounter _ _ _ _ (by simpa using h)))))
@[simp] theorem sound_evOperatorComplete (s) (h : Sound (stores s)) : Sound (stores (evOperatorComplete s)) := by
  unfold evOperatorComplete
  split
  · simpa using h
  · split
    · dsimp only
      split
      · exact sound_seqAfter _ (by simpa using h)
      · simpa using h
    · refine sound_ite ?_ (sound_seqAfter s h)
      split
      · split
        · exact sound_collDone _ _ _ s h
        · exact h
      · exact h
@[simp] theorem stores_evSqStart (s) : stores (evSqStart s) = stores s := by
  unfold evSqStart
  (repeat' split) <;> simp
@[simp] theorem stores_releaseAll (p s) : stores (releaseAll p s) = stores s := by simp [releaseAll]
@[simp] theorem stores_discardRecs (p s) : stores (discardRecs p s) = stores s := by simp [discardRecs]
@[simp] theorem stores_stopProgram (cause s) : stores (stopProgram cause s) = stores s := by
  unfold stopProgram
  split <;> simp
@[simp] theorem stores_evSqStop (s) : stores (evSqStop s) = stores s := by simp [evSqStop]
@[simp] theorem stores_pushReport (r s) : stores (pushReport r s) = stores s := by simp [pushReport]
@[simp] theorem stores_evSqPopReport (s) : stores (evSqPopReport s) = stores s := by
  unfold evSqPopReport
  split <;> simp
@[simp] theorem sound_evProgramFaultStop (s) (h : Sound (stores s)) : Sound (stores (evProgramFaultStop s)) := by
  unfold evProgramFaultStop
  (repeat' split) <;> simp [h]

/-! ### The sequencer: the loader (Machine/SeqLoad) -/

@[simp] theorem sound_putTags (ia n s) (h : Sound (stores s)) : Sound (stores (putTags ia n s)) :=
  sound_foldl (fun st _ hst => sound_engWrite _ _ st hst) _ h
@[simp] theorem sound_putInits (b p s) (h : Sound (stores s)) : Sound (stores (putInits b p s)) :=
  sound_foldl (fun st _ hst => sound_ite (sound_seqPut _ _ _ st hst) hst) _ h
@[simp] theorem sound_putKernels (b p a s) (h : Sound (stores s)) : Sound (stores (putKernels b p a s)) :=
  sound_foldl (fun st _ hst => by simpa using sound_putTags _ _ _ (sound_seqPut _ _ _ st hst)) _ h
@[simp] theorem sound_evVisynLoad (s) (h : Sound (stores s)) : Sound (stores (evVisynLoad s)) := by
  unfold evVisynLoad
  dsimp only
  split
  · simpa using h
  · simpa using sound_putKernels _ _ _ _ (sound_putInits _ _ s h)

/-! ### Bring-up, security, health and power (Machine/Boot) -/

@[simp] theorem stores_upBoot (f s) : stores (upBoot f s) = stores s := (rfl)
@[simp] theorem sound_enterSafe (step code unit s) : Sound (stores (enterSafe step code unit s)) := ⟨rfl, rfl⟩
@[simp] theorem stores_bringUp (s img) : stores (bringUp s img) = stores s := by
  unfold bringUp
  split <;> simp
@[simp] theorem sound_evColdReset (s) : Sound (stores (evColdReset s)) := by
  unfold evColdReset
  extract_lets a boot boot0 upto m dead core die s1
  have h1 : Sound (stores s1) := ⟨rfl, rfl⟩
  clear_value s1
  split
  · exact sound_enterSafe ..
  · exact sound_enterSafe ..
  · exact (sound_foldl (fun st img hst => by simpa using hst) _ h1).upCore fun _ => rfl
@[simp] theorem sound_evCoreResetToZero (s) (h : Sound (stores s)) : Sound (stores (evCoreResetToZero s)) := by
  have h1 : Sound (stores (s.upCore zeroCore)) := ⟨h.mem, rfl⟩
  exact sound_ite h1 (sound_ite (h1.upCore fun _ => rfl) (by simpa using h1))
@[simp] theorem stores_coreOffline (cid lost s) : stores (coreOffline cid lost s) = stores s := by
  simp only [coreOffline]
  (repeat' split) <;> simp
@[simp] theorem stores_peerLost (cid s) : stores (peerLost cid s) = stores s := by
  unfold peerLost
  split <;> simp
@[simp] theorem stores_spareStruct (kind index way lost s) : stores (spareStruct kind index way lost s) = stores s := by
  unfold spareStruct
  split <;> simp
@[simp] theorem stores_structEvent (kind index way bad s) : stores (structEvent kind index way bad s) = stores s := by simp [structEvent]
@[simp] theorem stores_weighEvents (s) : stores (weighEvents s) = stores s := by simp [weighEvents]
@[simp] theorem sound_evLineRead (s) (h : Sound (stores s)) : Sound (stores (evLineRead s)) := by
  unfold evLineRead
  (repeat' split) <;> simp [h]
@[simp] theorem stores_evAttestationQuote (s) : stores (evAttestationQuote s) = stores s := by simp [evAttestationQuote]
@[simp] theorem sound_evTenantTurnover (s) : Sound (stores (evTenantTurnover s)) := by
  unfold evTenantTurnover
  extract_lets s0 s1 s2 boot b0 s3 m
  have h2 : Sound (stores s2) := ⟨rfl, rfl⟩
  clear_value s2
  split
  · exact sound_enterSafe ..
  · exact sound_enterSafe ..
  · simpa [s3] using h2
@[simp] theorem stores_evPowerLimit (s) : stores (evPowerLimit s) = stores s := (rfl)
@[simp] theorem stores_evPowerAverageFalls (s) : stores (evPowerAverageFalls s) = stores s := (rfl)
@[simp] theorem stores_evArrayPowerGate (s) : stores (evArrayPowerGate s) = stores s := by simp [evArrayPowerGate]
@[simp] theorem stores_evArrayWake (s) : stores (evArrayWake s) = stores s := by simp [evArrayWake]
@[simp] theorem sound_evThermalTrip (s) : Sound (stores (evThermalTrip s)) := sound_enterSafe ..
@[simp] theorem stores_evRegisterWrite (s) : stores (evRegisterWrite s) = stores s := by
  unfold evRegisterWrite
  split <;> simp

/-! ### The issue of a bundle, over every syllable (Machine/Bundle) -/

@[simp] theorem stores_clearTold (s) : stores (clearTold s) = stores s := by simp [clearTold]
@[simp] theorem stores_fillHead (ws s) : stores (fillHead ws s) = stores s := by simp [fillHead]
theorem issueOf_sound {i a} (h : issueOf i = some a) : a.Sound := by
  cases i with
  | add f | sub f | mul f | mulh f | mulhn f | and f | or f | xor f | andn f | shl f | shr f | sra f | rol f | min f | max f | minn f
  | maxn f | clz f | ctz f | popc f | mov f | movh f | sext f | zext f | shadd1 f | shadd2 f | shadd3 f | pget f | fmin f | fmax f
  | fclass f =>
    cases h
    exact (Act.of_sound _ _).2 (sAct_sound ..)
  | div f | divn f | rem f | remn f =>
    cases h
    exact (Act.of_sound _ _).2 (divAct_sound ..)
  | cmpeq f | cmpne f | cmplt f | cmple f | cmpltn f | cmplen f | pand f | por f | pxor f | pandn f | pset f | pall f =>
    cases h
    exact (Act.of_sound _ _).2 (pAct_sound ..)
  | fadd f | fsub f | fmul f | fma f | ftoi f | itof f | fcvt f =>
    cases h
    exact (Act.of_sound _ _).2 (fpAct_sound ..)
  | fdiv f | fsqrt f =>
    cases h
    exact (Act.of_sound _ _).2 (fdivAct_sound ..)
  | fcmpeq f | fcmplt f | fcmple f | fcmpun f =>
    cases h
    exact (Act.of_sound _ _).2 (fcmpAct_sound ..)
  | vadd f | vsub f | vmul f | vfma f | vfms f | vmin f | vmax f | vminn f | vmaxn f | vabs f | vneg f | vmulh f | vmulhn f | vsadd f
  | vssub f | vand f | vor f | vxor f | vandn f | vnot f | vshl f | vshr f | vsra f | vclz f | vpopc f | vcmpeq f | vcmpne f | vcmplt f
  | vcmple f | vcmpltn f | vcmplen f | vcmpun f | vsel f | vmov f | vbcast f | vxmov f | vperm f | vperm2 f | vslideup f | vslidedn f
  | vzip f | vunzip f | viota f | vcompress f | vexpand f | vextract f | vredmax f | vredmin f | vscan f | vargmax f | vargmin f | vcvt f
  | vpack4 f | vunpack4 f | vscale f | vplane f | vunplane f | vdot4 f =>
    cases h
    exact (Act.of_sound _ _).2 (vAct_sound ..)
  | vexp2 f | vexp f | vlog2 f | vln f | vrcp f | vrsq f | vsqrt f | vtanh f | vsigm f | vsin f | vcos f | verf f | vgelu f =>
    cases h
    exact (Act.of_sound _ _).2 (fAct_sound ..)
  | ldg f | ldgn f =>
    cases h
    exact (Act.of_sound _ _).2 (ldgAct_sound ..)
  | aadd f | amin f | amax f | aminn f | amaxn f | aand f | aor f | axor f | axchg f | acas f =>
    cases h
    exact (Act.of_sound _ _).2 (atomAct_sound ..)
  | vaor f | vaadd f =>
    cases h
    exact (Act.of_sound _ _).2 (vecAtomAct_sound ..)
  | pref f | resid f | icpin f | dcwb f | dcinv f =>
    cases h
    exact (Act.of_sound _ _).2 (hintAct_sound ..)
  | kseta f | ksetb f | kfill f | kclr f =>
    cases h
    exact (Act.of_sound _ _).2 (kAct_sound ..)
  | cpyin f | cpyout f | cpykv f =>
    cases h
    exact (Act.of_sound _ _).2 (tileAct_sound ..)
  | sopen f | sclose f | ssnap f | sroll f | sfork f | sdrop f | spin f | sqry f =>
    cases h
    exact (Act.of_sound _ _).2 (grotAct_sound ..)
  | br f | bra f | brf f | jr f | ret f | bloopw f | bloope f =>
    cases h
    exact (Act.of_sound _ _).2 (ctlAct_sound ..)
  | bl f | jrl f =>
    cases h
    exact (Act.of_sound _ _).2 (linkAct_sound ..)
  | bar f | barw f =>
    cases h
    exact (Act.of_sound _ _).2 (barWaitAct_sound ..)
  | nop f =>
    cases h
    exact (Act.of_sound _ _).2 (actNop_sound ..)
  | mfs f =>
    cases h
    exact (Act.of_sound _ _).2 (actMfs_sound ..)
  | mts f =>
    cases h
    exact (Act.of_sound _ _).2 (actMts_sound ..)
  | probe f =>
    cases h
    exact (Act.of_sound _ _).2 (actProbe_sound ..)
  | vredadd f =>
    cases h
    exact (Act.of_sound _ _).2 (actVredadd_sound ..)
  | vcvtq f =>
    cases h
    exact (Act.of_sound _ _).2 (actVcvtq_sound ..)
  | lds f =>
    cases h
    exact (Act.of_sound _ _).2 (actLds_sound ..)
  | ldsn f =>
    cases h
    exact (Act.of_sound _ _).2 (actLdsn_sound ..)
  | sts f =>
    cases h
    exact (Act.of_sound _ _).2 (actSts_sound ..)
  | ldv f =>
    cases h
    exact (Act.of_sound _ _).2 (actLdv_sound ..)
  | stv f =>
    cases h
    exact (Act.of_sound _ _).2 (actStv_sound ..)
  | ldvx f =>
    cases h
    exact (Act.of_sound _ _).2 (actLdvx_sound ..)
  | stvx f =>
    cases h
    exact (Act.of_sound _ _).2 (actStvx_sound ..)
  | ldvb f =>
    cases h
    exact (Act.of_sound _ _).2 (actLdvb_sound ..)
  | ldvs f =>
    cases h
    exact (Act.of_sound _ _).2 (actLdvs_sound ..)
  | stg f =>
    cases h
    exact (Act.of_sound _ _).2 (actStg_sound ..)
  | ldgv f =>
    cases h
    exact (Act.of_sound _ _).2 (actLdgv_sound ..)
  | stgv f =>
    cases h
    exact (Act.of_sound _ _).2 (actStgv_sound ..)
  | lda f =>
    cases h
    exact (Act.of_sound _ _).2 (actLda_sound ..)
  | stl f =>
    cases h
    exact (Act.of_sound _ _).2 (actStl_sound ..)
  | afadd f =>
    cases h
    exact (Act.of_sound _ _).2 (actAfadd_sound ..)
  | drain f =>
    cases h
    exact (Act.of_sound _ _).2 (actDrain_sound ..)
  | icunpin f =>
    cases h
    exact (Act.of_sound _ _).2 (actIcunpin_sound ..)
  | mma f =>
    cases h
    exact (Act.of_sound _ _).2 (actMma_sound ..)
  | mmas f =>
    cases h
    exact (Act.of_sound _ _).2 (actMmas_sound ..)
  | mconv f =>
    cases h
    exact (Act.of_sound _ _).2 (actMconv_sound ..)
  | mzero f =>
    cases h
    exact (Act.of_sound _ _).2 (actMzero_sound ..)
  | mread f =>
    cases h
    exact (Act.of_sound _ _).2 (actMread_sound ..)
  | mwrite f =>
    cases h
    exact (Act.of_sound _ _).2 (actMwrite_sound ..)
  | mstore f =>
    cases h
    exact (Act.of_sound _ _).2 (actMstore_sound ..)
  | mplane f =>
    cases h
    exact (Act.of_sound _ _).2 (actMplane_sound ..)
  | msett f =>
    cases h
    exact (Act.of_sound _ _).2 (actMsett_sound ..)
  | mfence f =>
    cases h
    exact (Act.of_sound _ _).2 (actMfence_sound ..)
  | lsw f =>
    cases h
    exact (Act.of_sound _ _).2 (actLsw_sound ..)
  | lsr f =>
    cases h
    exact (Act.of_sound _ _).2 (actLsr_sound ..)
  | cpych f =>
    cases h
    exact (Act.of_sound _ _).2 (actCpych_sound ..)
  | cpyst f =>
    cases h
    exact (Act.of_sound _ _).2 (actCpyst_sound ..)
  | cpymsg f =>
    cases h
    exact (Act.of_sound _ _).2 (actCpymsg_sound ..)
  | abclr f =>
    cases h
    exact (Act.of_sound _ _).2 (actAbclr_sound ..)
  | abwait f =>
    cases h
    exact (Act.of_sound _ _).2 (actAbwait_sound ..)
  | semset f =>
    cases h
    exact (Act.of_sound _ _).2 (actSemset_sound ..)
  | semadd f =>
    cases h
    exact (Act.of_sound _ _).2 (actSemadd_sound ..)
  | semrd f =>
    cases h
    exact (Act.of_sound _ _).2 (actSemrd_sound ..)
  | semwait f =>
    cases h
    exact (Act.of_sound _ _).2 (actSemwait_sound ..)
  | send f =>
    cases h
    exact (Act.of_sound _ _).2 (actSend_sound ..)
  | recv f =>
    cases h
    exact (Act.of_sound _ _).2 (actRecv_sound ..)
  | recvp f =>
    cases h
    exact (Act.of_sound _ _).2 (actRecvp_sound ..)
  | mbstat f =>
    cases h
    exact (Act.of_sound _ _).2 (actMbstat_sound ..)
  | coll f =>
    cases h
    exact (Act.of_sound _ _).2 (actColl_sound ..)
  | collarm f =>
    cases h
    exact (Act.of_sound _ _).2 (actCollarm_sound ..)
  | bwset f =>
    cases h
    exact (Act.of_sound _ _).2 (actBwset_sound ..)
  | spawn f =>
    cases h
    exact (Act.of_sound _ _).2 (actSpawn_sound ..)
  | take f =>
    cases h
    exact (Act.of_sound _ _).2 (actTake_sound ..)
  | steal f =>
    cases h
    exact (Act.of_sound _ _).2 (actSteal_sound ..)
  | join f =>
    cases h
    exact (Act.of_sound _ _).2 (actJoin_sound ..)
  | domset f =>
    cases h
    exact (Act.of_sound _ _).2 (actDomset_sound ..)
  | bara f =>
    cases h
    exact (Act.of_sound _ _).2 (actBara_sound ..)
  | yield f =>
    cases h
    exact (Act.of_sound _ _).2 (actYield_sound ..)
  | endt f =>
    cases h
    exact (Act.of_sound _ _).2 (actEndt_sound ..)
  | halt f =>
    cases h
    exact (Act.of_sound _ _).2 (actHalt_sound ..)
  | trap f =>
    cases h
    exact (Act.of_sound _ _).2 (actTrap_sound ..)
  | bkpt f =>
    cases h
    exact (Act.of_sound _ _).2 (actBkpt_sound ..)
  | eret f =>
    cases h
    exact (Act.of_sound _ _).2 (actEret_sound ..)
  | wfe f =>
    cases h
    exact (Act.of_sound _ _).2 (actWfe_sound ..)
  | prio f =>
    cases h
    exact (Act.of_sound _ _).2 (actPrio_sound ..)
  | _ => cases h
theorem exec_of_issueOf {i a} (h : issueOf i = some a) (s) : exec i s = .next (issueActs [a] s) := by
  cases i <;> cases h <;> rfl
@[simp] theorem sound_issueWords (ws s) (h : Sound (stores s)) : Sound (stores (issueWords ws s)) := by
  unfold issueWords
  split
  · refine sound_issueActs (fun a ha => ?_) h
    obtain ⟨i, -, hi⟩ := List.mem_filterMap.1 ha
    exact issueOf_sound hi
  · exact sound_finishCycle _ (sound_takeTrap _ _ h)
  · exact sound_finishCycle _ (sound_takeTrap _ _ h)
@[simp] theorem sound_issueFetched (out s) (h : Sound (stores s)) : Sound (stores (issueFetched out s)) := by
  unfold issueFetched
  split
  · simpa using sound_finishCycle _ (sound_takeTrap _ _ h)
  · exact sound_finishCycle _ (by simpa using h)
  · exact sound_finishCycle _ (by simpa using h)
  next ws =>
    have h1 : Sound (stores (fillHead ws s)) := by simpa using h
    rw [stores_clearTold]
    exact sound_ite (sound_issueActs (by simp) h1) (sound_issueWords ws _ h1)
@[simp] theorem sound_evBundleIssue (s) (h : Sound (stores s)) : Sound (stores (evBundleIssue s)) :=
  sound_ite (sound_finishCycle s h) (sound_serveHints _ (sound_issueFetched _ _ (by simpa using h)))

/-! ### Every step (Machine/Step) -/

theorem exec_sound {i s t} (h : Sound (stores s)) (ht : exec i s = .next t) : Sound (stores t) := by
  cases hi : issueOf i with
  | some a =>
    rw [exec_of_issueOf hi] at ht
    cases ht
    exact sound_issueActs (by simpa using issueOf_sound hi) h
  | none =>
    -- one case is left for each step without an encoding: its own lemma above closes it
    cases i <;> cases hi <;> cases ht <;> simp [h]
theorem step_sound {s t} (h : Sound (stores s)) (ht : step s = .next t) : Sound (stores t) := by
  unfold step at ht
  split at ht
  · split at ht
    · exact exec_sound (by exact h) ht
    · cases ht
      exact h
  · split at ht
    · cases ht
    · split at ht
      · exact exec_sound (by exact h) ht
      · split at ht <;> exact exec_sound (by exact h) ht
/-- Settles O58: a step executes an instruction, or drops an input; and what executes leaves the byte stores alone, clears them, or changes
them by the writes of `Memory`, which keep the canonical form. -/
theorem stepKeepsInv : Obligations.StepKeepsInv := by
  intro s t h ht
  exact (inv_iff_sound t).2 (step_sound ((inv_iff_sound s).1 h) ht)

end Sys2Proof.Machine
end

section
/-! PROOF. Bring-up, quotes, turnover, power and the writes of management registers (R6, R374 to R382; O54). Each step is first brought
to the state that it answers on the branch an obligation names; what the obligation says of that state then holds by computation. -/
namespace Sys2Proof.Machine

/-! ### Measured stages, and what they leave (R376) -/

theorem measureStages_keeps (n : Nat) (imgs : List (List Byte)) (keys : List (Nat × Nat)) (b : Boot) :
    ∃ mreg mlog, (measureStages n imgs keys b).1 = { b with mreg := mreg, mlog := mlog } := by
  unfold measureStages
  refine List.foldlRecOn (motive := fun acc : Boot × Option Nat => ∃ mreg mlog, acc.1 = { b with mreg := mreg, mlog := mlog })
    _ _ ⟨b.mreg, b.mlog, rfl⟩ fun acc ⟨mreg, mlog, h⟩ k _ => ?_
  split
  · exact ⟨mreg, mlog, h⟩
  · exact ⟨mreg, mlog, h⟩
  · split
    · exact ⟨_, _, by rw [h]; rfl⟩
    · exact ⟨mreg, mlog, h⟩

/-! ### Bring-up (R374) -/

@[simp] theorem boot_applyGroups (s : State) : (applyGroups s).die.boot = s.die.boot := by
  unfold applyGroups
  exact frame_foldl (g := fun t : State => t.die.boot) (by intros; rfl) _ s
@[simp] theorem core_applyGroups (s : State) : (applyGroups s).core = s.core := by
  unfold applyGroups
  exact frame_foldl (g := State.core) (by intros; rfl) _ s
theorem boot_bringUp (s : State) (img : List Byte) : (bringUp s img).die.boot = s.die.boot := by
  unfold bringUp
  split
  · rfl
  · exact boot_applyGroups _
  · rfl
  · rfl
theorem core_bringUp (s : State) (img : List Byte) : (bringUp s img).core = s.core := by
  unfold bringUp
  split
  · rfl
  · exact core_applyGroups _
  · rfl
  · rfl

/-- What BRSTAT and the registers of R374 hold as a cold reset begins. -/
def coldBoot (s : State) : Boot :=
  { resetBoot with fuses := s.die.boot.fuses, draws := s.die.boot.draws, degr := s.arg.b || !s.arg.nats.isEmpty }
/-- The machine as step 7 of R374 leaves it, before what the control cores write. -/
def coldState (s : State) : State :=
  { s with
    core := { zeroCore s.core with sys := resetSys, offline := s.arg.nats.contains s.core.cid.toNat }
    die := coldDie s.arg.nats { (measureStages 4 s.arg.images s.arg.keys (coldBoot s)).1 with ready := true, step := 8 } s.die }

theorem evColdReset_of_measured {s : State} (hf : s.arg.fail = none)
    (hm : (measureStages 4 s.arg.images s.arg.keys (coldBoot s)).2 = none) :
    evColdReset s = ((s.arg.images.drop 4).foldl bringUp (coldState s)).upCore fun c =>
      { c with run := if c.offline then .stopped else .idle, sys := { c.sys with mentry := s.arg.x &&& ~~~3 } } := by
  have h8 : stagesBy 8 = 4 := by decide
  unfold coldBoot at hm
  simp only [evColdReset, hf, h8, hm]
  rfl
theorem evColdReset_of_failed {s : State} {st code unit : Nat} (hf : s.arg.fail = some (st, code, unit))
    (hm : (measureStages (stagesBy st) s.arg.images s.arg.keys (coldBoot s)).2 = none) :
    evColdReset s = enterSafe st code unit (upBoot (fun _ => (measureStages (stagesBy st) s.arg.images s.arg.keys (coldBoot s)).1) s) := by
  unfold coldBoot at hm ⊢
  simp only [evColdReset, hf, hm]
theorem evColdReset_of_unverified {s : State} {k : Nat} (hf : s.arg.fail = none)
    (hm : (measureStages 4 s.arg.images s.arg.keys (coldBoot s)).2 = some k) :
    evColdReset s = enterSafe (stageStep k) 1 0 (upBoot (fun _ => (measureStages 4 s.arg.images s.arg.keys (coldBoot s)).1) s) := by
  have h8 : stagesBy 8 = 4 := by decide
  unfold coldBoot at hm ⊢
  simp only [evColdReset, hf, h8, hm]

theorem coldReset_ready {s : State} (hf : s.arg.fail = none) (hm : (measureStages 4 s.arg.images s.arg.keys (coldBoot s)).2 = none)
    (ho : s.arg.nats.contains s.core.cid.toNat = false) :
    ∃ t, exec .coldReset s = .next t ∧ t.core.run = .idle ∧ t.core.sys.mentry = s.arg.x &&& ~~~3 ∧ t.core.regs = resetRegs
      ∧ t.core.task = none ∧ t.die.mem = [] ∧ t.core.spad = [] ∧ t.die.boot.ready = true ∧ t.die.boot.safe = false
      ∧ t.die.boot.step = 8 ∧ t.die.boot.degr = (s.arg.b || !s.arg.nats.isEmpty)
      ∧ t.die.boot.mreg = (measureStages 4 s.arg.images s.arg.keys (coldBoot s)).1.mreg := by
  refine ⟨_, congrArg Host.Outcome.next (evColdReset_of_measured hf hm), ?_⟩
  have hcore : ((s.arg.images.drop 4).foldl bringUp (coldState s)).core = (coldState s).core :=
    frame_foldl (g := State.core) core_bringUp _ _
  have hboot : ((s.arg.images.drop 4).foldl bringUp (coldState s)).die.boot = (coldState s).die.boot :=
    frame_foldl (g := fun t : State => t.die.boot) boot_bringUp _ _
  have hmem : stores ((s.arg.images.drop 4).foldl bringUp (coldState s)) = stores (coldState s) := stores_foldl stores_bringUp _ _
  generalize (s.arg.images.drop 4).foldl bringUp (coldState s) = t at hcore hboot hmem
  obtain ⟨mreg, mlog, hk⟩ := measureStages_keeps 4 s.arg.images s.arg.keys (coldBoot s)
  have hoff : t.core.offline = false := by rw [hcore]; exact ho
  exact ⟨by simp [State.upCore, hoff], rfl, congrArg CoreSt.regs hcore, congrArg CoreSt.task hcore, congrArg Prod.fst hmem,
    congrArg Prod.snd hmem, congrArg Boot.ready hboot, (congrArg Boot.safe hboot).trans (congrArg Boot.safe hk),
    congrArg Boot.step hboot, (congrArg Boot.degr hboot).trans (congrArg Boot.degr hk), (congrArg Boot.mreg hboot).trans rfl⟩

theorem coldReset_failed {s : State} {st code unit : Nat} (hf : s.arg.fail = some (st, code, unit))
    (hm : (measureStages (stagesBy st) s.arg.images s.arg.keys (coldBoot s)).2 = none) :
    ∃ t, exec .coldReset s = .next t ∧ t.core.run = .reset ∧ t.die.boot.ready = false ∧ t.die.boot.safe = true
      ∧ t.die.boot.step = BitVec.ofNat 8 st ∧ t.die.boot.code = BitVec.ofNat 8 code ∧ t.die.boot.unit = BitVec.ofNat 16 unit
      ∧ t.die.boot.mreg = (measureStages (stagesBy st) s.arg.images s.arg.keys (coldBoot s)).1.mreg :=
  ⟨_, congrArg Host.Outcome.next (evColdReset_of_failed hf hm), rfl, rfl, rfl, rfl, rfl, rfl, rfl⟩
theorem coldReset_unverified {s : State} {k : Nat} (hf : s.arg.fail = none)
    (hm : (measureStages 4 s.arg.images s.arg.keys (coldBoot s)).2 = some k) :
    ∃ t, exec .coldReset s = .next t ∧ t.core.run = .reset ∧ t.die.boot.safe = true ∧ t.die.boot.code = 1
      ∧ t.die.boot.step = BitVec.ofNat 8 (stageStep k) :=
  ⟨_, congrArg Host.Outcome.next (evColdReset_of_unverified hf hm), rfl, rfl, rfl, rfl⟩

theorem coreReset_enters {s : State} (hb : s.arg.b = false) (hm : mentryOk s.core.sys.mentry = true) :
    ∃ t, exec .coreResetToZero s = .next t ∧ t.core.mon = true ∧ t.core.run = .running
      ∧ (stream t).q0 = s.core.sys.mentry &&& ~~~3 ∧ t.core.regs = resetRegs ∧ t.core.spad = [] ∧ t.core.agent = s.core.agent
      ∧ t.core.cid = s.core.cid ∧ t.core.sys.mentry = s.core.sys.mentry ∧ t.die = s.die := by
  have h : evCoreResetToZero s = (s.upCore zeroCore).upCore fun c =>
      { c with run := .running, mon := true, mstream := ⟨c.sys.mentry &&& ~~~3, 1, 1, 0, none, none, none⟩ } := by
    unfold evCoreResetToZero
    rw [hb]
    exact if_pos hm
  exact ⟨_, congrArg Host.Outcome.next h, rfl, rfl, rfl, rfl, rfl, rfl, rfl, rfl, rfl⟩
theorem coreReset_stops {s : State} (hb : s.arg.b = false) (hm : mentryOk s.core.sys.mentry = false) :
    ∃ t, exec .coreResetToZero s = .next t ∧ t.core.run = .stopped := by
  have h : evCoreResetToZero s = stopCore (s.upCore zeroCore) 0 := by
    unfold evCoreResetToZero
    rw [hb]
    exact if_neg fun h : mentryOk s.core.sys.mentry = true => Bool.false_ne_true (hm.symm.trans h)
  exact ⟨_, congrArg Host.Outcome.next h, rfl⟩

/-! ### Quotes and turnover (R377, R381) -/

theorem evAttestationQuote_of_nonce {s : State} (hn : s.arg.bytes.length = 48) :
    evAttestationQuote s = (upBoot (fun b => { b with quoted := true, draws := b.draws + 1 }) s).send
      (.quote (quoteBody s.arg.bytes s.die.boot) (deviceSign s.die.boot.draws (quoteBody s.arg.bytes s.die.boot))) :=
  if_neg (not_not_intro hn)

theorem boot_stopProgram (cause : BitVec 8) (s : State) : (stopProgram cause s).die.boot = s.die.boot := by
  unfold stopProgram
  split
  · rfl
  next l _ =>
    extract_lets s1 mine s2
    have h1 : s1.die.boot = s.die.boot := by
      simp only [s1, discardRecs, releaseAll]
      exact frame_foldl (g := fun t : State => t.die.boot) (by intros; rfl) _ s
    have h2 : s2.die.boot = s1.die.boot := by
      simp only [s2]
      split <;> rfl
    exact h2.trans h1

/-- BRSTAT and the registers of R377 as a turnover leaves them, before the stages are measured again. -/
def turnoverBoot (s : State) : Boot :=
  { s.die.boot with
    mreg := Vector.replicate 4 0, turnovers := s.die.boot.turnovers + 1, quoted := false, step := 9
    draws := s.die.boot.draws + 512, degr := s.die.boot.degr || s.arg.b }

theorem evTenantTurnover_of_measured {s : State} (hf : s.arg.fail = none)
    (hm : (measureStages 4 s.arg.images s.arg.keys (turnoverBoot s)).2 = none) (hn : s.arg.nats = []) :
    evTenantTurnover s = upBoot (fun _ => (measureStages 4 s.arg.images s.arg.keys (turnoverBoot s)).1)
      { stopProgram 0 s with
        core := cleanCore (stopProgram 0 s).core, die := cleanDie (stopProgram 0 s).die.boot.draws (stopProgram 0 s).die } := by
  unfold evTenantTurnover
  extract_lets s0 s1 s2 boot b0 s3 m
  have h1 : s1 = stopProgram 0 s := by simp only [s1, hn, List.foldl_nil, s0]
  have hb : b0 = turnoverBoot s := by
    have hboot : boot = s.die.boot := (congrArg (fun t : State => t.die.boot) h1).trans (boot_stopProgram 0 s)
    simp only [b0, hboot, turnoverBoot]
  simp only [m, hb, hm, hf, s3, s2, h1]
  rfl

theorem turnover_cleans {s : State} (hf : s.arg.fail = none)
    (hm : (measureStages 4 s.arg.images s.arg.keys (turnoverBoot s)).2 = none) (hn : s.arg.nats = []) :
    ∃ t, exec .tenantTurnover s = .next t ∧ t.die.mem = [] ∧ t.core.spad = [] ∧ t.core.regs = resetRegs ∧ t.core.mbox = []
      ∧ t.core.snap = [] ∧ t.core.task = none ∧ t.die.disp.fifo = [] ∧ t.die.disp.gangs = [] ∧ t.die.seq.programs = []
      ∧ t.die.boot.turnovers = s.die.boot.turnovers + 1 ∧ t.die.links.tqint = Vector.replicate 37 0 := by
  obtain ⟨mreg, mlog, hk⟩ := measureStages_keeps 4 s.arg.images s.arg.keys (turnoverBoot s)
  exact ⟨_, congrArg Host.Outcome.next (evTenantTurnover_of_measured hf hm hn), rfl, rfl, rfl, rfl, rfl, rfl, rfl, rfl, rfl,
    congrArg Boot.turnovers hk, rfl⟩

/-! ### Power (R382) -/

theorem arrayPowerGate_waits {s : State} (hb : s.arg.b = false) (hc : s.cycle < s.die.boot.arraySince + 65536) :
    exec .arrayPowerGate s = .next s := by
  refine congrArg Host.Outcome.next ?_
  simp [evArrayPowerGate, hb, Nat.not_le.2 hc]
theorem arrayPowerGate_gates {s : State} (hb : s.arg.b = false) (hr : s.core.mxRun = none) (hq : s.core.mxQueue = [])
    (hc : s.die.boot.arraySince + 65536 ≤ s.cycle) :
    ∃ t, exec .arrayPowerGate s = .next t ∧ BitVec.ofNat 9 (packageCore s) ∈ t.die.boot.gated ∧ t.core = s.core := by
  refine ⟨_, rfl, ?_, ?_⟩
  · simp only [evArrayPowerGate, hb, hr, hq, hc, upBoot, State.upDie]
    by_cases hg : BitVec.ofNat 9 (packageCore s) ∈ s.die.boot.gated <;> simp [hg]
  · simp [evArrayPowerGate, hb, hr, hq, hc, upBoot]
theorem arrayWake_waits {s : State} (hb : s.arg.b = false) (hc : s.cycle < s.die.boot.wakeSince + 8400) :
    exec .arrayWake s = .next s := by
  refine congrArg Host.Outcome.next ?_
  simp [evArrayWake, hb, hc]
theorem arrayWake_admits {s : State} (hb : s.arg.b = false) (hc : s.die.boot.wakeSince + 8400 ≤ s.cycle) {k : BitVec 9}
    (hk : k ∈ arraysAsking s) (hg : k.toNat % 8 = s.arg.n % 8) :
    ∃ t, exec .arrayWake s = .next t ∧ k ∉ t.die.boot.gated ∧ t.die.boot.wakeSince = s.cycle
      ∧ (∀ j ∈ s.die.boot.gated, j.toNat % 8 ≠ s.arg.n % 8 → j ∈ t.die.boot.gated) ∧ t.core = s.core := by
  have hup : k ∈ (arraysAsking s).filter fun k => k.toNat % 8 == s.arg.n % 8 := List.mem_filter.2 ⟨hk, by simpa using hg⟩
  have hne : ((arraysAsking s).filter fun k => k.toNat % 8 == s.arg.n % 8).isEmpty = false := by
    rw [List.isEmpty_eq_false_iff]
    exact List.ne_nil_of_mem hup
  refine ⟨_, rfl, ?_⟩
  simp only [evArrayWake, hb, Bool.false_eq_true, if_false, Nat.not_lt.2 hc, hne]
  refine ⟨?_, rfl, ?_, rfl⟩
  · simp [upBoot, hk, hg]
  · intro j hj hjg
    simp [upBoot, hj, hjg]

/-! ### What a step leaves of the window in which errors are counted (R378) -/

/-- COUNT and SPAN of ERRWIN. -/
def errWindow (s : State) : BitVec 16 × BitVec 40 := (s.die.boot.errCount, s.die.boot.errSpan)

@[simp] theorem errWindow_mk (c : CoreSt) (d : DieSt) (i : List (Instr × EventArg)) (a : EventArg) (o : List OutMsg) (t n : Nat) :
    errWindow ⟨c, d, i, a, o, t, n⟩ = (d.boot.errCount, d.boot.errSpan) := (rfl)
@[simp] theorem mk_errWindow (s : State) : (s.die.boot.errCount, s.die.boot.errSpan) = errWindow s := (rfl)
@[simp] theorem errWindow_upCore (f : CoreSt → CoreSt) (s : State) : errWindow (s.upCore f) = errWindow s := (rfl)
@[simp] theorem errWindow_send (m : OutMsg) (s : State) : errWindow (s.send m) = errWindow s := (rfl)
@[simp] theorem errWindow_upDie {f : DieSt → DieSt} (hf : ∀ d, (f d).boot = d.boot) (s : State) : errWindow (s.upDie f) = errWindow s :=
  congrArg (fun b : Boot => (b.errCount, b.errSpan)) (hf s.die)
@[simp] theorem errWindow_upBoot {f : Boot → Boot} (hc : ∀ b, (f b).errCount = b.errCount) (hs : ∀ b, (f b).errSpan = b.errSpan) (s : State) :
    errWindow (upBoot f s) = errWindow s := Prod.ext (hc _) (hs _)
@[simp] theorem errWindow_ite (c : Prop) [Decidable c] (s t : State) :
    errWindow (if c then s else t) = if c then errWindow s else errWindow t := apply_ite errWindow c s t
@[simp] theorem errWindow_foldl {α : Type} {f : State → α → State} (hf : ∀ s a, errWindow (f s a) = errWindow s) (l : List α) (s : State) :
    errWindow (l.foldl f s) = errWindow s := frame_foldl hf l s
@[simp] theorem errWindow_dramPut (pa tier2 d s) : errWindow (dramPut pa tier2 d s) = errWindow s := by
  unfold dramPut
  split <;> simp
@[simp] theorem errWindow_upCoh (f s) : errWindow (upCoh f s) = errWindow s := (rfl)
@[simp] theorem errWindow_logError (k pa ia who cls s) : errWindow (logError k pa ia who cls s) = errWindow s := (rfl)
@[simp] theorem errWindow_markLasting (u s) : errWindow (markLasting u s) = errWindow s := by
  unfold markLasting
  split <;> rfl
@[simp] theorem errWindow_l2Touch (toward l s) : errWindow (l2Touch toward l s) = errWindow s := by
  unfold l2Touch
  split <;> simp
@[simp] theorem errWindow_l2Enter (l s) : errWindow (l2Enter l s) = errWindow s := by
  simp only [l2Enter]
  (repeat' split) <;> simp
@[simp] theorem errWindow_l2Leave (l s) : errWindow (l2Leave l s) = errWindow s := (rfl)
@[simp] theorem errWindow_discard (s info l) : errWindow (discard s info l) = errWindow s := by simp [discard]
@[simp] theorem errWindow_loadError (id info s) : errWindow (loadError id info s) = errWindow s := by
  unfold loadError
  split <;> simp
@[simp] theorem errWindow_failAccess (info g s) : errWindow (failAccess info g s) = errWindow s := by
  unfold failAccess
  (repeat' split) <;> simp
@[simp] theorem errWindow_dropAcc (g s) : errWindow (dropAcc g s) = errWindow s := (rfl)
@[simp] theorem errWindow_recallL1 (l s) : errWindow (recallL1 l s) = errWindow s := (rfl)
@[simp] theorem errWindow_shareL1 (l s) : errWindow (shareL1 l s) = errWindow s := (rfl)
@[simp] theorem errWindow_setDram (l pa tier2 d s) : errWindow (setDram l pa tier2 d s) = errWindow s := by simp [setDram]
@[simp] theorem errWindow_addBad (l err eng s) : errWindow (addBad l err eng s) = errWindow s := (rfl)
@[simp] theorem errWindow_hotSample (l s) : errWindow (hotSample l s) = errWindow s := by
  simp only [hotSample]
  (repeat' split) <;> simp
@[simp] theorem errWindow_mcWriteBack (l s) : errWindow (mcWriteBack l s) = errWindow s := by
  unfold mcWriteBack
  split <;> simp
@[simp] theorem errWindow_dropRequest (t s) : errWindow (dropRequest t s) = errWindow s := (rfl)
@[simp] theorem errWindow_dropPrefs (l s) : errWindow (dropPrefs l s) = errWindow s := (rfl)
@[simp] theorem errWindow_setLocal (l st s) : errWindow (setLocal l st s) = errWindow s := by
  unfold setLocal
  (repeat' split) <;> simp
@[simp] theorem errWindow_sendRequest (t s) : errWindow (sendRequest t s) = errWindow s := (rfl)
@[simp] theorem errWindow_failRequest (t err s) : errWindow (failRequest t err s) = errWindow s := by
  unfold failRequest
  (repeat' split) <;> simp
@[simp] theorem errWindow_request (t0 s) : errWindow (request t0 s) = errWindow s := by simp [request]
@[simp] theorem errWindow_giveUp (l s) : errWindow (giveUp l s) = errWindow s := by
  unfold giveUp
  (repeat' split) <;> simp
@[simp] theorem errWindow_evictHome (l s) : errWindow (evictHome l s) = errWindow s := by simp [evictHome]
@[simp] theorem errWindow_clearDead (s) : errWindow (clearDead s) = errWindow s := by simp [clearDead]
@[simp] theorem errWindow_disableWay (slice way s) : errWindow (disableWay slice way s) = errWindow s := by simp [disableWay]
@[simp] theorem errWindow_raiseAsync (f s) : errWindow (raiseAsync f s) = errWindow s := (rfl)
@[simp] theorem errWindow_seqRaise (cause block tile detail s) : errWindow (seqRaise cause block tile detail s) = errWindow s := (rfl)
@[simp] theorem errWindow_upDisp (f s) : errWindow (upDisp f s) = errWindow s := (rfl)
@[simp] theorem errWindow_upGang (domain f s) : errWindow (upGang domain f s) = errWindow s := (rfl)
@[simp] theorem errWindow_setGranules (gs x s) : errWindow (setGranules gs x s) = errWindow s := (rfl)
@[simp] theorem errWindow_dropCtx (va s) : errWindow (dropCtx va s) = errWindow s := (rfl)
@[simp] theorem errWindow_releaseCtx (r s) : errWindow (releaseCtx r s) = errWindow s := by
  unfold releaseCtx
  (repeat' split) <;> simp
@[simp] theorem errWindow_preemptCore (cid kind toHead s) : errWindow (preemptCore cid kind toHead s) = errWindow s := by simp [preemptCore]
@[simp] theorem errWindow_preemptMates (domain but toHead s) : errWindow (preemptMates domain but toHead s) = errWindow s := by simp [preemptMates]
@[simp] theorem errWindow_preemptAll (v kind toHead s) : errWindow (preemptAll v kind toHead s) = errWindow s := by simp [preemptAll]
@[simp] theorem errWindow_arrive (r s) : errWindow (arrive r s) = errWindow s := by
  simp only [arrive]
  (repeat' split) <;> simp
@[simp] theorem errWindow_fifoPut (win toHead r s) : errWindow (fifoPut win toHead r s) = errWindow s := by simp [fifoPut]
@[simp] theorem errWindow_returnDrain (s) : errWindow (returnDrain s) = errWindow s := by
  unfold returnDrain
  split <;> simp
@[simp] theorem errWindow_drainAll (n s) : errWindow (drainAll n s) = errWindow s := by
  induction n generalizing s with
  | zero => rfl
  | succ n ih => exact (ih _).trans (errWindow_returnDrain s)
theorem errWindow_neverRun {s t : State} {r : Rec} (h : neverRun s r = some t) : errWindow t = errWindow s := by
  unfold neverRun at h
  (repeat' split at h) <;> cases h <;> simp
@[simp] theorem errWindow_fifoEnterWith (win toHead r s) : errWindow (fifoEnterWith win toHead r s) = errWindow s := by
  unfold fifoEnterWith
  split
  next h => exact errWindow_neverRun h
  · dsimp only
    split <;> simp
@[simp] theorem errWindow_fifoEnter (toHead r s) : errWindow (fifoEnter toHead r s) = errWindow s := by simp [fifoEnter]
@[simp] theorem errWindow_upGrotto (f s) : errWindow (upGrotto f s) = errWindow s := (rfl)
@[simp] theorem errWindow_arenaWrite (l d s) : errWindow (arenaWrite l d s) = errWindow s := by
  unfold arenaWrite
  split <;> simp
@[simp] theorem errWindow_placeWrite (p bytes s) : errWindow (placeWrite p bytes s) = errWindow s := by simp [placeWrite]
@[simp] theorem errWindow_trimStore (n s) : errWindow (trimStore n s) = errWindow s := by
  induction n generalizing s with
  | zero => rfl
  | succ n ih =>
    unfold trimStore
    dsimp only
    split
    · rfl
    · split
      · rfl
      · exact (ih _).trans (by split <;> simp)
@[simp] theorem errWindow_coreOffline (cid lost s) : errWindow (coreOffline cid lost s) = errWindow s := by
  simp only [coreOffline]
  (repeat' split) <;> simp
@[simp] theorem errWindow_spareStruct (kind index way lost s) : errWindow (spareStruct kind index way lost s) = errWindow s := by
  unfold spareStruct
  split <;> simp
@[simp] theorem errWindow_weighEvents (s) : errWindow (weighEvents s) = errWindow s := by simp [weighEvents]

/-! ### Management registers (R6) -/

theorem readErrwin_written {b : Boot} {x : W64} (hc : b.errCount = (x.extractLsb' 40 8).setWidth 16)
    (hs : b.errSpan = x.extractLsb' 0 40) : readErrwin b = x &&& 0x0000FFFFFFFFFFFF := by
  have hmask : x.toNat &&& 281474976710655 = x.toNat % 2 ^ 48 := Nat.and_two_pow_sub_one_eq_mod x.toNat 48
  apply BitVec.eq_of_toNat_eq
  simp [readErrwin, hc, hs, Nat.shiftRight_eq_div_pow, hmask]
  omega
/-- The bits of GRARENA that EN and SIZEG take (R95). -/
theorem arenaMask_bits : ∀ i : Fin 64, (0x803FC00000000000 : W64)[i.val] = (decide (46 ≤ i.val ∧ i.val < 54) || decide (i.val = 63)) := by
  decide
theorem arenaWord_eq {x : W64} (he : x.getLsbD 63 = true) :
    BitVec.ofNat 64 (2 ^ 63 + (x.extractLsb' 46 8).toNat * 2 ^ 46) = x &&& 0x803FC00000000000 := by
  have hword : BitVec.ofNat 64 (2 ^ 63 + (x.extractLsb' 46 8).toNat * 2 ^ 46)
      = (1#1 ++ 0#9 ++ x.extractLsb' 46 8 ++ 0#46 : BitVec (1 + 9 + 8 + 46)) := by
    apply BitVec.eq_of_toNat_eq
    have hlt := (x.extractLsb' 46 8).isLt
    generalize x.extractLsb' 46 8 = z at *
    simp only [BitVec.toNat_append, ← Nat.shiftLeft_add_eq_or_of_lt z.isLt]
    simp [Nat.shiftLeft_eq]
    omega
  rw [hword]
  ext i hi
  rw [BitVec.getElem_and, arenaMask_bits ⟨i, hi⟩]
  simp only [BitVec.getElem_append]
  rcases Nat.lt_or_ge i 46 with h | h
  · simp [h, show ¬ 46 ≤ i by omega, show ¬ i = 63 by omega]
  · rcases Nat.lt_or_ge i 54 with h' | h'
    · simp [h, h', Nat.not_lt.2 h, show i - 46 < 8 by omega, show 46 + (i - 46) = i by omega]
      exact BitVec.getLsbD_eq_getElem hi
    · rcases Nat.lt_or_ge i 63 with h'' | h''
      · simp [Nat.not_lt.2 h, Nat.not_lt.2 h', show ¬ i - 46 < 8 by omega, show i - 46 - 8 < 9 by omega, show ¬ i = 63 by omega]
      · obtain rfl : i = 63 := by omega
        simpa using he
theorem readArena_written {x : W64} {g : Grotto} (hq : g.seqs = []) (he : x.getLsbD 63 = true) (h0 : 0 < (x.extractLsb' 46 8).toNat)
    (h1 : (x.extractLsb' 46 8).toNat ≤ 128) : readArena (writeArena x g) = x &&& 0x803FFFFFC0000000 := by
  have hsize : (BitVec.ofNat 16 (x.extractLsb' 46 8).toNat).toNat = (x.extractLsb' 46 8).toNat := by
    rw [BitVec.toNat_ofNat, Nat.mod_eq_of_lt (by omega)]
  have hw : writeArena x g = { g with
      en := x.getLsbD 63, sizeG := BitVec.ofNat 16 (x.extractLsb' 46 8).toNat, base := x &&& 0x00003FFFC0000000 } := by
    unfold writeArena
    rw [if_neg]
    simp only [hq, he]
    generalize (x.extractLsb' 46 8).toNat = n at *
    simp
    omega
  rw [hw]
  simp only [readArena, he, if_true, hsize, arenaWord_eq he]
  rw [← BitVec.and_or_distrib_left]
  rfl

theorem registerWrite_mkdat {s : State} {k : BitVec 3} (hr : s.arg.reg = .mkdat k) (hb : s.die.keys.busy = false) :
    ∃ t, exec .registerWrite s = .next t ∧ t.die.keys.dat[k.toNat] = s.arg.x
      ∧ ∀ j : Nat, (h : j < 8) → j ≠ k.toNat → t.die.keys.dat[j] = s.die.keys.dat[j] := by
  have h : evRegisterWrite s = upKeys (fun u => { u with dat := u.dat.set k.toFin s.arg.x }) s := by
    simp [evRegisterWrite, hr, hb]
  refine ⟨_, congrArg Host.Outcome.next h, ?_, fun j hj hjk => ?_⟩
  · exact Vector.getElem_set_self _
  · exact Vector.getElem_set_ne k.toFin.isLt hj (Ne.symm hjk)
theorem registerWrite_hpctl {s : State} (hr : s.arg.reg = .hpctl) :
    exec .registerWrite s = .next (s.upDie fun d => { d with xlate := writeHpctl s.arg.x d.xlate }) := by
  refine congrArg Host.Outcome.next ?_
  simp only [evRegisterWrite, hr]
theorem registerWrite_tqroute {s : State} {chip : BitVec 9} (hr : s.arg.reg = .tqroute chip) :
    exec .registerWrite s = .next (writeRoute chip s.arg.x s) := by
  refine congrArg Host.Outcome.next ?_
  simp only [evRegisterWrite, hr]
theorem registerWrite_sqctl {s : State} (hr : s.arg.reg = .sqctl) :
    exec .registerWrite s = .next (upSeq (writeSqctl s.arg.x) s) := by
  refine congrArg Host.Outcome.next ?_
  simp only [evRegisterWrite, hr]
theorem registerWrite_errwin {s : State} (hr : s.arg.reg = .errwin) (hc : s.arg.x.extractLsb' 40 8 ≠ 0) :
    ∃ t, exec .registerWrite s = .next t ∧ readErrwin t.die.boot = s.arg.x &&& 0x0000FFFFFFFFFFFF := by
  have h : evRegisterWrite s = weighEvents (upBoot (fun b => { b with
      errCount := s.arg.x.extractLsb' 40 8 |>.setWidth 16, errSpan := s.arg.x.extractLsb' 0 40 }) s) := by
    simp only [evRegisterWrite, hr]
    exact if_neg hc
  have hw := errWindow_weighEvents (upBoot (fun b => { b with
      errCount := s.arg.x.extractLsb' 40 8 |>.setWidth 16, errSpan := s.arg.x.extractLsb' 0 40 }) s)
  exact ⟨_, congrArg Host.Outcome.next h, readErrwin_written (congrArg Prod.fst hw) (congrArg Prod.snd hw)⟩
theorem registerWrite_grarena {s : State} (hr : s.arg.reg = .grarena) :
    exec .registerWrite s = .next (upGrotto (writeArena s.arg.x) s) := by
  refine congrArg Host.Outcome.next ?_
  simp only [evRegisterWrite, hr]
theorem writeArena_of_open {x : W64} {g : Grotto} (hq : g.seqs ≠ []) : writeArena x g = g := by
  simp [writeArena, hq]

/-- Settles O54: each clause is a lemma above, or holds as the step is written. -/
theorem bootAndPowerSteps : Obligations.BootAndPowerSteps := by
  refine ⟨fun s => ⟨coldReset_ready, fun _ _ _ => coldReset_failed, fun _ => coldReset_unverified⟩, fun s => coreReset_enters,
    fun s => coreReset_stops, fun s hn => ?_, fun s => turnover_cleans, fun s => ⟨rfl, rfl⟩,
    fun s hb hr hq => ⟨arrayPowerGate_waits hb, arrayPowerGate_gates hb hr hq⟩,
    fun s hb => ⟨arrayWake_waits hb, fun hc _ => arrayWake_admits hb hc⟩, fun s => ⟨_, rfl, rfl, rfl, rfl, ?_, rfl⟩, fun s => ?_⟩
  · exact ⟨_, congrArg Host.Outcome.next (evAttestationQuote_of_nonce hn), rfl, rfl, rfl, rfl⟩
  · exact BitVec.ofNat_toNat ..
  · refine ⟨fun _ => registerWrite_mkdat, fun hr => ?_, fun hr => ?_, fun hr => ?_, fun hr => ?_, fun chip hr => ?_,
      registerWrite_errwin, fun hr hq he h0 h1 => ?_, fun hr hq => ?_⟩
    · exact congrArg Host.Outcome.next (by simp only [evRegisterWrite, hr])
    · exact ⟨_, registerWrite_hpctl hr, rfl, rfl, rfl, rfl, rfl⟩
    · exact congrArg Host.Outcome.next (by simp only [evRegisterWrite, hr])
    · exact ⟨_, registerWrite_sqctl hr, rfl, rfl, rfl, rfl⟩
    · exact ⟨_, registerWrite_tqroute hr, rfl⟩
    · exact ⟨_, registerWrite_grarena hr, readArena_written hq he h0 h1⟩
    · exact (registerWrite_grarena hr).trans (by simp [upGrotto, writeArena_of_open hq, State.upDie])

end Sys2Proof.Machine
end

section
/-! PROOF. The C class at issue: layout fields, arrival bitmaps and semaphores (R80, R169, R174, R175; O26), and copy commands (R77, R78,
R170 to R173, R344; O27). What a syllable of the C slot answers is brought to one of four forms: effects that leave little outstanding, a
cause, a wait, or nothing because its guard is false. -/
namespace Sys2Proof.Machine

/-! ### Effects that leave little outstanding (R152, R195, R344) -/

/-- Effects that fit the limits of R344 and R195 in a state with nothing outstanding: few pieces of results, few destinations, few
request entries. -/
structure Eff.Small (e : Eff) : Prop where
  pieces : pieceSum (e.pend.filter fun r => r.left != 0) ≤ 64
  awaits : ∀ t : State, (e.post t).core.awaits.length ≤ t.core.awaits.length + 16
  entries : ∀ t : State, entriesUsed (e.post t) ≤ entriesUsed t + 1024

theorem Eff.Small.of_none : Eff.none.Small where
  pieces := Nat.zero_le 64
  awaits _ := Nat.le_add_right ..
  entries _ := Nat.le_add_right ..

theorem Eff.Small.of_result {p : Pend} (hp : p.pcs ≤ 64) : (results [p]).Small where
  pieces := by
    by_cases hl : p.left = 0 <;> simp [results, pieceSum, hl, hp]
  awaits _ := Nat.le_add_right ..
  entries _ := Nat.le_add_right ..

/-- What is outstanding: results that the scoreboard awaits, accesses, and prefetches. -/
def outstanding (s : State) : List Await × List GAcc × List Pref := (s.core.awaits, s.core.accs, s.core.prefs)

@[simp] theorem outstanding_startWaits (s : State) : outstanding (startWaits s) = outstanding s := rfl
@[simp] theorem outstanding_setCh (k : BitVec 2) (f : Channel → Channel) (s : State) : outstanding (setCh k f s) = outstanding s := rfl
@[simp] theorem outstanding_fillBank (set : BitVec 3) (b : Bool) (s : State) : outstanding (fillBank set b s) = outstanding s := rfl
@[simp] theorem outstanding_setSem (m : BitVec 8) (v : Nat) (s : State) : outstanding (setSem m v s) = outstanding s :=
  outstanding_startWaits _
@[simp] theorem outstanding_pushCmd (s : State) (c : Cmd) (b : Option Bool) (t : State) :
    outstanding (pushCmd s c b t) = outstanding t := by
  cases b <;> simp [pushCmd]

/-- Effects at commit that leave alone what is outstanding. -/
theorem Eff.Small.of_frame {f : State → State} (hf : ∀ t, outstanding (f t) = outstanding t) : (effect f).Small where
  pieces := Nat.zero_le 64
  awaits t := by
    have h : (f t).core.awaits = t.core.awaits := congrArg Prod.fst (hf t)
    simp [effect, h]
  entries t := by
    have h : entriesUsed (f t) = entriesUsed t := congrArg (fun x => x.2.1.length + x.2.2.length) (hf t)
    simp [effect, h]

theorem Eff.Small.of_pushResult (s : State) (r : BitVec 6) (slot : Nat) (v : W64) : (effect (pushResult s r slot v)).Small where
  pieces := Nat.zero_le 64
  awaits t := by simp [effect, pushResult, pushAwait]
  entries _ := Nat.le_add_right ..

/-! ### A syllable of the C slot that issues alone -/

section
variable {s : State} {i : Instr} {g : Guard} {refs : List RegRef} {run : State → SylOut}

theorem runs_cSlot (hs : Settled s) (hi : IsAct i (mkAct cSlot refs noPriv run)) {e : Eff} (hrun : run s = .ok e) (he : e.Small) :
    Runs i e s :=
  runs_effect hs hi hrun rfl rfl rfl (fun t => ⟨he.awaits t, he.entries t⟩) he.pieces

theorem traps_cSlot (hs : Settled s) (hi : IsAct i (mkAct cSlot refs noPriv run)) {k : Cause} {v : W64} (hrun : run s = .raise k v) :
    Traps i (raised i k v s) s :=
  traps_raise hs hi hrun rfl

theorem holds_cSlot (hs : Settled s) (hi : IsAct i (mkAct cSlot refs noPriv run)) {w : WaitKind} {f : State → State}
    (hrun : run s = .stall w f) : Holds i w f s :=
  holds_stall hs hi hrun rfl (bankRows_nil rfl)

theorem runs_guarded_cSlot (hs : Settled s) (hi : IsAct i (mkAct cSlot refs noPriv run)) {e : Eff}
    (hrun : run s = if guardOn g s then .ok e else .skip) (he : e.Small) : Runs i (guarded g s e) s := by
  unfold guarded
  split
  next hg => exact runs_cSlot hs hi (hrun.trans (if_pos hg)) he
  next hg => exact runs_cSlot hs hi (hrun.trans (if_neg hg)) .of_none

end

/-! ### Layout fields, arrival bitmaps and semaphores (R169, R174, R175) -/

section
variable {s : State} (hs : Settled s)
include hs

theorem runs_lsw (f : CLs) : Runs (.lsw f) (guarded f.g s (results
    [⟨.lsf f.l f.f, (readS s f.r &&& lsMask f.f.toNat).setWidth 1024, lowMask 8, 2, 9, 0, 1⟩])) s :=
  runs_guarded_cSlot hs (⟨rfl, fun _ => rfl⟩ : IsAct (.lsw f) (actLsw f)) rfl (.of_result (Nat.le_add_left 1 63))

theorem runs_lsr (f : CLs) : Runs (.lsr f) (guarded f.g s (effect (pushResult s f.r 9 (readLs s f.l f.f)))) s :=
  runs_guarded_cSlot hs (⟨rfl, fun _ => rfl⟩ : IsAct (.lsr f) (actLsr f)) rfl (.of_pushResult ..)

theorem runs_abclr (f : CAb) : Runs (.abclr f) (guarded f.g s (effect fun t => t.upCore fun c =>
    { c with ab := c.ab.set f.n.toFin (c.ab.get f.n.toFin &&& ~~~(readS s f.a)) })) s :=
  runs_guarded_cSlot hs (⟨rfl, fun _ => rfl⟩ : IsAct (.abclr f) (actAbclr f)) rfl (.of_frame fun _ => rfl)

theorem runs_abwait (f : CAb) (h : guardOn f.g s = false ∨ abOf s f.n &&& readS s f.a = readS s f.a) :
    Runs (.abwait f) Eff.none s := by
  refine runs_cSlot hs (⟨rfl, fun _ => rfl⟩ : IsAct (.abwait f) (actAbwait f)) ?_ .of_none
  rcases h with hg | hb
  · simp [hg, SylOut.skip]
  · simp [hb, SylOut.skip]

theorem holds_abwait (f : CAb) (hg : guardOn f.g s = true) (hb : abOf s f.n &&& readS s f.a ≠ readS s f.a) :
    Holds (.abwait f) .sem id s :=
  holds_cSlot hs (⟨rfl, fun _ => rfl⟩ : IsAct (.abwait f) (actAbwait f)) (by simp [hg, hb])

theorem runs_semset (f : CSem) : Runs (.semset f) (guarded f.g s (effect (setSem f.m ((readS s f.a).toNat % 2 ^ 16)))) s :=
  runs_guarded_cSlot hs (⟨rfl, fun _ => rfl⟩ : IsAct (.semset f) (actSemset f)) rfl (.of_frame (outstanding_setSem f.m _))

theorem runs_semadd (f : CSem) : Runs (.semadd f) (guarded f.g s (effect fun t => setSem f.m
    (min 0xFFFF (max 0 ((semOf t f.m : Int) + sextInt (readS s f.a).toNat 16)).toNat) t)) s :=
  runs_guarded_cSlot hs (⟨rfl, fun _ => rfl⟩ : IsAct (.semadd f) (actSemadd f)) rfl (.of_frame fun _ => outstanding_setSem ..)

theorem runs_semrd (f : CSem) : Runs (.semrd f) (guarded f.g s (effect (pushResult s f.a 9 (BitVec.ofNat 64 (semOf s f.m))))) s :=
  runs_guarded_cSlot hs (⟨rfl, fun _ => rfl⟩ : IsAct (.semrd f) (actSemrd f)) rfl (.of_pushResult ..)

theorem runs_semwait (f : CSemw) (h : guardOn f.g s = false ∨ (readS s f.a).toNat % 2 ^ 16 ≤ semOf s f.m) :
    Runs (.semwait f) (guarded f.g s (if f.take then effect (setSem f.m (semOf s f.m - (readS s f.a).toNat % 2 ^ 16))
      else Eff.none)) s := by
  refine runs_guarded_cSlot hs (⟨rfl, fun _ => rfl⟩ : IsAct (.semwait f) (actSemwait f)) ?_ ?_
  · rcases h with hg | hv
    · simp [hg]
    · simp only [hv, if_true]
      cases f.take <;> rfl
  · cases f.take
    · exact .of_none
    · exact .of_frame (outstanding_setSem f.m _)

theorem holds_semwait (f : CSemw) (hg : guardOn f.g s = true) (hv : semOf s f.m < (readS s f.a).toNat % 2 ^ 16) :
    Holds (.semwait f) .sem id s :=
  holds_cSlot hs (⟨rfl, fun _ => rfl⟩ : IsAct (.semwait f) (actSemwait f)) (by simp only [hg, Nat.not_le.2 hv, if_true, if_false])

end

/-- Settles O26: one law for each instruction, and for the two waits one more while their condition is not met. -/
theorem layoutBitmapAndSemaphoreResults : Obligations.LayoutBitmapAndSemaphoreResults := fun _ hs =>
  ⟨fun f => ⟨runs_lsw hs f, runs_lsr hs f⟩,
    fun f => ⟨runs_abclr hs f, runs_abwait hs f, holds_abwait hs f⟩,
    fun f => ⟨runs_semset hs f, runs_semadd hs f, runs_semrd hs f⟩,
    fun f => ⟨runs_semwait hs f, holds_semwait hs f⟩⟩

/-! ### Copy commands: checks, capture bank, queue (R77, R78, R82, R90, R344) -/

/-- The bank that a command captures its layout set into, where it captures one at all; none where no bank is free. -/
def bankOut (s : State) (c : Cmd) : Option (Option Bool) := if usesSet c then (pickBank s c.set).map some else some none

theorem queueOut_full {s : State} {c : Cmd} (h : 16 ≤ (chOf s (chanOf c.set)).queue.length ∨ bankOut s c = none) :
    queueOut s c = .stall .structural id := by
  unfold queueOut
  split
  · rfl
  next hroom =>
    have hb := h.resolve_left hroom
    by_cases hu : usesSet c
    · have hp : pickBank s c.set = none := by simpa [bankOut, hu] using hb
      simp [hu, hp]
    · simp [bankOut, hu] at hb

theorem queueOut_room {s : State} {c : Cmd} {b : Option Bool} (h : (chOf s (chanOf c.set)).queue.length < 16)
    (hb : bankOut s c = some b) : queueOut s c = .now (pushCmd s c b) := by
  unfold queueOut
  rw [if_neg (Nat.not_le.2 h)]
  by_cases hu : usesSet c
  · obtain ⟨k, hp, rfl⟩ : ∃ k, pickBank s c.set = some k ∧ some k = b := by simpa [bankOut, hu] using hb
    simp [hu, hp]
  · obtain rfl : none = b := by simpa [bankOut, hu] using hb
    simp [hu]

/-- What a copy command answers where its guard is true: the cause that its checks find, or its way into the queue. -/
def checkedOut (s : State) (c : Cmd) : Option (Cause × W64) → SylOut
  | some (k, v) => .raise k v
  | none => queueOut s c

/-- The global addresses that a tile command reaches, first and last, with the permission it needs (R82, R107). -/
def tileRange (c : Cmd) : Option (W64 × W64 × Need) :=
  if c.isKv then (kvBlocks c).head?.map fun b =>
    (kvEntryVa c b, kvEntryVa c ((kvBlocks c).getLastD b) + 7, if kvAppend c then .w else .rd)
  else (tileReach c).map fun r => (r.1, r.2, if c.isIn then .rd else .w)

/-- What the checks at issue of a tile command find: a malformed layout leaves only the scratchpad address to check, any other has its
global range checked before its scratchpad span (R82, R90). -/
def tileChecks (s : State) (c : Cmd) : Option (Cause × W64) :=
  let span := (addrSpanFault s c.e1 (tileSpan c)).map fun x => (Cause.scratchBounds, x)
  if layoutBad c then (if addrOk c.e1 then none else some (.scratchBounds, c.e1))
  else match tileRange c with
    | some r => if (cmdWindow c r.1 r.2.1 r.2.2).isNone then some (.range, r.1) else span
    | none => span

theorem checkedOut_span (s : State) (c : Cmd) (x : Option W64) :
    checkedOut s c (x.map fun v => (Cause.scratchBounds, v)) = match x with
      | some v => .raise .scratchBounds v
      | none => queueOut s c := by
  cases x <;> rfl

theorem checkedOut_ite (s : State) (c : Cmd) (p : Prop) [Decidable p] (x y : Option (Cause × W64)) :
    checkedOut s c (if p then x else y) = if p then checkedOut s c x else checkedOut s c y := apply_ite ..

theorem tileIssue_eq (s : State) (c : Cmd) : tileIssue s c = checkedOut s c (tileChecks s c) := by
  unfold tileIssue tileChecks
  extract_lets range span
  have hrange : range = tileRange c := by
    unfold range tileRange
    cases kvBlocks c <;> rfl
  rw [hrange, checkedOut_ite]
  split
  · rw [checkedOut_ite]
    rfl
  · cases tileRange c with
    | none => exact (checkedOut_span ..).symm
    | some r =>
      change _ = checkedOut s c (if _ then _ else Option.map _ _)
      rw [checkedOut_ite, checkedOut_span]
      rfl

/-- The instruction is a copy command: a syllable of the C slot that answers as checkedOut says where its guard is true. -/
def IsCopy (i : Instr) (g : Guard) (c : Cmd) (checks : Option (Cause × W64)) (s : State) : Prop :=
  ∃ refs run, IsAct i (mkAct cSlot refs noPriv run) ∧ run s = if guardOn g s then checkedOut s c checks else .skip

section
variable {s : State} {i : Instr} {g : Guard} {c : Cmd} {checks : Option (Cause × W64)}

theorem IsCopy.runs_off (h : IsCopy i g c checks s) (hs : Settled s) (hg : guardOn g s = false) : Runs i Eff.none s := by
  obtain ⟨refs, run, hi, hrun⟩ := h
  exact runs_cSlot hs hi (hrun.trans (by rw [hg]; rfl)) .of_none

theorem IsCopy.traps (h : IsCopy i g c checks s) (hs : Settled s) (hg : guardOn g s = true) {k : Cause} {v : W64}
    (hc : checks = some (k, v)) : Traps i (raised i k v s) s := by
  obtain ⟨refs, run, hi, hrun⟩ := h
  exact traps_cSlot hs hi (hrun.trans (by rw [hg, hc]; rfl))

theorem IsCopy.holds (h : IsCopy i g c checks s) (hs : Settled s) (hg : guardOn g s = true) (hc : checks = none)
    (hq : 16 ≤ (chOf s (chanOf c.set)).queue.length ∨ bankOut s c = none) : Holds i .structural id s := by
  obtain ⟨refs, run, hi, hrun⟩ := h
  exact holds_cSlot hs hi (hrun.trans (by rw [hg, hc]; exact queueOut_full hq))

theorem IsCopy.runs (h : IsCopy i g c checks s) (hs : Settled s) (hg : guardOn g s = true) (hc : checks = none)
    (hq : (chOf s (chanOf c.set)).queue.length < 16) {b : Option Bool} (hb : bankOut s c = some b) :
    Runs i (effect (pushCmd s c b)) s := by
  obtain ⟨refs, run, hi, hrun⟩ := h
  exact runs_cSlot hs hi (hrun.trans (by rw [hg, hc]; exact queueOut_room hq hb)) (.of_frame (outstanding_pushCmd s c b))

end

/-- The tile commands CPYIN, CPYOUT and CPYKV share one syllable. -/
theorem isCopy_tile {i : Instr} {op : BitVec 7} {f : CCopy} (hi : IsAct i (tileAct op f)) {s : State} {c : Cmd}
    (hc : c = newCmd s op f.l f.ord f.sc f.ext (readS s f.a) (readS s f.b)) : IsCopy i f.g c (tileChecks s c) s :=
  ⟨_, _, hi, by rw [hc, ← tileIssue_eq]⟩

theorem isCopy_cpych (f : CChain) (s : State) :
    let c := newCmd s 0x06 f.l 0 0 f.ext (readS s f.a) 0
    IsCopy (.cpych f) f.g c (if (cmdWindow c c.e1 (c.e1 + 63) .rd).isNone then some (.range, c.e1) else none) s := by
  intro c
  refine ⟨_, _, (⟨rfl, fun _ => rfl⟩ : IsAct (.cpych f) (actCpych f)), ?_⟩
  rw [checkedOut_ite]
  rfl

theorem isCopy_cpyst (f : CState) (s : State) :
    let x := readS s (pairLo f.p)
    let y := readS s (pairHi f.p)
    IsCopy (.cpyst f) f.g { newCmd s 0x08 f.l 0 0 f.ext (packPair x y) (readS s f.b) with bad := statePairBad x y }
      ((spanBad (spadAddr s) (x.extractLsb' 0 22).toNat (x.extractLsb' 32 25).toNat).map fun v => (.scratchBounds, v)) s :=
  ⟨_, _, (⟨rfl, fun _ => rfl⟩ : IsAct (.cpyst f) (actCpyst f)), by
    dsimp only
    cases spanBad _ _ _ <;> rfl⟩

theorem isCopy_cpymsg (f : CCopy) (s : State) :
    IsCopy (.cpymsg f) f.g (newCmd s 0x09 f.l f.ord f.sc f.ext (readS s f.a) (readS s f.b))
      ((addrSpanFault s (readS s f.a) (msgLen (readS s f.b))).map fun x => (.scratchBounds, x)) s :=
  ⟨_, _, (⟨rfl, fun _ => rfl⟩ : IsAct (.cpymsg f) (actCpymsg f)), by
    cases addrSpanFault s _ _ <;> rfl⟩

/-- Settles O27: each of the six commands is a copy command in the sense of IsCopy, and IsCopy says what its bundle does. -/
theorem copyCommandsQueue : Obligations.CopyCommandsQueue := by
  intro s i g c checks hs hcmd bank
  have h : IsCopy i g c checks s := by
    rcases hcmd with ⟨f, hic, rfl, hck⟩ | ⟨f, rfl, rfl, rfl, rfl⟩ | ⟨f, rfl, rfl, rfl, rfl⟩ | ⟨f, rfl, rfl, rfl, rfl⟩
    · subst hck
      rcases hic with ⟨rfl, hc⟩ | ⟨rfl, hc⟩ | ⟨rfl, hc⟩
      · exact isCopy_tile ⟨rfl, fun _ => rfl⟩ hc
      · exact isCopy_tile ⟨rfl, fun _ => rfl⟩ hc
      · exact isCopy_tile ⟨rfl, fun _ => rfl⟩ hc
    · exact isCopy_cpych f s
    · exact isCopy_cpyst f s
    · exact isCopy_cpymsg f s
  exact ⟨h.runs_off hs, fun hg => ⟨fun _ _ => h.traps hs hg, h.holds hs hg, fun hc hq _ => h.runs hs hg hc hq⟩⟩

end Sys2Proof.Machine
end

section
/-! PROOF. Number formats in results: the corners of integer division (R123, R255; O2), vector compares (R124, R138, R215; O10) and the
special functions of the F slot (R130 to R135, R153, R231; O14). -/
namespace Sys2Proof.Machine

/-! ### Integer division (R123) -/

section
variable {a b : W64} (hb : b ≠ 0)
include hb

theorem divVal_eq_ofInt : divVal a b = BitVec.ofInt 64 (a.toInt.tdiv b.toInt) := if_neg hb
theorem remVal_eq_srem : remVal a b = a.srem b := by
  rw [remVal, if_neg hb, ← BitVec.toInt_srem, BitVec.ofInt_toInt]
theorem divnVal_eq_udiv : divnVal a b = a / b := (if_neg hb).trans BitVec.udiv_def.symm
theorem remnVal_eq_umod : remnVal a b = a % b := (if_neg hb).trans BitVec.umod_def.symm

theorem toInt_remVal : (remVal a b).toInt = a.toInt.tmod b.toInt := by rw [remVal_eq_srem hb, BitVec.toInt_srem]

theorem natAbs_remVal_lt : (remVal a b).toInt.natAbs < b.toInt.natAbs := by
  rw [toInt_remVal hb, Int.natAbs_tmod]
  exact Nat.mod_lt _ (Int.natAbs_pos.2 fun h => hb (BitVec.eq_of_toInt_eq (h.trans BitVec.toInt_zero.symm)))

/-- The remainder is zero or has the dividend's sign. -/
theorem remVal_mul_dividend_nonneg : 0 ≤ (remVal a b).toInt * a.toInt := by
  rw [toInt_remVal hb]
  rcases Int.le_total 0 a.toInt with ha | ha
  · exact Int.mul_nonneg (Int.tmod_nonneg _ ha) ha
  · have hr : 0 ≤ -(a.toInt.tmod b.toInt) := Int.neg_tmod .. ▸ Int.tmod_nonneg _ (Int.neg_nonneg_of_nonpos ha)
    exact Int.mul_nonneg_of_nonpos_of_nonpos (Int.nonpos_of_neg_nonneg hr) ha

theorem divVal_mul_add_remVal : divVal a b * b + remVal a b = a :=
  calc divVal a b * b + remVal a b
      = BitVec.ofInt 64 (a.toInt.tdiv b.toInt) * BitVec.ofInt 64 b.toInt + BitVec.ofInt 64 (a.toInt.tmod b.toInt) := by
        rw [divVal_eq_ofInt hb, ← toInt_remVal hb, BitVec.ofInt_toInt, BitVec.ofInt_toInt]
    _ = BitVec.ofInt 64 (a.toInt.tdiv b.toInt * b.toInt + a.toInt.tmod b.toInt) := by
        rw [BitVec.ofInt_add, BitVec.ofInt_mul]
    _ = a := by rw [Int.tdiv_mul_add_tmod, BitVec.ofInt_toInt]

theorem toNat_remnVal_lt : (remnVal a b).toNat < b.toNat := by
  rw [remnVal_eq_umod hb, BitVec.toNat_umod]
  exact Nat.mod_lt _ (Nat.pos_of_ne_zero fun h => hb (BitVec.eq_of_toNat_eq h))

theorem divnVal_mul_add_remnVal : (divnVal a b).toNat * b.toNat + (remnVal a b).toNat = a.toNat := by
  rw [divnVal_eq_udiv hb, remnVal_eq_umod hb, BitVec.toNat_udiv, BitVec.toNat_umod, Nat.div_add_mod']

end

/-- Settles O2: a zero divisor is the first branch of each function; for any other, quotient and remainder are those of the integers,
brought back to 64 bits. -/
theorem divisionCorners : Obligations.DivisionCorners :=
  ⟨fun _ => ⟨rfl, rfl, rfl, rfl⟩, by decide, by decide,
    fun _ _ hb => ⟨natAbs_remVal_lt hb, remVal_mul_dividend_nonneg hb, divVal_mul_add_remVal hb⟩,
    fun _ _ hb => ⟨toNat_remnVal_lt hb, divnVal_mul_add_remnVal hb⟩⟩

/-! ### Vector compares (R138, R215) -/

/-- The result of a compare for one element, with its flags. -/
def cmpElem (fi : Nat → Nat → Nat → Bool) (ff : FVal → FVal → Bool) (fl : FVal → FVal → Flags) (f : VCmp) (s : State) (i : Nat) :
    Bool × Flags :=
  let a := vEl f.slot f.t s f.a i
  let b := vElB f.slot f.t s f.b i
  match VT.fmt f.t with
  | some fm => (ff (decodeF fm a) (decodeF fm b), fl (decodeF fm a) (decodeF fm b))
  | none => (fi (8 * VT.bytes f.t) a b, 0)

/-- The predicate bits that a compare writes: those of the bytes of the elements whose guard is true, set where its result is. -/
def cmpPend (fi : Nat → Nat → Nat → Bool) (ff : FVal → FVal → Bool) (fl : FVal → FVal → Flags) (f : VCmp) (s : State) : Pend :=
  let is := vElems f.slot f.g f.w f.t s
  let res := cmpElem fi ff fl f s
  pendP (clP (slotCl f.slot) f.p) (elemsMask (VT.bytes f.t) (is.filter fun i => (res i).1)) (elemsMask (VT.bytes f.t) is) 1
    (vNo f.slot) (orAll (is.map fun i => (res i).2))

section
variable {fi : Nat → Nat → Nat → Bool} {ff : FVal → FVal → Bool} {fl : FVal → FVal → Flags}

/-- The model pairs each element with its result before it takes out those that are true. -/
theorem vcmpAct_run (f : VCmp) (s : State) : (vcmpAct f fi ff fl).run s = .ok (results [cmpPend fi ff fl f s]) := by
  cases hf : VT.fmt f.t <;>
    simp [vcmpAct, vAct, mkAct, results, cmpPend, cmpElem, vElems, vEl, vElB, hf, List.filter_map, Function.comp_def]

theorem vCmpLaw_of_act {mk : VCmp → Instr} (hi : ∀ f, IsAct (mk f) (vcmpAct f fi ff fl)) : VCmpLaw mk fi ff fl := fun f s hs _ =>
  runs_results hs (hi f) (vcmpAct_run f s) rfl rfl rfl rfl (Eff.Small.of_result (Nat.le_add_left 1 63)).pieces

end

theorem actVcmpne_eq (f : VCmp) :
    actVcmpne f = vcmpAct f (fun _ a b => decide (a ≠ b)) (fun x y => !funord x y && !feq x y) fun _ _ => 0 := by
  have hne : (fun _ a b : Nat => a != b) = fun _ a b => decide (a ≠ b) := by
    funext _ a b
    exact (decide_not ..).symm
  rw [← hne]
  rfl

/-- Settles O10: each of the seven is a compare in the sense of vCmpLaw_of_act. -/
theorem vectorCompareResults : Obligations.VectorCompareResults :=
  ⟨vCmpLaw_of_act fun _ => ⟨rfl, fun _ => rfl⟩,
    vCmpLaw_of_act fun f => actVcmpne_eq f ▸ ⟨rfl, fun _ => rfl⟩,
    vCmpLaw_of_act fun _ => ⟨rfl, fun _ => rfl⟩, vCmpLaw_of_act fun _ => ⟨rfl, fun _ => rfl⟩,
    vCmpLaw_of_act fun _ => ⟨rfl, fun _ => rfl⟩, vCmpLaw_of_act fun _ => ⟨rfl, fun _ => rfl⟩,
    vCmpLaw_of_act fun _ => ⟨rfl, fun _ => rfl⟩⟩

/-! ### The F slot (R153, R231) -/

/-- What an F syllable of format fm leaves: the rounded value of each element whose guard is true, and the unit busy. -/
def fEff (f : FUn) (fn : FVal → Exact) (fm : Fmt) (s : State) : Eff :=
  ⟨[vecPend (clV f.cl f.d) (VT.bytes f.t) (VW.bytes f.w) 8 5
      ((activeElems (vLanes f.g f.cl s) (VT.bytes f.t) (VW.bytes f.w / VT.bytes f.t)).map fun i =>
        (i, deliver fm .rne (fn (decodeF fm (lane (readV s (clV f.cl f.a)) i (8 * VT.bytes f.t))))))],
    fun t => t.upCore fun c => { c with fBusy := Nat.max 1 (8 * VW.bytes f.w / 512) }, Ctl.none⟩

theorem vecPend_pcs_le (d : BitVec 6) (e lat slot : Nat) (w : VW) (xs : List (Nat × Nat × Flags)) :
    (vecPend d e (VW.bytes w) lat slot xs).pcs ≤ 64 := by
  cases w <;> exact Nat.le_of_ble_eq_true rfl

theorem fEff_small (f : FUn) (fn : FVal → Exact) (fm : Fmt) (s : State) : (fEff f fn fm s).Small where
  pieces := (Eff.Small.of_result (vecPend_pcs_le ..)).pieces
  awaits _ := Nat.le_add_right ..
  entries _ := Nat.le_add_right ..

section
variable {f : FUn} {fn : FVal → Exact} {fm : Fmt} {s : State}

theorem fAct_run_free (hf : VT.fmt f.t = some fm) (hb : s.core.fBusy = 0) : (fAct f fn).run s = .ok (fEff f fn fm s) := by
  simp [fAct, mkAct, fEff, hf, hb]

theorem fAct_run_busy (hb : s.core.fBusy ≠ 0) : (fAct f fn).run s = .stall .structural id := if_neg hb

/-- The three types of the F slot are float formats. -/
theorem fmt_of_fType (ht : (f.t == .bf16 || f.t == .f16 || f.t == .f32) = true) : ∃ fm, VT.fmt f.t = some fm := by
  simp only [Bool.or_eq_true, beq_iff_eq] at ht
  rcases ht with (h | h) | h <;> exact ⟨_, congrArg VT.fmt h⟩

theorem fUnLaw_of_act {mk : FUn → Instr} (hi : ∀ f, IsAct (mk f) (fAct f fn))
    (hw : ∀ f, (mk f).wf = (f.t == .bf16 || f.t == .f16 || f.t == .f32)) : FUnLaw mk fn := fun f s hs hwf => by
  obtain ⟨fm, hf⟩ := fmt_of_fType ((hw f).symm.trans hwf)
  have he := fEff_small f fn fm s
  exact ⟨fm, hf,
    fun hb => runs_effect hs (hi f) (fAct_run_free hf hb) rfl rfl rfl (fun t => ⟨he.awaits t, he.entries t⟩) he.pieces,
    fun hb => holds_stall hs (hi f) (fAct_run_busy hb) rfl (bankRows_nil rfl)⟩

end

/-- Settles O14: each of the thirteen is a function of the F slot in the sense of fUnLaw_of_act. -/
theorem specialFunctionResults : Obligations.SpecialFunctionResults := by
  refine ⟨?_, ?_, ?_, ?_, ?_, ?_, ?_, ?_, ?_, ?_, ?_, ?_, ?_⟩ <;>
    exact fUnLaw_of_act (fun _ => ⟨rfl, fun _ => rfl⟩) fun _ => rfl

end Sys2Proof.Machine
end

section
/-! PROOF. What enters the matrix queue (R125, R237, R240 to R246, R248, R249; O24). Each of the six instructions is a syllable of the X
slot that answers by xQueueAct; xQueueAct's five answers are said once. -/
namespace Sys2Proof.Machine

@[simp] theorem outstanding_mxPush (s : State) (w : W32) (op : MxOp) (t : State) : outstanding (mxPush s w op t) = outstanding t := rfl
@[simp] theorem outstanding_writeT (s : State) (r : BitVec 3) (x : W64) : outstanding (writeT s r x) = outstanding s := rfl

/-- The lowest byte of the spans that no region holds. -/
def spansFault (s : State) (spans : List (Nat × Nat)) : Option W64 :=
  lowestBad (fun _ => true) (spans.filterMap fun p => spanFault s p.1 p.2)

/-! ### The answers of a syllable that enters the queue -/

section
variable {g : Guard} {illegal wait : State → Bool} {spans : State → List (Nat × Nat)} {go : State → State → State} {s : State}

theorem xQueueAct_run_off (hg : guardOn g s = false) : (xQueueAct g illegal spans wait go).run s = .skip := by
  simp [xQueueAct, mkAct, hg]

theorem xQueueAct_run_illegal (hg : guardOn g s = true) (hl : illegal s = true) :
    (xQueueAct g illegal spans wait go).run s = .raise .illegalOp 0 := by
  simp [xQueueAct, mkAct, hg, hl]

theorem xQueueAct_run_fault (hg : guardOn g s = true) (hl : illegal s = false) {a : W64} (hf : spansFault s (spans s) = some a) :
    (xQueueAct g illegal spans wait go).run s = .raise .scratchBounds a := by
  rw [spansFault] at hf
  simp [xQueueAct, mkAct, hg, hl, hf]

theorem xQueueAct_run_legal (hg : guardOn g s = true) (hl : illegal s = false) (hf : spansFault s (spans s) = none) :
    (xQueueAct g illegal spans wait go).run s = if wait s || queueFull s then .stall .structural id else .now (go s) := by
  rw [spansFault] at hf
  simp [xQueueAct, mkAct, hg, hl, hf]

end

/-- The instruction is a syllable that enters the queue, with these checks and this effect of entering. -/
def IsQueued (i : Instr) (g : Guard) (illegal : Bool) (spans : List (Nat × Nat)) (wait : Bool) (enter : State → State)
    (s : State) : Prop :=
  ∃ il sp wt go, IsAct i (xQueueAct g il sp wt go) ∧ il s = illegal ∧ sp s = spans ∧ wt s = wait ∧ go s = enter

section
variable {i : Instr} {g : Guard} {illegal wait : Bool} {spans : List (Nat × Nat)} {enter : State → State} {s : State}

theorem IsQueued.of_act {il wt : State → Bool} {sp : State → List (Nat × Nat)} {go : State → State → State}
    (hi : IsAct i (xQueueAct g il sp wt go)) : IsQueued i g (il s) (sp s) (wt s) (go s) s :=
  ⟨il, sp, wt, go, hi, rfl, rfl, rfl, rfl⟩

theorem IsQueued.runs_off (h : IsQueued i g illegal spans wait enter s) (hs : Settled s) (hg : guardOn g s = false) :
    Runs i Eff.none s := by
  obtain ⟨il, sp, wt, go, hi, -⟩ := h
  exact runs_results hs hi (xQueueAct_run_off hg) rfl rfl rfl rfl Eff.Small.of_none.pieces

theorem IsQueued.traps_illegal (h : IsQueued i g illegal spans wait enter s) (hs : Settled s) (hg : guardOn g s = true)
    (hl : illegal = true) : Traps i (raised i .illegalOp 0 s) s := by
  obtain ⟨il, sp, wt, go, hi, rfl, -⟩ := h
  exact traps_raise hs hi (xQueueAct_run_illegal hg hl) rfl

theorem IsQueued.traps_bounds (h : IsQueued i g illegal spans wait enter s) (hs : Settled s) (hg : guardOn g s = true)
    (hl : illegal = false) {a : W64} (hf : spansFault s spans = some a) : Traps i (raised i .scratchBounds a s) s := by
  obtain ⟨il, sp, wt, go, hi, rfl, rfl, -⟩ := h
  exact traps_raise hs hi (xQueueAct_run_fault hg hl hf) rfl

theorem IsQueued.holds (h : IsQueued i g illegal spans wait enter s) (hs : Settled s) (hg : guardOn g s = true)
    (hl : illegal = false) (hf : spansFault s spans = none) (hw : (wait || queueFull s) = true) : Holds i .structural id s := by
  obtain ⟨il, sp, wt, go, hi, rfl, rfl, rfl, -⟩ := h
  exact holds_stall hs hi ((xQueueAct_run_legal hg hl hf).trans (if_pos hw)) rfl (bankRows_nil rfl)

theorem IsQueued.runs (h : IsQueued i g illegal spans wait enter s) (hs : Settled s) (hg : guardOn g s = true)
    (hl : illegal = false) (hf : spansFault s spans = none) (hw : (wait || queueFull s) = false)
    (ho : ∀ t, outstanding (enter t) = outstanding t) : Runs i (effect enter) s := by
  obtain ⟨il, sp, wt, go, hi, rfl, rfl, rfl, rfl⟩ := h
  have he : (effect (go s)).Small := .of_frame ho
  exact runs_effect hs hi ((xQueueAct_run_legal hg hl hf).trans (if_neg (by simp [hw]))) rfl rfl rfl
    (fun t => ⟨he.awaits t, he.entries t⟩) he.pieces

end

/-- Settles O24: each of the six instructions is queued in the sense of IsQueued, and IsQueued says what its bundle does. -/
theorem matrixInstructionsQueue : Obligations.MatrixInstructionsQueue := by
  intro s i g illegal spans wait op after hs mul hcase fault
  have h : IsQueued i g illegal spans wait (fun t => after (mxPush s (xWord i) op t)) s
      ∧ ∀ t, outstanding (after t) = outstanding t := by
    rcases hcase with ⟨f, h⟩ | ⟨f, h⟩ | ⟨f, h⟩ | ⟨f, h⟩ | ⟨f, h⟩ | ⟨f, h⟩ <;> obtain ⟨rfl, rfl, rfl, rfl, rfl, rfl, rfl⟩ := h
    · exact ⟨.of_act (⟨rfl, fun _ => rfl⟩ : IsAct (.mma f) (actMma f)), fun _ => rfl⟩
    · exact ⟨.of_act (⟨rfl, fun _ => rfl⟩ : IsAct (.mmas f) (actMmas f)), fun _ => rfl⟩
    · exact ⟨.of_act (⟨rfl, fun _ => rfl⟩ : IsAct (.mconv f) (actMconv f)), fun _ => outstanding_writeT ..⟩
    · exact ⟨.of_act (⟨rfl, fun _ => rfl⟩ : IsAct (.mzero f) (actMzero f)), fun _ => rfl⟩
    · exact ⟨.of_act (⟨rfl, fun _ => rfl⟩ : IsAct (.mstore f) (actMstore f)), fun _ => rfl⟩
    · exact ⟨.of_act (⟨rfl, fun _ => rfl⟩ : IsAct (.mplane f) (actMplane f)), fun _ => rfl⟩
  obtain ⟨hq, ha⟩ := h
  exact ⟨hq.runs_off hs, fun hg => ⟨hq.traps_illegal hs hg, fun hl _ => hq.traps_bounds hs hg hl, hq.holds hs hg,
    fun hl hf hw hn => hq.runs hs hg hl hf (by simp [hw, queueFull, hn]) fun _ =>
      (ha _).trans (outstanding_mxPush ..)⟩⟩

end Sys2Proof.Machine
end
